-- ==== Sys2Proof/Word.lean ====
section
/-! DEFINITION. The word types of the Priuth module: scalar registers, lanes, bytes (03, R62). -/
namespace Sys2Proof

/-- A scalar register value of the sequencer, 64 bits (R62). -/
abbrev Word := BitVec 64

/-- One lane of a vector register, 32 bits (R62). -/
abbrev Lane := BitVec 32

/-- One byte of memory. -/
abbrev Byte := BitVec 8

/-- A 128-bit table entry, format entry or region entry. -/
abbrev Quad := BitVec 128

/-- A bundle, 256 bits (R163). -/
abbrev BundleWord := BitVec 256

end Sys2Proof
end

