-- ==== Sys2Proof/Machine/Tbl.lean ====
section
/-! DEFINITION. Sparse tables: lists of a number and a value, numbers strictly rising, with a value that every unlisted
number reads as. The cores, the clusters, the dies and every register file of the module are held so. -/
namespace Sys2Proof.Machine

/-- A sparse table. -/
abbrev Tbl (α : Type) := List (Nat × α)

/-- The value at a number, or the given value where the number is not listed. -/
def Tbl.get {α : Type} (t : Tbl α) (k : Nat) (d : α) : α :=
  match t with
  | [] => d
  | (i, v) :: t => if i = k then v else Tbl.get t k d

/-- The table with a value at a number. -/
def Tbl.set {α : Type} (t : Tbl α) (k : Nat) (v : α) : Tbl α :=
  match t with
  | [] => [(k, v)]
  | (i, w) :: t => if k < i then (k, v) :: (i, w) :: t else if k = i then (k, v) :: t else (i, w) :: Tbl.set t k v

/-- The table without a number. -/
def Tbl.del {α : Type} (t : Tbl α) (k : Nat) : Tbl α := t.filter fun p => p.1 != k

/-- The value of a number in the table, if it is listed. -/
def Tbl.find {α : Type} (t : Tbl α) (k : Nat) : Option α := (t.find? fun p => p.1 == k).map (·.2)

/-- The numbers listed are strictly rising. -/
abbrev Tbl.wf {α : Type} (t : Tbl α) : Prop := t.Pairwise fun a b => a.1 < b.1

/-- The element of a list at a position, with the rest of the list kept; positions past the end change nothing. -/
def listSet {α : Type} (l : List α) (n : Nat) (v : α) : List α := l.set n v

/-- The n-th element taken out of a list, with what is left. -/
def takeAt {α : Type} (l : List α) (n : Nat) : Option (α × List α) :=
  match l, n with
  | [], _ => none
  | a :: l, 0 => some (a, l)
  | a :: l, n + 1 => (takeAt l n).map fun p => (p.1, a :: p.2)

/-- The little-endian bytes of a number. -/
def leBytes (n : Nat) (v : Nat) : List Byte :=
  match n with
  | 0 => []
  | n + 1 => BitVec.ofNat 8 v :: leBytes n (v / 256)

/-- The number that little-endian bytes stand for. -/
def leNat : List Byte → Nat
  | [] => 0
  | b :: l => b.toNat + 256 * leNat l

end Sys2Proof.Machine
end

