-- ==== Sys2Proof/Syntax.lean ====
section
/-! DEFINITION. The syntax of the Priuth module: one constructor of Instr for every row of spec/opcode_table.json.
Control-slot, matrix-slot and copy-slot instructions carry the fields of their encodings (08, R166 to R179);
table operations carry the table entry less its opcode (R174); events carry what arrives with them. -/
namespace Sys2Proof

/-- A 4-bit guard: bits 2:0 name a predicate, bit 3 inverts it (R165). -/
abbrev Guard := BitVec 4

/-- A 6-bit scalar register field (R167). -/
abbrev SReg := BitVec 6

/-- A group table entry less its opcode (R174). -/
structure Entry where
  cls : BitVec 3
  ty : BitVec 3
  dest : BitVec 7
  capv : BitVec 1
  latch : BitVec 3
  nowb : BitVec 1
  sa : BitVec 7
  sb : BitVec 7
  sc : BitVec 7
  mask : BitVec 3
  bank : BitVec 4
  base : BitVec 3
  space : BitVec 2
  rnd : BitVec 2
  fn : BitVec 4
  offset : BitVec 29
  imm : BitVec 32
  deriving DecidableEq, Repr

/-- Fields of MLDS (R256). -/
structure MLdsF where
  g : Guard
  slot : BitVec 9
  sa : SReg
  sb : SReg
  sc : SReg
  fmt : BitVec 4
  pitch : BitVec 5
  krows : BitVec 1
  fsel : BitVec 2
  foff : BitVec 2
  deriving DecidableEq, Repr

/-- Fields of MMA (R177). -/
structure MmaF where
  g : Guard
  plane : BitVec 3
  a : BitVec 9
  b : BitVec 9
  chunks : BitVec 5
  pat : BitVec 8
  fsel : BitVec 2
  foff : BitVec 4
  acc : BitVec 1
  deriving DecidableEq, Repr

/-- Fields of MMAH (R177). -/
structure MmahF where
  g : Guard
  plane : BitVec 3
  ar : SReg
  ac : SReg
  br : SReg
  bc : SReg
  chunks : BitVec 5
  pat : BitVec 8
  fsel : BitVec 2
  foff : BitVec 2
  acc : BitVec 1
  deriving DecidableEq, Repr

/-- The region of a plane that a drain or a load names (R263): first tile row and column, rows and columns less one. -/
structure RegionF where
  tr : BitVec 3
  tc : BitVec 3
  rows : BitVec 3
  cols : BitVec 3
  deriving DecidableEq, Repr

/-- Fields of MDRAIN (R263). -/
structure MDrainF where
  g : Guard
  plane : BitVec 3
  sa : SReg
  sb : SReg
  sc : SReg
  reg : RegionF
  pitch : BitVec 7
  fsel : BitVec 2
  foff : BitVec 2
  deriving DecidableEq, Repr

/-- Fields of MDRAINH (R263, R265). -/
structure MDrainhF where
  g : Guard
  plane : BitVec 3
  sr : SReg
  cw : SReg
  k : SReg
  reg : RegionF
  fsel : BitVec 2
  foff : BitVec 2
  deriving DecidableEq, Repr

/-- Fields of MACCLD (R263). -/
structure MAccldF where
  g : Guard
  plane : BitVec 3
  sa : SReg
  sb : SReg
  reg : RegionF
  pitch : BitVec 7
  deriving DecidableEq, Repr

/-- Fields of MSAMP (R266). -/
structure MSampF where
  g : Guard
  plane : BitVec 3
  sig : SReg
  chunks : BitVec 5
  seed : BitVec 8
  fsel : BitVec 2
  foff : BitVec 2
  deriving DecidableEq, Repr

/-- The registers and flags of an X command (R179, R269). -/
structure XF where
  g : Guard
  dr : SReg
  dc : SReg
  sr : SReg
  sc : SReg
  k : SReg
  cout : BitVec 1
  bufv : BitVec 1
  buf : BitVec 4
  deriving DecidableEq, Repr

/-- What a put or a collective step tells its target of one tile (R278, R285): the tile, UNVER and REFRESH of the entry that arrives, whether it
is carried rime, and whether the issuer's check of the source tile found a bad line. -/
structure TileNote where
  ti : Nat
  tj : Nat
  unver : Bool
  refresh : Nat
  carried : Bool
  bad : Bool
  deriving DecidableEq, Repr, Inhabited

/-- What the target of a put or a collective step must know beside the bits of R334, which gives no field for it (DESIGN CHOICE, log 22): the
destination record and coordinate word, whether the message ends with a continuation, and its tiles. -/
structure PutNote where
  record : List Byte
  coord : BitVec 64
  cont : Bool
  tiles : List TileNote
  deriving DecidableEq, Repr, Inhabited

/-- A flit of the fabric: its 128-bit header and its valid payload bytes (R334); with the first flit of a put or a collective step, what the
target must know beside them. -/
structure Flit where
  header : BitVec 128
  payload : List Byte
  note : Option PutNote
  deriving DecidableEq, Repr

/-- A channel of the fabric at its sending end (R431): module, die and port number; its direction, 0 N, 1 E, 2 S, 3 W; the module, the die and
the port at its other end. -/
structure Link where
  module : Nat
  die : Nat
  port : Nat
  dir : Nat
  toModule : Nat
  toDie : Nat
  toPort : Nat
  deriving DecidableEq, Repr

/-- A reading of one coolant zone (R322): four temperatures in 1/16 degree, the VOID bit, pressure and flow. -/
structure ZoneReading where
  t : List Int
  void : Bool
  press : Nat
  flow : Nat
  deriving DecidableEq, Repr

/-- What firmware configures at bring-up (R335 steps 4 to 6, R302, R308, R317, R360). -/
structure BootConfig where
  failStep : Nat
  failCause : Nat
  module : Nat
  wide : List (BitVec 16)
  balance : Nat
  floor : Nat
  flowcap : Nat
  ttarget : Int
  slotsz : Nat
  qovf : Nat
  ringAddr : Nat
  ringSize : Nat
  map0 : List Byte
  thr : List (BitVec 16)
  off : List (BitVec 16)
  cool : List (Nat × Nat)
  links : List Link
  deriving DecidableEq, Repr

/-- What a heartbeat tells of a collective group (R429): its number, the step at which the sender's members run, and the pair in force. -/
structure GroupBeat where
  group : Nat
  own : Nat
  step : Nat
  tick : Nat
  deriving DecidableEq, Repr

/-- What a fault notice tells (R430): a module is lost, or the link at a port of the notice's origin, by die × 4 + port, and with it the router at
its far end or not. -/
inductive Loss where
  | module (m : Nat)
  | link (port : Nat) (router : Bool)
  deriving DecidableEq, Repr

/-- The energy of a core during a tick, in microjoules: its own, that of its array chunks, and that of its accesses (R306). -/
structure CoreEnergy where
  own : Nat
  arrays : Nat
  accesses : Nat
  deriving DecidableEq, Repr

/-- A management message of the fabric (R310, R313, R428 to R432). -/
inductive Mgmt where
  /-- A token grant: giver module, transfer number, tokens. -/
  | grant (src num tokens : Nat)
  /-- The peer acknowledges or refuses a grant. -/
  | grantAnswer (peer num : Nat) (taken : Bool)
  /-- The giver asks for the outcome of a transfer. -/
  | outcomeQuery (src num : Nat)
  /-- The peer's answer to a query. -/
  | outcomeAnswer (peer num : Nat) (received : Bool)
  /-- A step announcement for a collective group. -/
  | announce (group step tick : Nat)
  /-- A heartbeat: the sender, and what it tells of each of its groups. -/
  | heartbeat (src : Nat) (groups : List GroupBeat)
  /-- A fault notice: origin and sequence number, and what is lost. -/
  | fault (origin seq : Nat) (lost : Loss)
  /-- A load-complete notice of a module. -/
  | loadComplete (src : Nat)
  deriving DecidableEq, Repr

/-- The instructions and events of the module, one constructor for each row of spec/opcode_table.json. -/
inductive Instr where
  -- Integer and logic instructions of the control issue slot (R169, R201)
  | nop
  | add (g : Guard) (d a b : SReg)
  | sub (g : Guard) (d a b : SReg)
  | mul (g : Guard) (d a b : SReg)
  | mulh (g : Guard) (d a b : SReg)
  | mulhn (g : Guard) (d a b : SReg)
  | div (g : Guard) (d a b : SReg)
  | divn (g : Guard) (d a b : SReg)
  | rem (g : Guard) (d a b : SReg)
  | remn (g : Guard) (d a b : SReg)
  | and_ (g : Guard) (d a b : SReg)
  | or_ (g : Guard) (d a b : SReg)
  | xor (g : Guard) (d a b : SReg)
  | andn (g : Guard) (d a b : SReg)
  | shl (g : Guard) (d a b : SReg)
  | shr (g : Guard) (d a b : SReg)
  | sra (g : Guard) (d a b : SReg)
  | rol (g : Guard) (d a b : SReg)
  | min_ (g : Guard) (d a b : SReg)
  | max_ (g : Guard) (d a b : SReg)
  | minn (g : Guard) (d a b : SReg)
  | maxn (g : Guard) (d a b : SReg)
  | clz (g : Guard) (d a : SReg)
  | popc (g : Guard) (d a : SReg)
  | sext (g : Guard) (d a : SReg) (n : BitVec 6)
  | zext (g : Guard) (d a : SReg) (n : BitVec 6)
  | bfx (g : Guard) (d a b : SReg) (len : BitVec 7)
  | bfi (g : Guard) (d a b c : SReg) (len : BitVec 7)
  | sel (g : Guard) (d a b : SReg) (cond : Guard)
  | cmp (g : Guard) (d : BitVec 3) (a b : SReg) (cc : BitVec 3)
  | plog (g : Guard) (d a b : BitVec 3) (t : BitVec 4)
  | lea (g : Guard) (d a b : SReg) (sh : BitVec 3)
  -- Immediate instructions (R203)
  | addi (g : Guard) (d a : SReg) (imm : BitVec 34)
  | andi (g : Guard) (d a : SReg) (imm : BitVec 34)
  | ori (g : Guard) (d a : SReg) (imm : BitVec 34)
  | xori (g : Guard) (d a : SReg) (imm : BitVec 34)
  | shli (g : Guard) (d a : SReg) (sh : BitVec 6)
  | shri (g : Guard) (d a : SReg) (sh : BitVec 6)
  | srai (g : Guard) (d a : SReg) (sh : BitVec 6)
  | li (g : Guard) (d : SReg) (imm : BitVec 34)
  | lih (g : Guard) (d a : SReg) (imm : BitVec 30)
  | muli (g : Guard) (d a : SReg) (imm : BitVec 34)
  | addpc (g : Guard) (d : SReg) (imm : BitVec 34)
  | cmpi (g : Guard) (d : BitVec 3) (a : SReg) (imm : BitVec 34) (cc : BitVec 3)
  -- Branches, calls and loops (R204, R205)
  | br (g : Guard) (off : BitVec 32)
  | brp (g : Guard) (cond : Guard) (off : BitVec 32)
  | brz (g : Guard) (a : SReg) (off : BitVec 32)
  | brnz (g : Guard) (a : SReg) (off : BitVec 32)
  | brr (g : Guard) (a : SReg) (off : BitVec 32)
  | call (g : Guard) (off : BitVec 32)
  | callr (g : Guard) (a : SReg)
  | ret (g : Guard)
  | loop (g : Guard) (lc : BitVec 2) (a : SReg) (off : BitVec 32)
  | loopi (g : Guard) (lc : BitVec 2) (count : BitVec 18) (off : BitVec 32)
  | lbrk (g : Guard) (lc : BitVec 2) (off : BitVec 32)
  -- Scalar memory (R206): size and space codes of R168
  | ld (g : Guard) (d base : SReg) (size : BitVec 3) (space : BitVec 2) (off : BitVec 32)
  | st (g : Guard) (v base : SReg) (size : BitVec 3) (space : BitVec 2) (off : BitVec 32)
  | ldp (g : Guard) (d base : SReg) (space : BitVec 2) (off : BitVec 32)
  | stp (g : Guard) (v base : SReg) (space : BitVec 2) (off : BitVec 32)
  -- Atomics (R172, R208, R210)
  | amo (g : Guard) (d addr b k : SReg) (op : BitVec 4) (w : BitVec 1)
  | cas (g : Guard) (d addr b c : SReg) (w : BitVec 1)
  | casc (g : Guard) (d addr b c k : SReg) (w : BitVec 1)
  | amoct (g : Guard) (d addr b c k : SReg) (op : BitVec 4) (cc : BitVec 3) (w : BitVec 1)
  | fred (g : Guard) (addr b k : SReg) (op : BitVec 4) (fmt : BitVec 3)
  -- Task and synchronisation instructions (R170)
  | tspawn (g : Guard) (a : SReg)
  | tdec (g : Guard) (a b : SReg)
  | tarm (g : Guard) (a b : SReg)
  | tdone (g : Guard) (a : SReg)
  | freeze (g : Guard) (a : SReg) (planes : BitVec 8)
  | fence (g : Guard)
  | xfence (g : Guard) (before after : BitVec 6) (scope : BitVec 3)
  | gsync (g : Guard)
  | tswap (g : Guard) (n : BitVec 6)
  | publish (g : Guard) (a b : SReg)
  -- System instructions (R171)
  | csrr (g : Guard) (d : SReg) (csr : BitVec 12)
  | csrw (g : Guard) (d a : SReg) (csr : BitVec 12)
  | csrs (g : Guard) (d a : SReg) (csr : BitVec 12)
  | csrc (g : Guard) (d a : SReg) (csr : BitVec 12)
  | trap (g : Guard) (a : SReg) (code : BitVec 28)
  | icinv (g : Guard) (scope : BitVec 2)
  | srfence (g : Guard)
  | eread (g : Guard) (d : SReg) (sel : BitVec 12)
  | tokx (g : Guard) (d a : SReg)
  -- The V issue slot (R173)
  | vix (g : Guard) (index : BitVec 10) (bs : SReg) (fsel : BitVec 2) (foff : BitVec 4) (bi : BitVec 16)
  -- Table operations (R176)
  | vnop (e : Entry)
  | vadd (e : Entry)
  | vsub (e : Entry)
  | vmul (e : Entry)
  | vfma (e : Entry)
  | vfms (e : Entry)
  | vfnma (e : Entry)
  | vmin (e : Entry)
  | vmax (e : Entry)
  | vabs (e : Entry)
  | vneg (e : Entry)
  | vcpys (e : Entry)
  | vrcp (e : Entry)
  | vrsq (e : Entry)
  | vsqrt (e : Entry)
  | vdiv (e : Entry)
  | vexp2 (e : Entry)
  | vlog2 (e : Entry)
  | vtanh (e : Entry)
  | vsigm (e : Entry)
  | vcmpf (e : Entry)
  | vclass (e : Entry)
  | vrndi (e : Entry)
  | vscale (e : Entry)
  | vdot2 (e : Entry)
  | viadd (e : Entry)
  | visub (e : Entry)
  | vimul (e : Entry)
  | vimulh (e : Entry)
  | vimad (e : Entry)
  | vand (e : Entry)
  | vor (e : Entry)
  | vxor (e : Entry)
  | vshl (e : Entry)
  | vshr (e : Entry)
  | vsra (e : Entry)
  | vimin (e : Entry)
  | vimax (e : Entry)
  | vicmp (e : Entry)
  | vsel (e : Entry)
  | vpopc (e : Entry)
  | vclz (e : Entry)
  | vbfx (e : Entry)
  | viabs (e : Entry)
  | vsat (e : Entry)
  | vmov (e : Entry)
  | vlane (e : Entry)
  | vgrp (e : Entry)
  | vqlog (e : Entry)
  | vqcnt (e : Entry)
  | vld (e : Entry)
  | vst (e : Entry)
  | vldx (e : Entry)
  | vstx (e : Entry)
  | vldg (e : Entry)
  | vstg (e : Entry)
  | vamo (e : Entry)
  | vcas (e : Entry)
  | vstt (e : Entry)
  | vnbr (e : Entry)
  | vperm (e : Entry)
  | vbcl (e : Entry)
  | vrsum (e : Entry)
  | vrmax (e : Entry)
  | vrmin (e : Entry)
  | vscan (e : Entry)
  | vgbc (e : Entry)
  | vcvt (e : Entry)
  | vpack (e : Entry)
  | vunpk (e : Entry)
  | vmxq (e : Entry)
  | vmxd (e : Entry)
  | vrimec (e : Entry)
  | vsamp (e : Entry)
  -- Matrix-slot commands (R177, R178)
  | mnop (g : Guard)
  | mlease (g : Guard) (n : BitVec 4)
  | mrels (g : Guard)
  | mclaim (g : Guard) (d : SReg) (n : BitVec 9)
  | mfree (g : Guard)
  | mlds (f : MLdsF)
  | msts (g : Guard) (slot : BitVec 9) (sa sb sc : SReg) (pitch : BitVec 5)
  | mtran (g : Guard) (dst src : BitVec 9)
  | mma (f : MmaF)
  | mmah (f : MmahF)
  | mzero (g : Guard) (plane : BitVec 3)
  | mdrain (f : MDrainF)
  | mdrainh (f : MDrainhF)
  | msamp (f : MSampF)
  | maccld (f : MAccldF)
  -- Copy-slot commands (R179)
  | xnop (g : Guard)
  | xcopy (f : XF)
  | xgath (f : XF)
  | xscat (f : XF)
  | xfill (f : XF)
  | xput (f : XF) (addr : SReg)
  | xtbl (f : XF)
  | xcoll (f : XF) (peer rel : SReg) (op : BitVec 2)
  | xroute (f : XF) (topk : BitVec 3) (mode : BitVec 2)
  | xrsnap (f : XF) (clear : BitVec 1)
  | xexpa (f : XF) (expert : SReg)
  | xexpr (f : XF) (expert : SReg)
  | xfmt (f : XF) (first count : BitVec 4)
  | xrime (f : XF) (mode : BitVec 2)
  -- Events of the core: landings, CSR effects, table banks
  | loadReturn (n : Nat)
  | tableAccessComplete (core : Nat)
  | saveComplete (core : Nat)
  | gateReleaseComplete (core : Nat)
  | switchArrival (n : Nat)
  | swapTick (core : Nat)
  | switchAbort (n : Nat)
  | nancntAccess (op : BitVec 2) (d : SReg) (v : Word)
  | lfsrseedWrite (v : Word)
  | rimeinjWrite (v : Word)
  | swgroupWrite (v : Word)
  | errbaseWrite (ctx : Nat) (v : Word)
  | errsizeWrite (ctx : Nat) (v : Word)
  | errtailWrite (ctx : Nat) (v : Word)
  | errflagsWrite (ctx : Nat) (v : Word)
  | hubCsrAnswer (core : Nat)
  | errorBankWrite (unit : Nat) (v : Word)
  | registerWrite (csr : BitVec 12) (v : Word)
  -- Events of the matrix array and the operand store
  | leaseGrant (cluster : Nat)
  | leaseExpiry (cluster : Nat)
  | mmahFetch (core : Nat)
  | kChunk (core : Nat)
  | slotCommandComplete (core : Nat)
  | planeCommandComplete (core : Nat)
  | mdrainhWritesPerformed (core : Nat)
  | msampWaitExpiry (core : Nat)
  -- Events of the copy engine, the table path and the routing engine
  | xgathRowStep (core n : Nat)
  | xtblHeaderCheck (core n : Nat)
  | fillComplete (core n : Nat)
  | xcollRelease (core n : Nat)
  | routePass (die : Nat)
  | expertSlotLoadDone (die : Nat)
  | xCommandComplete (core n : Nat)
  -- Events of the home slices and of memory
  | applyContinuation (n : Nat)
  | applyCancel (n : Nat)
  | atomicAtHomeSlice (n : Nat)
  | fredApply (n : Nat)
  | lineRepair (key : Nat) (bytes : List Byte)
  | atomwaitExpiry (n : Nat)
  | floorBroadcast
  | lineTimeSweep (owner : Nat)
  | incrementalUpdate (n : Nat)
  -- Events of the task schedulers
  | readyNotice (n : Nat)
  | occupancyBroadcast (die : Nat)
  | dispatch (die : Nat)
  | priorityAgeing (die : Nat)
  | releaseReached (die : Nat)
  | preemptionRequest (die : Nat)
  | forcedYield (core : Nat)
  | hangWatchdog (core : Nat)
  | vacateWaitExpiry (cluster : Nat)
  -- Bring-up, host link, mailbox
  | moduleReset
  | powerGood (cfg : BootConfig)
  | decrementPortWrite (ctx : Nat) (v : Word)
  | winnWrite (n : Nat) (v : Word)
  | bar2Access (off : Nat) (write : Bool) (bytes : List Byte)
  | hostAtomicop (off : Nat) (op : BitVec 2) (bytes : Nat) (a b : Nat)
  | atomicopCompletion (n : Nat) (ok : Bool)
  | hostWriteDropped (n : Nat)
  | pcieLinkDown
  | mbdoor (request : List Byte)
  | mbdoneClear (v : Word)
  | loadmap
  | kill
  | attest
  | debugread
  | setperm
  | coolset
  | settrap
  | tokgive
  | flashImageWrite
  | contextKill (ctx : Nat)
  | clcapWrite (die : Nat) (v : Word)
  -- Fabric and management
  | remoteLoad (f : Flit)
  | remoteStore (f : Flit)
  | put (f : Flit)
  | collectiveStep (f : Flit)
  | response (f : Flit)
  | management (m : Mgmt)
  | heartbeat
  | peerLost (m : Nat)
  | linkDown (port : Nat)
  | laneLoss (port lane : Nat)
  | faultNotice (origin seq : Nat) (lost : Loss)
  | loadCompleteNotice (src : Nat)
  -- Tokens, clocks, energy and coolant
  | tokenGrant (src num tokens : Nat)
  | tokxAckTimeout (peer : Nat)
  | tokenOutcomeQuery (peer : Nat)
  | governorWindow (avg : Nat) (dieUse : List Nat) (clusterUse : List Nat)
  | stepAnnouncement (die step tick : Nat)
  | stepChange (die : Nat)
  | energyCounterUpdate (cores : List CoreEnergy) (dies : List Nat) (hub total : Nat)
  | valveSetting
  | grantCounts (zone : Nat)
  | sensorSample (readings : List ZoneReading)
  | purgeStart (zone : Nat)
  | purgePulse (zone : Nat)
  | purgeGap (zone : Nat)
  deriving DecidableEq, Repr

end Sys2Proof
end

