-- ==== Sys2Proof/Machine/State.lean ====
section
/-! DEFINITION. The state of the Priuth module: plain data, every piece of state that the spec names, and State.reset. The
module is one machine of many agents; State.turn says which of them moves next. -/
namespace Sys2Proof.Machine

/-- A machine stop. No meaning raises one: every fault the spec describes is taken by the machine itself (18 to 23). -/
inductive Fault where
  /-- Never raised; kept so that a stop has a type. Safe: nothing is claimed of it. -/
  | stuck
  deriving DecidableEq, Repr

/-- A refusal. -/
inductive Refusal where
  /-- An instruction without a meaning in this model, by its mnemonic. Raised by exec only. Safe: the machine stops. -/
  | notModelled (mnemonic : String)
  deriving DecidableEq, Repr

/-- Whose operation something is: context, core, task record, bundle, the serial number of the task's dispatch, and the number of the
bundle among those that the core has issued (R149). -/
structure Org where
  ctx : Nat
  core : Option Nat
  task : Option Word
  bundle : Option Word
  serial : Nat
  num : Nat
  deriving DecidableEq, Repr

/-- An error record (R355). -/
structure ErrRec where
  code : Nat
  sev : Nat
  unit : Nat
  die : Nat
  cluster : Nat
  core : Nat
  group : Nat
  tick : Nat
  task : Option Word
  addr : Option Word
  bundle : Option Word
  detail : List Byte
  ctx : Option Nat
  phys : Bool
  bankovf : Bool
  seq : Nat
  rept : Nat
  deriving DecidableEq, Repr

/-- An error bank (R362). -/
structure ErrBank where
  valid : Bool
  ue : Bool
  ovf : Bool
  ueovf : Nat
  cecnt : Nat
  kept : Option ErrRec
  deriving DecidableEq, Repr

/-- The error ring of a context (R358). -/
structure Ring where
  base : Nat
  size : Nat
  head : Nat
  tail : Nat
  lost : Nat
  bad : Bool
  ovf : Bool
  seqctr : Nat
  deriving DecidableEq, Repr

/-- The machine ring and the controller's internal store (R360). -/
structure MRing where
  configured : Bool
  addr : Nat
  size : Nat
  head : Nat
  lost : Nat
  ovf : Bool
  seqctr : Nat
  store : List ErrRec
  deriving DecidableEq, Repr

/-- A translated address: target class, die, target address and region entry (R82). -/
structure Target where
  cls : Nat
  die : Nat
  addr : Nat
  ent : Quad
  deriving DecidableEq, Repr

/-- A store-gate entry: the bytes of one store in one 32-byte sector (R41). One that is joined holds further bytes of the piece
before it, takes no room of its own and is released with it (R145). -/
structure GateEnt where
  va : Word
  tgt : Target
  bytes : List Byte
  joined : Bool
  org : Org
  deriving DecidableEq, Repr

/-- A TDEC, TSPAWN, TARM or PUBLISH held until the phase commits (R153). -/
inductive Send where
  | tdec (w v : Word)
  | tspawn (a : Word)
  | tarm (a c : Word)
  | publish (a v : Word)
  deriving DecidableEq, Repr

/-- Where a value that returns later goes. -/
inductive Dest where
  | none
  | sreg (core : Nat) (d : SReg)
  | lane (core group lane : Nat)
  deriving DecidableEq, Repr

/-- The operation of an atomic request (R208, R210). -/
inductive AOp where
  | amo (op : Nat)
  | cas
  | casc
  | amoct (op cc : Nat)
  | fred (op fmt : Nat)
  deriving DecidableEq, Repr

/-- A request to a home slice (R158). -/
structure Req where
  op : AOp
  va : Word
  tgt : Target
  w : Nat
  b : Nat
  c : Nat
  k : Word
  dest : Dest
  org : Org
  vector : Bool
  deriving DecidableEq, Repr

/-- A request parked in a slice's fault queue, with the tick of its parking and its entry (R387). -/
structure Parked where
  req : Req
  tick : Nat
  entry : Nat
  deriving DecidableEq, Repr

/-- A load of a core, or the oldest of its released stores, that waits in a slice's fault queue behind a parked request: a byte of its line, its
address, opcode byte, entry and tick (R387). -/
structure Waiting where
  core : Nat
  key : Nat
  va : Word
  opcode : Nat
  entry : Nat
  tick : Nat
  store : Bool
  org : Org
  deriving DecidableEq, Repr

/-- A value on its way to scalar registers of a core (R200). -/
structure Ret where
  core : Nat
  writes : List (SReg × Word)
  deriving DecidableEq, Repr

/-- A continuation word, spawn or re-arming on its way to a home slice (R28, R211, R212), the slice whose outbound queue still holds it: that of
the atomic that carried it (R155), and the unit that sends it, with the key of the atomic's line or the port (R356, R390). -/
structure Cont where
  send : Send
  origin : Nat
  org : Org
  slice : Option Nat
  via : Nat × Nat
  deriving DecidableEq, Repr

/-- A ready notice: the record, its context and the die it was sent to; none while every permitted die is full (R36). -/
structure Notice where
  record : Word
  ctx : Nat
  die : Option Nat
  mask : Nat
  deriving DecidableEq, Repr

/-- A partial write of a carried tensor on its way (R127, R128): the address, its translation, the bytes, and the core whose store it is with
the number of its bundle. The entries it changes take their changes when it is performed, with the data. One that is joined is performed with
the one before it (R145). -/
structure Upd where
  va : Word
  tgt : Target
  bytes : List Byte
  ctx : Nat
  core : Option Nat
  num : Nat
  joined : Bool
  deriving DecidableEq, Repr

/-- What waits at the hub for the host: a posted write, a publication with the X and M commands whose writes precede it, or an
AtomicOp (R160, R161). A write and a publication keep the virtual address for their record (R393). -/
inductive HostOp where
  | write (va : Word) (addr : Nat) (bytes : List Byte) (org : Org)
  | publish (va : Word) (addr : Nat) (v : Word) (xs ms : List Nat) (org : Org)
  | atomic (r : Req)
  deriving DecidableEq, Repr

/-- A request sent to another module whose answer is awaited (R334): its SEQ and module, and the scalar registers, or the group and its
bytes by lane × 4 + byte, that the answer goes to, the size code of a scalar load, the byte count, and its KIND: 0 load, 1 store, 2 a put or
collective step, whose size is the name of its command and whose byte count is its number of flits, 3 and 4 a load and a store of an engine's command, whose
size is its name, 5 a load of the host, whose size is the place of its bytes in what the host reads; the CTX of the request; and the bytes
of a load that the core's own gated stores give, by position (R141); of a host AtomicOp the operation with its operands (R160). -/
structure Remote where
  tag : Nat
  module : Nat
  rctx : Nat
  dest : List SReg
  size : Nat
  bytes : Nat
  lane : Option (Nat × List (Nat × Nat))
  kind : Nat
  addr : Word
  org : Org
  own : List (Nat × Byte)
  rmw : Option (AOp × Nat × Nat)
  deriving DecidableEq, Repr

/-- The FP32 shadow of an element: its key and its format (R159). -/
structure Shadow where
  key : Nat
  fmt : Nat
  val : BitVec 32
  deriving DecidableEq, Repr

/-- A bypass latch: empty or landed, with its lanes (R56). -/
structure Latch where
  landed : Bool
  lanes : List Lane
  deriving DecidableEq, Repr

/-- A plane of the accumulator store with its margin store (R131). Missing rows and elements read as zero;
poison holds the numbers of damaged sectors (DEDUCED, log 29). -/
structure Plane where
  rows : List (List Lane)
  mrow : List Lane
  mcol : List Lane
  corner : Lane
  ksteps : Nat
  nocheck : Bool
  unver : Bool
  poison : List Nat
  deriving DecidableEq, Repr

/-- The owner of an operand slot (R254). -/
inductive Owner where
  | free
  | core (c : Nat)
  | gang (serial : Nat)
  deriving DecidableEq, Repr

/-- An operand slot or staging slot (R254). The format is 0 for none; poison as in Plane. -/
structure OSlot where
  data : List (BitVec 16)
  rime : List Lane
  unver : Bool
  scales : List Byte
  fmt : Nat
  krows : Bool
  owner : Owner
  poison : List Nat
  deriving DecidableEq, Repr

/-- The registers that a freeze shadows and a save writes (R42, R45, R62). Vector registers are numbered group × 64 + n,
masks, base registers group × 8 + n, lane generators by group. -/
structure Regs where
  s : Tbl Word
  p : BitVec 8
  lc : Tbl (BitVec 32)
  v : Tbl (List Lane)
  q : Tbl Lane
  b : Tbl Lane
  deriving DecidableEq, Repr

/-- The task-writable control and status registers (R71). -/
structure Csrs where
  ovfptr : Word
  rimectl : Word
  rimetol : Word
  rimeinj : Word
  lfsrseed : Word
  swgroup : Word
  nancnt : Word
  corrcnt : Word
  sampcnt : Word
  deriving DecidableEq, Repr

/-- One bank of the group tables: entries numbered group × 1,024 + index, and the class column (R57). -/
structure Bank where
  entries : Tbl Quad
  cls : Tbl (BitVec 3)
  img : Word
  deriving DecidableEq, Repr

/-- The state of the shadow bank (R69). -/
inductive ShadowSt where
  | unused | filling | complete | failed
  deriving DecidableEq, Repr

/-- An X command in the queue (R268): its captured register values and its progress. Stage 0 waits, 1 has its list or
header, 2 is with the routing engine or the peer, 3 is done. Its place among the core's commands is ord; a copy-out takes its
place when it starts. -/
structure XCmd where
  seq : Nat
  ord : Nat
  instr : Instr
  dr : Word
  dc : Word
  sr : Word
  sc : Word
  k : Word
  e1 : Word
  e2 : Word
  drec : List Byte
  srec : List Byte
  list : List Nat
  cout : Bool
  started : Bool
  stage : Nat
  nocont : Bool
  status : Nat
  valid : Nat
  refetch : Bool
  cur : Bool
  org : Org
  deriving DecidableEq, Repr

/-- An entry of the buffer table (R274). -/
structure BufEnt where
  word : Word
  vals : List Word
  deriving DecidableEq, Repr

/-- A slot or plane command in its queue (R250): captured registers, the format entry read at issue, its progress, whether it
carries the pending injection (R138), and its place among the core's commands. -/
structure MCmd where
  instr : Instr
  vals : List Word
  fmt : Quad
  recs : List (List Byte)
  chunk : Nat
  fetched : Nat
  staged : List (List OSlot)
  waited : Nat
  inj : Bool
  cur : Bool
  seq : Nat
  org : Org
  deriving DecidableEq, Repr

/-- An MDRAINH whose writes are in flight (R265): the converted elements and scales of its region, the UNVER of its rime, and whether what it writes
in other modules has been sent. -/
structure DrainOut where
  cmd : MCmd
  rows : List (List Lane)
  scales : List (List Byte)
  unver : Bool
  sent : Bool
  deriving DecidableEq, Repr

/-- The results of a VLDG, VAMO or VCAS entry on their way (R239): destination fields, lanes enabled and values returned, and the bytes of
lanes that are not yet whole, by lane × 4 + byte (R145). -/
structure VPend where
  group : Nat
  dest : Nat
  latch : Option Nat
  nowb : Bool
  mask : Lane
  vals : Tbl Lane
  part : Tbl Byte
  deriving DecidableEq, Repr

/-- A rime formation buffer (R123): the bank, the entry's C-space offset, the element format, the rows that have arrived, and
the row number and C-space offset of the first row store. -/
structure FormBuf where
  bank : Nat
  entry : Nat
  fmt : Nat
  rows : Tbl (List Nat)
  firstRow : Nat
  firstOff : Nat
  deriving DecidableEq, Repr

/-- The task a core runs (R33). What its retirement needs is what its record held at dispatch: DEADLINE and SUCC0 to SUCC3 (R25). The
value is that of member 0's TDONE where member 0 ended before an earlier yield of the gang (log 39). -/
structure Binding where
  record : Word
  ctx : Nat
  serial : Nat
  member : Nat
  gang : Bool
  prio : Nat
  eprio : Nat
  stage : Nat
  ready : Nat
  saveptr : Word
  spill : Nat
  handler : Bool
  clmask : Nat
  wide : Bool
  coolcls : Nat
  release : Nat
  deadline : Nat
  succs : List Word
  value0 : Option Word
  deriving DecidableEq, Repr

/-- A request to yield: its tick, and the record and context of the task that waits; none where the cluster is vacated (R43, R424). -/
structure YieldReq where
  tick : Nat
  waiter : Option (Word × Nat)
  deriving DecidableEq, Repr

/-- What holds a core between bundles. -/
inductive Hold where
  /-- Nothing. -/
  | none
  /-- In TSWAP with a switch group: the arrival is sent (R61). -/
  | swap (g : Nat)
  /-- In TSWAP, before its arrival: fills before it are under way (R61 step 1). -/
  | filling
  /-- TSWAP is done: the bundle that holds it issues next. -/
  | swapped
  /-- In GSYNC, arrived (R216). -/
  | gsync
  /-- The gang barrier is open: the bundle that holds the GSYNC issues next. -/
  | synced
  /-- FREEZE has issued with its operand and plane mask; results are still landing (R42 step 1). -/
  | freezing (a : Word) (planes : BitVec 8)
  /-- TDONE has issued with its value; results are still landing (R213). -/
  | ending (value : Word)
  /-- TDONE has ended the phase; the retirement waits for the task's writes (R35). -/
  | retiring (value : Word)
  /-- The save of a yield is in progress (R44). -/
  | saving
  deriving DecidableEq, Repr

/-- The shadow of the last freeze (R42, R368, R375), with the number of the first bundle after it. -/
structure FreezeShadow where
  regs : Regs
  csrs : Csrs
  lfsr : Tbl (List Lane)
  pc : Word
  refetch : List (Nat × BufEnt)
  planes : BitVec 8
  num : Nat
  deriving DecidableEq, Repr

/-- What the current phase has done (R369, R370). Granules are numbered by key. -/
structure Phase where
  strikes : Nat
  irrevocable : Bool
  reads : List Nat
  writes : List Nat
  exempt : List (Nat × Nat)
  planesSet : BitVec 8
  injected : Bool
  claimed : Bool
  cycles : Nat
  deriving DecidableEq, Repr

/-- An outstanding fence (R149, R151): the number of its bundle, whether it waits for core-path accesses, the X commands and M commands of
its before-mask that were outstanding, the after-mask that it holds, and whether its scope is system. -/
structure FenceSt where
  num : Nat
  before : Bool
  after : BitVec 6
  system : Bool
  xseqs : List Nat
  mats : List Nat
  deriving DecidableEq, Repr

/-- A core: sequencer, groups, engines and accumulator store (03). It counts the bundles that it has issued; early is the MMAH of a bundle that
is held for the lease, for which the fetcher works already (R262). -/
structure Core where
  pc : Word
  issued : Nat
  regs : Regs
  csrs : Csrs
  latches : Tbl Latch
  lfsr : Tbl (List Lane)
  banks : List Bank
  active : Nat
  shadowSt : ShadowSt
  waitpeer : Nat
  swaps : Nat
  reject : Nat
  taskrec : Word
  ctxid : Nat
  tilec : Word
  stage : Nat
  eacct : Nat
  coolcls : Nat
  spillbase : Nat
  spillsize : Nat
  claim : Option (Nat × Nat)
  grants : Nat
  leaseReq : Nat
  suspended : Bool
  relsPend : Bool
  fmts : Tbl Quad
  planes : Tbl Plane
  gate : List GateEnt
  releasing : List GateEnt
  held : List Send
  sending : List Send
  xq : List XCmd
  xseq : Nat
  mseq : Nat
  bufs : Tbl BufEnt
  slotq : List MCmd
  arrayq : List MCmd
  early : Option MCmd
  drains : List DrainOut
  vpend : List VPend
  srcache : List (Word × List Byte)
  icache : List (Word × List Byte)
  forming : List FormBuf
  task : Option Binding
  lastCtx : Option Nat
  hold : Hold
  swapTick : Option Nat
  yieldReq : Option YieldReq
  shadow : FreezeShadow
  phase : Phase
  ltime : Nat
  fences : List FenceSt
  withheld : Bool
  committing : Bool
  deriving DecidableEq, Repr

/-- The array arbiter of a cluster (R251, R252). -/
structure Lease where
  holder : Option Nat
  count : Nat
  cycles : Nat
  last : Nat
  deriving DecidableEq, Repr

/-- A cluster: operand store, arbiter, and its vacating: the tick at which it began and its cause (R424). -/
structure Cluster where
  slots : Tbl OSlot
  lease : Lease
  vacate : Option (Nat × Nat)
  deriving DecidableEq, Repr

/-- A task in a die's ready queues (R36). A gang that yielded keeps which members have ended, as a bit mask, and the value of member 0's
TDONE. -/
structure QEnt where
  record : Word
  ctx : Nat
  ready : Nat
  prio : Nat
  kept : Nat
  stage : Nat
  gang : Bool
  clmask : Nat
  wide : Bool
  coolcls : Nat
  release : Nat
  since : Option Nat
  asked : Bool
  resume : Bool
  ended : Nat
  value0 : Option Word
  deriving DecidableEq, Repr

/-- A gang whose yield is under way: its serial number, the members saved as a bit mask, and the value of member 0's TDONE where that
has ended (R44; log 39). -/
structure SaveSt where
  serial : Nat
  mask : Nat
  value0 : Option Word
  deriving DecidableEq, Repr

/-- A reservation (R40): a cluster for a gang, or a core for a single task that asked for a yield. -/
structure Resv where
  cluster : Nat
  core : Option Nat
  record : Word
  ctx : Nat
  deriving DecidableEq, Repr

/-- The state of an expert slot (R302). -/
inductive ExpSt where
  | empty | loading | resident
  deriving DecidableEq, Repr

/-- An expert slot (R302). -/
structure Expert where
  ctx : Nat
  expert : Nat
  refs : Nat
  use : Bool
  st : ExpSt
  deriving DecidableEq, Repr

/-- A compute die. Its L2 holds copies of lines, each with the time to which its lease runs (R16, R143). -/
structure Die where
  queue : List QEnt
  qovf : Nat
  occ : Nat
  resv : List Resv
  saves : List SaveSt
  prewait : Nat
  phasemax : Nat
  forcewait : Nat
  atomwait : Nat
  cgroup : Nat
  thr : BitVec 16
  off : BitVec 16
  wide : BitVec 16
  step : Nat
  pending : List (Nat × Nat)
  cycle : Nat
  counters : Tbl Nat
  sticky : List Nat
  passes : Nat
  rq : List (Nat × Nat)
  experts : Tbl Expert
  hand : Nat
  l2 : Tbl Nat
  deriving DecidableEq, Repr

/-- A rime descriptor (R84). -/
structure RDesc where
  dbase : Nat
  rbase : Nat
  pitch : Nat
  cols : Nat
  rows : Nat
  fmt : Nat
  deriving DecidableEq, Repr

/-- The map of a context (R80, R81). -/
structure CtxMap where
  dwbase : Nat
  dwsize : Nat
  regions : Tbl Quad
  pages : Tbl Word
  rdescs : Tbl RDesc
  deriving DecidableEq, Repr

/-- The round of a switch group at the hub: its arrivals and aborts, its SIZE, whether it stands aborted, and the members that wait in it
(R61, R376, R414). -/
structure SwRound where
  count : Nat
  size : Nat
  aborted : Bool
  members : List Nat
  deriving DecidableEq, Repr

/-- An arrival or an abort on its way to the hub, and whether the abort is of an arrival that the round has counted (R61, R376). -/
structure SwMsg where
  core : Nat
  ctx : Nat
  g : Nat
  size : Nat
  abort : Bool
  counted : Bool
  deriving DecidableEq, Repr

/-- A CSR access on its way to a register held at the hub (R358, R418). -/
structure HubAccess where
  core : Nat
  csr : Nat
  op : Nat
  v : Word
  d : SReg
  ctx : Nat
  deriving DecidableEq, Repr

/-- The kill of a context (R377). -/
inductive KillSt where
  | none | running (step : Nat) | complete
  deriving DecidableEq, Repr

/-- What the hub holds for one context. -/
structure Ctx where
  resident : Bool
  frozen : Bool
  kill : KillSt
  test : Bool
  map : CtxMap
  ring : Ring
  traprec : Word
  deriving DecidableEq, Repr

/-- A window of BAR 2 (R328). -/
structure Win where
  en : Bool
  vreg : Nat
  ctx : Nat
  deriving DecidableEq, Repr

/-- A token transfer that is not settled (R310, R428): peer, number, tokens, the tick of the grant or of the last query, and where the
result of its TOKX goes; none once TOKX has returned 3. -/
structure Transfer where
  peer : Nat
  num : Nat
  tokens : Nat
  tick : Nat
  dest : Option (Nat × SReg)
  deriving DecidableEq, Repr

/-- Where a purge of a zone stands (R425): none, a pulse or a gap until a tick. -/
inductive PurgeSt where
  | idle
  | pulse (stop : Nat)
  | gap (stop : Nat)
  deriving DecidableEq, Repr

/-- A coolant zone (R317, R319, R322, R422 to R426): the allocation entry and VALVE; the grant that counts for placement, the tick from
which a raised one is held by the valve, the tick of the valve's last move; the sensors; by number, for how many samples a condition has
held (0 hot, 1 not hot, 2 low flow, 5 void, 6 no void) and for how many a reason has been clear; whether the controller throttles the
cluster for heat or for low flow, and whether the zone has tripped; the tick of its void trap, its purge and its pulses. -/
structure Zone where
  shared : Bool
  fenced : Bool
  owner : Nat
  max : Nat
  min : Nat
  grant : Nat
  valve : Nat
  counts : Nat
  raised : Option Nat
  moved : Nat
  zsens0 : Word
  zsens1 : Word
  runs : Tbl Nat
  clear : Tbl Nat
  hot : Bool
  low : Bool
  tripped : Bool
  evac : Option Nat
  purge : PurgeSt
  pulses : Nat
  deriving DecidableEq, Repr

/-- The trap thresholds of the coolant controller (R421). -/
structure CoolThr where
  pmax : Nat
  pmin : Nat
  flowlow : Nat
  ttrip : Nat
  thot : Nat
  voidn : Nat
  deriving DecidableEq, Repr

/-- A collective group's state at the governor (R313, R429): the pair announced and the pair in force. -/
structure CollSt where
  group : Nat
  step : Nat
  tick : Nat
  deriving DecidableEq, Repr

/-- Energy counters in microjoules (R305). -/
structure Energy where
  accounts : Tbl Nat
  dies : Tbl Nat
  hub : Nat
  total : Nat
  deriving DecidableEq, Repr

/-- The hub die. What runs at intervals keeps the number of the interval it ran in last (valveN, sampleN, windowN, energyN, beatN).
swept is the floor at the last sweep of the line times (R143); links are the channels of the system, routes the routing tables: by source die and
destination, the port numbers of a route (R431); bars are the base addresses of BAR 0 and BAR 2 (R325), govern the token balance that governs the present power window, tokq the cores whose TOKX waits for
the governor, in their order of arrival, the mailbox as core 512 (R310). -/
structure Hub where
  ctxs : Tbl Ctx
  mring : MRing
  banks : Tbl ErrBank
  marks : Tbl (Nat × Nat)
  switch : Tbl SwRound
  swmsgs : List SwMsg
  hubcsr : List HubAccess
  slips : Tbl Nat
  energy : Energy
  balance : Nat
  floor : Nat
  transfers : List Transfer
  grantlog : List (Nat × Nat × Bool)
  xfernum : Nat
  power : Nat
  lowwin : Nat
  overwin : Nat
  throttled : List Nat
  colls : List CollSt
  zones : Tbl Zone
  valveN : Nat
  sampleN : Nat
  windowN : Nat
  energyN : Nat
  beatN : Nat
  heard : Tbl Nat
  members : List (Nat × Nat)
  noticeN : Nat
  flowcap : Nat
  ttarget : Int
  coolthr : CoolThr
  booterr : Nat
  mbbusy : Bool
  mbdone : Bool
  ready : Bool
  recovery : Bool
  wins : Tbl Win
  mbreq : List Byte
  mbresp : List Byte
  partialMap : Option (Nat × List Byte)
  killWanted : Option Nat
  msix : BitVec 18
  msixTable : Tbl Word
  msixSent : Tbl Nat
  module : Nat
  slotsz : Nat
  fenced : Bool
  pcieUp : Bool
  lostMods : List Nat
  downPorts : List Nat
  lostLanes : List (Nat × Nat)
  recStep : Nat
  notices : List (Nat × Nat)
  loads : List Nat
  pcieRead : List Byte
  flash : Tbl (List Byte)
  flitseq : Tbl (Nat × Nat)
  swept : Nat
  links : List Link
  routes : Tbl (List Nat)
  bars : List Word
  govern : Nat
  tokq : List Nat
  deriving DecidableEq, Repr

/-- How far the bundle in issue has come. -/
inductive IssSt where
  | idle | ok | held | faulted
  deriving DecidableEq, Repr

/-- The issue context: the core whose bundle issues, the bundle's address, the core as it stood at issue (every issue slot
reads its sources from it, R49), the address of the next bundle, and the V issue slot's group, broadcast scalar,
broadcast immediate and format index (R53), the groups and lanes that a VSAMP found to mismatch (R248), and whether the bundle has seeded
the generators (R108). -/
structure Issue where
  core : Nat
  a : Word
  src : Core
  st : IssSt
  npc : Word
  group : Nat
  index : Nat
  bs : Word
  bi : BitVec 16
  fidx : Nat
  samp : List (Nat × Lane)
  seeded : Bool
  deriving DecidableEq, Repr

/-- What a bundle has still to do on the core path (R140, R144): the table operation of a group, or the second half of an access that crosses
a sector boundary: of a load, the code of its space, its address, its keys, the bytes that the first half returned, the destination registers and the size code;
of a store, the code of its space, its keys and bytes. -/
inductive LateAct where
  | entry (g : Nat) (i : Instr)
  | load (space : Nat) (addr : Word) (keys : List Nat) (got : List Byte) (dest : List SReg) (size : Nat)
  | store (space : Nat) (keys : List Nat) (bytes : List Byte)
  deriving DecidableEq, Repr

/-- What a bundle has still to do, in order, with the issue context that it does it in. -/
structure Late where
  iss : Issue
  todo : List LateAct
  deriving DecidableEq, Repr

/-- Who moves next. -/
inductive Turn where
  /-- Only time passes. -/
  | wait
  /-- A core issues its bundle, or goes on with what holds it. -/
  | issue (core : Nat)
  /-- A core's store gate releases its oldest released store (R42). -/
  | drain (core : Nat)
  /-- The outbound queue of a slice, by stack × 12 + slice, sends its oldest continuation (R155). -/
  | outbound (slice : Nat)
  /-- The n-th posted write reaches the host (R161). -/
  | post (n : Nat)
  /-- The host writes its own memory. -/
  | host (addr : Nat) (bytes : List Byte)
  /-- A port sends the oldest management message, or the oldest flit (R334). -/
  | port
  /-- A granule is found uncorrectable (R383). -/
  | damage (granule : Nat)
  /-- A read of a granule is corrected (R382). -/
  | corrected (key : Nat)
  /-- A core's sequencer, or one of its groups, reads an uncorrectable register, latch, table or format entry (R384). -/
  | upset (core : Nat) (group : Nat)
  /-- State that a context owns and no task holds is found uncorrectable (R365). -/
  | lostState (ctx : Nat)
  /-- A map store, firmware state, the hub or a compute die is lost (R365). -/
  | lostModule
  /-- The host accesses BAR 0 (R326): offset, whether it writes, its bytes or as many as it reads. -/
  | bar0 (off : Nat) (write : Bool) (bytes : List Byte)
  /-- The host accesses the function's configuration space (R325): offset, whether it writes, its bytes or as many as it reads. -/
  | config (off : Nat) (write : Bool) (bytes : List Byte)
  /-- The message of an interrupt vector is sent (R331). -/
  | message (v : Nat)
  /-- Firmware applies a decrement in context 0 through the hub's internal port (R330). -/
  | firmDec (v : Word)
  /-- Firmware writes context 0's memory (R330). -/
  | firmStore (va : Word) (bytes : List Byte)
  /-- Firmware writes COOLTHR (R421). -/
  | firmThr (v : Word)
  /-- Firmware sets TTARGET (R318). -/
  | firmTarget (t : Int)
  /-- Firmware writes an entry of the coolant allocation table (R317). -/
  | firmZone (z e : Nat)
  /-- An event of the opcode table. -/
  | event (i : Instr)
  deriving DecidableEq, Repr

/-- The module. landing holds the flits of messages whose last flit has not come (R334); far the bytes of other modules that an engine's command has
read, by command (R82). -/
structure State where
  mem : List Host.Cell
  poison : List Nat
  rflags : Tbl Nat
  tags : Tbl Nat
  shadows : List Shadow
  lineTimes : Tbl (Nat × Nat)
  reqs : List Req
  parked : List Parked
  behind : List Waiting
  rets : List Ret
  conts : List Cont
  cancels : List Cont
  notices : List Notice
  upds : List Upd
  flitsOut : List Flit
  landing : List Flit
  far : Tbl (List Nat)
  mgmtOut : List (Nat × Mgmt)
  remotes : List Remote
  hostOut : List HostOp
  grade : Word
  frame : Nat
  lfloor : Nat
  steps : Nat
  serials : Nat
  turn : Turn
  iss : Issue
  lates : List Late
  cores : Tbl Core
  clusters : Tbl Cluster
  dies : Tbl Die
  hub : Hub
  deriving DecidableEq, Repr

/-! The values after reset. -/

/-- Registers at zero, p0 and q0 apart, which the accessors read as constants (R62). -/
def Regs.zero : Regs := ⟨[], 0, [], [], [], []⟩

/-- The task-writable registers at zero (R71). -/
def Csrs.zero : Csrs := ⟨0, 0, 0, 0, 0, 0, 0, 0, 0⟩

/-- A cleared bank (R57). -/
def Bank.clear : Bank := ⟨[], [], 0⟩

/-- An empty error bank (R362). -/
def ErrBank.empty : ErrBank := ⟨false, false, false, 0, 0, none⟩

/-- A cleared plane (R263). -/
def Plane.zero : Plane := ⟨[], [], [], 0, 0, false, false, []⟩

/-- A cleared operand slot (R254). -/
def OSlot.clear : OSlot := ⟨[], [], false, [], 0, false, .free, []⟩

/-- The shadow before any freeze. -/
def FreezeShadow.zero : FreezeShadow := ⟨Regs.zero, Csrs.zero, [], 0, [], 0, 0⟩

/-- A phase that has done nothing. -/
def Phase.fresh : Phase := ⟨0, false, [], [], [], 0, false, false, 0⟩

/-- A core after reset (R57, R62; DESIGN CHOICE, log 5). -/
def Core.reset : Core where
  pc := 0
  issued := 0
  regs := Regs.zero
  csrs := Csrs.zero
  latches := []
  lfsr := []
  banks := [Bank.clear, Bank.clear]
  active := 0
  shadowSt := .complete
  waitpeer := 0
  swaps := 0
  reject := 0
  taskrec := 0
  ctxid := 0
  tilec := 0
  stage := 0
  eacct := 0
  coolcls := 0
  spillbase := 0
  spillsize := 0
  claim := none
  grants := 0
  leaseReq := 0
  suspended := false
  relsPend := false
  fmts := []
  planes := []
  gate := []
  releasing := []
  held := []
  sending := []
  xq := []
  xseq := 0
  mseq := 0
  bufs := []
  slotq := []
  arrayq := []
  early := none
  drains := []
  vpend := []
  srcache := []
  icache := []
  forming := []
  task := none
  lastCtx := none
  hold := .none
  swapTick := none
  yieldReq := none
  shadow := FreezeShadow.zero
  phase := Phase.fresh
  ltime := 0
  fences := []
  withheld := false
  committing := false

/-- A cluster after reset: the last holder of the array is core 3, so that core 0 is first (DESIGN CHOICE, log 5). -/
def Cluster.reset : Cluster := ⟨[], ⟨none, 0, 0, 3⟩, none⟩

/-- An empty expert slot (R302). -/
def Expert.empty : Expert := ⟨0, 0xFFFF, 0, false, .empty⟩

/-- A die after reset (R43, R313, R314, R323, R374, R375, R388). -/
def Die.reset : Die where
  queue := []
  qovf := 65536
  occ := 0
  resv := []
  saves := []
  prewait := 1000
  phasemax := 0x01000000
  forcewait := 1000
  atomwait := 100000
  cgroup := 0
  thr := 0
  off := 0
  wide := 0xFFFF
  step := 0
  pending := []
  cycle := 0
  counters := []
  sticky := []
  passes := 0
  rq := []
  experts := []
  hand := 0
  l2 := []

/-- An empty ring (R358). -/
def Ring.zero : Ring := ⟨0, 0, 0, 0, 0, false, false, 0⟩

/-- A context that firmware has not loaded (R85; DESIGN CHOICE, log 5). -/
def Ctx.reset : Ctx := ⟨false, false, .none, false, ⟨0, 0, [], [], []⟩, Ring.zero, 0⟩

/-- A coolant zone after reset (R317, R322). -/
def Zone.reset : Zone := ⟨true, false, 0, 15, 15, 15, 15, 15, none, 0, 0, 0, [], [], false, false, false, none, .idle, 0⟩

/-- The hub after reset (R308, R317, R327, R358, R360, R421; DESIGN CHOICE, log 5). -/
def Hub.reset : Hub where
  ctxs := []
  mring := ⟨false, 0, 0, 0, 0, false, 0, []⟩
  banks := []
  marks := []
  switch := []
  swmsgs := []
  hubcsr := []
  slips := []
  energy := ⟨[], [], 0, 0⟩
  balance := 5600
  floor := 0
  transfers := []
  grantlog := []
  xfernum := 0
  power := 0
  lowwin := 0
  overwin := 0
  throttled := []
  colls := []
  zones := []
  valveN := 0
  sampleN := 0
  windowN := 0
  energyN := 0
  beatN := 0
  heard := []
  members := []
  noticeN := 0
  flowcap := 3900
  ttarget := 60
  coolthr := ⟨175, 50, 50, 95, 85, 3⟩
  booterr := 0
  mbbusy := false
  mbdone := false
  ready := false
  recovery := false
  wins := []
  mbreq := []
  mbresp := []
  partialMap := none
  killWanted := none
  msix := 0
  msixTable := []
  msixSent := []
  module := 0
  slotsz := 65536
  fenced := false
  pcieUp := true
  lostMods := []
  downPorts := []
  lostLanes := []
  recStep := 0
  notices := []
  loads := []
  pcieRead := []
  flash := []
  flitseq := []
  swept := 0
  links := []
  routes := []
  bars := [0, 0]
  govern := 5600
  tokq := []

/-- No bundle in issue. -/
def Issue.idle : Issue := ⟨0, 0, Core.reset, .idle, 0, 0, 0, 0, 0, 0, [], false⟩

/-- The module right after reset. -/
def State.reset : State where
  mem := []
  poison := []
  rflags := []
  tags := []
  shadows := []
  lineTimes := []
  reqs := []
  parked := []
  behind := []
  rets := []
  conts := []
  cancels := []
  notices := []
  upds := []
  flitsOut := []
  landing := []
  far := []
  mgmtOut := []
  remotes := []
  hostOut := []
  grade := 0
  frame := 0
  lfloor := 0
  steps := 0
  serials := 0
  turn := .wait
  iss := Issue.idle
  lates := []
  cores := []
  clusters := []
  dies := []
  hub := Hub.reset

end Sys2Proof.Machine
end

