-- ==== Sys2Proof/Machine/Memory.lean ====
section
/-! DEFINITION. Memory: one list of addressed bytes in canonical form, and the keys that physical addresses have in it. Keys
hold a space number above bit 80: HBM stacks 0, deep memory 1, host memory 2, core scratchpads 3, cluster-shared spaces 4,
die scratchpads 5, lane-private memories 6 (01, R15 to R17; 04, R72 to R79). -/
namespace Sys2Proof.Machine

/-- The memory of the module: addressed bytes. -/
abbrev Memory := List Host.Cell

/-- What a byte that is not listed reads as (DESIGN CHOICE, log 4). -/
def Memory.unlisted : Byte := 0

/-- The canonical form: addresses strictly rising, no byte listed that reads as an unlisted one. -/
abbrev Memory.wf (m : Memory) : Prop := m.Pairwise (fun x y => x.1 < y.1) ∧ ∀ x ∈ m, x.2 ≠ Memory.unlisted

/-- The byte at an address. -/
def Memory.read (m : Memory) (a : Nat) : Byte :=
  match m with
  | [] => Memory.unlisted
  | (k, v) :: m => if k = a then v else Memory.read m a

/-- Memory without an address. -/
def Memory.erase (m : Memory) (a : Nat) : Memory := m.filter fun x => x.1 != a

/-- Memory with a byte listed before the first higher address. -/
def Memory.insert (m : Memory) (a : Nat) (b : Byte) : Memory :=
  match m with
  | [] => [(a, b)]
  | (k, v) :: m => if a < k then (a, b) :: (k, v) :: m else (k, v) :: Memory.insert m a b

/-- Memory with a byte at an address, in canonical form. -/
def Memory.write (m : Memory) (a : Nat) (b : Byte) : Memory :=
  if b = Memory.unlisted then m.erase a else (m.erase a).insert a b

/-- The bytes at n addresses from one on. -/
def Memory.readN (m : Memory) (a n : Nat) : List Byte :=
  match n with
  | 0 => []
  | n + 1 => m.read a :: m.readN (a + 1) n

/-- Memory with bytes from an address on. -/
def Memory.writeL (m : Memory) (a : Nat) (bs : List Byte) : Memory :=
  match bs with
  | [] => m
  | b :: bs => Memory.writeL (m.write a b) (a + 1) bs

/-- The key of an offset in a numbered space. -/
def spaceKey (space off : Nat) : Nat := space * 2 ^ 80 + off

/-- The key of a stack-local HBM address (R79). -/
def hbmKey (stack loc : Nat) : Nat := spaceKey 0 (stack * 2 ^ 40 + loc)

/-- The key of an offset of a core's C space. -/
def cKey (core off : Nat) : Nat := spaceKey 3 (core * 2 ^ 22 + off)

/-- The key of an offset of a cluster's K space. -/
def kKey (cluster off : Nat) : Nat := spaceKey 4 (cluster * 2 ^ 22 + off)

/-- The key of an offset of a die's scratchpad. -/
def dKey (die off : Nat) : Nat := spaceKey 5 (die * 2 ^ 26 + off)

/-- The key of a byte of a group's lane-private memory. -/
def pKey (core group off : Nat) : Nat := spaceKey 6 ((core * 16 + group) * 4096 + off)

/-- The key of a host bus address. -/
def hostKey (addr : Nat) : Nat := spaceKey 2 addr

/-- The key of a translated address (R79). Class 4, another module's memory, has a space of its own by module, context and
virtual address (DESIGN CHOICE, log 18). -/
def Target.key (t : Target) : Nat :=
  match t.cls with
  | 0 => hbmKey (t.addr / 4096 % 24) (t.addr / 98304 * 4096 + t.addr % 4096)
  | 1 => hbmKey (3 * t.die + t.addr / 4096 % 3) (t.addr / 12288 * 4096 + t.addr % 4096)
  | 2 => spaceKey 1 t.addr
  | 3 => hostKey t.addr
  | _ => spaceKey 8 ((t.ent.toNat / 2 ^ 113 % 2 ^ 15) * 2 ^ 44 + t.addr % 2 ^ 44)

/-- The space number of a key. -/
def keySpace (key : Nat) : Nat := key / 2 ^ 80

/-- The stack of an HBM key. -/
def keyStack (key : Nat) : Nat := key % 2 ^ 80 / 2 ^ 40

/-- The home slice of an HBM key, 0 to 11 (R79). -/
def keySlice (key : Nat) : Nat := key % 2 ^ 40 / 128 % 12

/-- The pseudo-channel of an HBM key, 0 to 15 (R79). -/
def keyChannel (key : Nat) : Nat := key % 2 ^ 40 / 128 / 12 % 16

/-- The die of an HBM or die-scratchpad key; of a deep-memory key its channel group (R79). -/
def keyDie (key : Nat) : Nat :=
  match keySpace key with
  | 0 => keyStack key / 3
  | 1 => key % 2 ^ 80 / 4096 % 8
  | 3 => key % 2 ^ 80 / 2 ^ 22 / 64
  | 4 => key % 2 ^ 80 / 2 ^ 22 / 16
  | 5 => key % 2 ^ 80 / 2 ^ 26
  | _ => 8

/-- The 32-byte granule of a key (R382). -/
def granule (key : Nat) : Nat := key / 32

/-- The 128-byte line of a key (R17). -/
def lineOf (key : Nat) : Nat := key / 128

end Sys2Proof.Machine
end

