-- ==== Sys2Proof/Machine/Access.lean ====
section
/-! DEFINITION. Reading and writing the parts of the state: the one home of each register, and what is hard-wired (03, R62). -/
namespace Sys2Proof.Machine

/-! Registers. -/

/-- A scalar register; s0 reads zero (R62). -/
def Regs.getS (r : Regs) (n : Nat) : Word := if n = 0 then 0 else r.s.get n 0

/-- Registers with a scalar register written; a write to s0 is discarded (R62, R199). -/
def Regs.setS (r : Regs) (n : Nat) (v : Word) : Regs := if n = 0 then r else { r with s := r.s.set n v }

/-- A predicate; p0 reads true (R62). -/
def Regs.getP (r : Regs) (n : Nat) : Bool := n == 0 || r.p.getLsbD n

/-- Registers with a predicate written; a write to p0 is discarded (R62). -/
def Regs.setP (r : Regs) (n : Nat) (v : Bool) : Regs :=
  if n = 0 then r else { r with p := if v then r.p ||| (1#8 <<< n) else r.p &&& ~~~(1#8 <<< n) }

/-- A loop counter (R62). -/
def Regs.getLc (r : Regs) (n : Nat) : BitVec 32 := r.lc.get n 0

/-- Registers with a loop counter written. -/
def Regs.setLc (r : Regs) (n : Nat) (v : BitVec 32) : Regs := { r with lc := r.lc.set n v }

/-- The 32 lanes of a vector register of a group; lanes that are not held read zero. -/
def Regs.getV (r : Regs) (g n : Nat) : List Lane := r.v.get (g * 64 + n) []

/-- Registers with a vector register of a group written. -/
def Regs.setV (r : Regs) (g n : Nat) (l : List Lane) : Regs := { r with v := r.v.set (g * 64 + n) l }

/-- A mask register of a group; q0 reads all ones (R62). -/
def Regs.getQ (r : Regs) (g n : Nat) : Lane := if n = 0 then 0xFFFFFFFF else r.q.get (g * 8 + n) 0

/-- Registers with a mask written; a write to q0 is discarded (R62). -/
def Regs.setQ (r : Regs) (g n : Nat) (v : Lane) : Regs := if n = 0 then r else { r with q := r.q.set (g * 8 + n) v }

/-- A base register of a group (R62). -/
def Regs.getB (r : Regs) (g n : Nat) : Lane := r.b.get (g * 8 + n) 0

/-- A lane of a list of lanes; missing lanes read zero. -/
def laneOf (l : List Lane) (i : Nat) : Lane := l.getD i 0

/-- The 32 lanes given by a function. -/
def lanes (f : Nat → Lane) : List Lane := (List.range 32).map f

/-! Parts of the state. -/

/-- A core by its module core number (R13). -/
def State.core (s : State) (c : Nat) : Core := s.cores.get c Core.reset

/-- The state with a core changed. -/
def State.modCore (s : State) (c : Nat) (f : Core → Core) : State := { s with cores := s.cores.set c (f (s.core c)) }

/-- A cluster by die × 16 + cluster. -/
def State.cluster (s : State) (k : Nat) : Cluster := s.clusters.get k Cluster.reset

/-- The state with a cluster changed. -/
def State.modCluster (s : State) (k : Nat) (f : Cluster → Cluster) : State :=
  { s with clusters := s.clusters.set k (f (s.cluster k)) }

/-- A compute die. -/
def State.die (s : State) (d : Nat) : Die := s.dies.get d Die.reset

/-- The state with a die changed. -/
def State.modDie (s : State) (d : Nat) (f : Die → Die) : State := { s with dies := s.dies.set d (f (s.die d)) }

/-- The state with the hub changed. -/
def State.modHub (s : State) (f : Hub → Hub) : State := { s with hub := f s.hub }

/-- What the hub holds for a context. -/
def State.ctx (s : State) (c : Nat) : Ctx := s.hub.ctxs.get c Ctx.reset

/-- The state with a context's hub state changed. -/
def State.modCtx (s : State) (c : Nat) (f : Ctx → Ctx) : State :=
  s.modHub fun h => { h with ctxs := h.ctxs.set c (f (s.ctx c)) }

/-- The die, the cluster of the module and the core within the cluster of a module core number (R13). -/
def dieOf (c : Nat) : Nat := c / 64
/-- See `dieOf`. -/
def clusterOf (c : Nat) : Nat := c / 4
/-- See `dieOf`. -/
def memberOf (c : Nat) : Nat := c % 4

/-- The cores of the module. -/
def allCores : List Nat := List.range 512

/-- The cores that run a task with a serial number. -/
def State.coresOf (s : State) (serial : Nat) : List Nat :=
  (s.cores.filter fun p => match p.2.task with | some b => b.serial == serial | none => false).map (·.1)

/-- The disabled cluster of a die, by GRADE (R68). -/
def disabledCluster (grade : Word) (die : Nat) : Option Nat :=
  let f := grade.toNat / 2 ^ (8 + 5 * die) % 32
  if f ≥ 16 then some (f % 16) else none

/-- A cluster of a die is enabled (R13). -/
def State.enabled (s : State) (die cl : Nat) : Bool := disabledCluster s.grade die != some cl

/-! Issue: what the issue slots of a bundle see and write. -/

/-- A scalar source, read at issue (R49). -/
def State.rd (s : State) (r : SReg) : Word := s.iss.src.regs.getS r.toNat

/-- A predicate, read at issue. -/
def State.rdP (s : State) (n : BitVec 3) : Bool := s.iss.src.regs.getP n.toNat

/-- A guard's condition: bits 2:0 name a predicate, bit 3 inverts it (R165). -/
def State.guard (s : State) (g : Guard) : Bool := s.iss.src.regs.getP (g.toNat % 8) != g.getLsbD 3

/-- A scalar result written by the issuing core. -/
def State.wr (s : State) (d : SReg) (v : Word) : State :=
  s.modCore s.iss.core fun k => { k with regs := k.regs.setS d.toNat v }

/-- A predicate result written by the issuing core. -/
def State.wrP (s : State) (d : BitVec 3) (v : Bool) : State :=
  s.modCore s.iss.core fun k => { k with regs := k.regs.setP d.toNat v }

/-- The address of the next bundle chosen. -/
def State.jump (s : State) (a : Word) : State := { s with iss := { s.iss with npc := a } }

/-- The bundle in issue is held (R50). -/
def State.hold (s : State) : State := { s with iss := { s.iss with st := .held } }

/-- The bundle in issue has faulted (R405). -/
def State.faulted (s : State) : State := { s with iss := { s.iss with st := .faulted } }

/-! Memory with its poison and its shadows. -/

/-- The bytes at a key. -/
def State.get (s : State) (key n : Nat) : List Byte := Memory.readN s.mem key n

/-- The bytes of a FRED element by format code: f32, f16, bf16, e4m3, e5m2 (R168, R210). -/
def fredBytes (fmt : Nat) : Nat := if fmt = 0 then 4 else if fmt ≤ 2 then 2 else 1

/-- The shadows that stay when bytes are written: a store or an atomic to an element replaces its shadow by the stored
value, which the next FRED widens again (R159; DEDUCED, log 8). -/
def keepShadows (l : List Shadow) (key n : Nat) : List Shadow :=
  l.filter fun x => decide (x.key + fredBytes x.fmt ≤ key ∨ key + n ≤ x.key)

/-- A core-path write: poison stays (R385). -/
def State.put (s : State) (key : Nat) (bs : List Byte) : State :=
  { s with mem := Memory.writeL s.mem key bs, shadows := keepShadows s.shadows key bs.length }

/-- An engine write: whole granules written with good data lose their poison (R385). -/
def State.putE (s : State) (key : Nat) (bs : List Byte) : State :=
  { s.put key bs with
    poison := s.poison.filter fun g => !(decide (key ≤ g * 32) && decide (g * 32 + 32 ≤ key + bs.length)) }

/-- Granules of which an engine has written every byte with good data lose their poison (R385). -/
def State.heal (s : State) (keys : List Nat) : State :=
  { s with poison := s.poison.filter fun g => !((List.range 32).all fun n => keys.contains (g * 32 + n)) }

/-- Some byte of a range lies in a poisoned granule (R383). -/
def State.damaged (s : State) (key n : Nat) : Bool :=
  s.poison.any fun g => decide (g * 32 < key + n) && decide (key < g * 32 + 32)

/-- A little-endian number of n bytes at a key. -/
def State.num (s : State) (key n : Nat) : Nat := leNat (s.get key n)

/-- The granules of a range become poisoned. -/
def State.poisonRange (s : State) (key n : Nat) : State :=
  if n = 0 then s
  else
    let gs := (List.range (granule (key + n - 1) - granule key + 1)).map (granule key + ·)
    { s with poison := gs.foldl (fun l g => if l.contains g then l else g :: l) s.poison }

/-- Some byte of a list lies in a poisoned granule: the first (R384). -/
def State.hurtKey (s : State) (keys : List Nat) : Option Nat := keys.find? fun k => s.poison.contains (granule k)

end Sys2Proof.Machine
end

