-- ==== Sys2Proof/Machine/Routing.lean ====
section
/-! DEFINITION. Routes of the fabric: channels, the turn rule, and the tables that a module computes (23, R431). -/
namespace Sys2Proof.Machine

/-! Channels. -/

/-- The channels between the compute dies of a module (R12, R431): east and west in a row, north and south between the rows. Their port numbers are
4 + the direction, above those of the module's ports (DESIGN CHOICE, log 33). -/
def dieLinks (m : Nat) : List Link :=
  (List.range 8).flatMap fun n =>
    (if n % 4 < 3 then [⟨m, n, 5, 1, m, n + 1, 7⟩, ⟨m, n + 1, 7, 3, m, n, 5⟩] else [])
      ++ (if n < 4 then [⟨m, n, 6, 2, m, n + 4, 4⟩, ⟨m, n + 4, 4, 0, m, n, 6⟩] else [])

/-- The channels of a system: those that its wiring gives, and those between the dies of every module that it names, this one among them. -/
def wholeFabric (self : Nat) (wiring : List Link) : List Link :=
  wiring ++ (self :: wiring.flatMap fun l => [l.module, l.toModule]).eraseDups.flatMap dieLinks

/-- The channels without a lost module. -/
def withoutModule (l : List Link) (m : Nat) : List Link := l.filter fun x => x.module != m && x.toModule != m

/-- The channels without the two of a link, by its module and its port as die × 4 + port. -/
def withoutLink (l : List Link) (m port : Nat) : List Link :=
  l.filter fun x => !(x.module == m && x.die * 4 + x.port == port && decide (x.port < 4))
    && !(x.toModule == m && x.toDie * 4 + x.toPort == port && decide (x.toPort < 4))

/-- The module and the die at the far end of a link, where the wiring names them. -/
def farEnd (l : List Link) (m port : Nat) : Option (Nat × Nat) :=
  (l.find? fun x => x.module == m && x.die * 4 + x.port == port && decide (x.port < 4)).map fun x => (x.toModule, x.toDie)

/-- The channels without those that begin or end at a die. -/
def withoutDie (l : List Link) (m d : Nat) : List Link :=
  l.filter fun x => !(x.module == m && x.die == d) && !(x.toModule == m && x.toDie == d)

/-! Routes. -/

/-- How far a route has come under the turn rule (R431): 0 and 1 on virtual channel 0, 2 and 3 on virtual channel 1, before and after a channel to
the north or south. A route changes to virtual channel 1 where the rule would end it, and once only. -/
def turnAfter (phase : Nat) (l : Link) : Option Nat :=
  if l.dir % 2 = 1 then (if phase = 0 then some 0 else if phase ≤ 2 then some 2 else none)
  else if phase ≤ 1 then some 1 else some 3

/-- A route that has come to a die, with the port numbers of its channels. -/
structure Reach where
  module : Nat
  die : Nat
  phase : Nat
  path : List Nat
  deriving DecidableEq, Repr

/-- Routes without those that stand where an earlier one of the list does, at the same point of the turn rule. -/
def firstReaches (l seen : List Reach) : List Reach :=
  match l with
  | [] => []
  | r :: l =>
    if seen.any fun x => x.module == r.module && x.die == r.die && x.phase == r.phase then firstReaches l seen
    else r :: firstReaches l (r :: seen)

/-- The routes one channel longer than those of a list, in the order of their port numbers hop by hop. -/
def longer (links : List Link) (l : List Reach) : List Reach :=
  l.flatMap fun r => (List.range 8).flatMap fun p =>
    links.filterMap fun x =>
      if x.module = r.module ∧ x.die = r.die ∧ x.port = p then (turnAfter r.phase x).map fun n => ⟨x.toModule, x.toDie, n, r.path ++ [p]⟩ else none

/-- The routes from a list on, the shortest first and of equals the lowest (R431), by rounds as many as the fuel. -/
def allReaches (links : List Link) (fuel : Nat) (front seen : List Reach) : List Reach :=
  match fuel with
  | 0 => seen
  | n + 1 =>
    let next := firstReaches (longer links front) seen
    if next = [] then seen else allReaches links n next (seen ++ next)

/-- The number of a route in the tables: the source die, the module and the die that it leads to. -/
def routeNo (src m d : Nat) : Nat := (src * 2048 + m) * 8 + d

/-- The routing tables of a module for its channels (R431): to each die that has a route, the best one. -/
def routesOf (self : Nat) (links : List Link) : Tbl (List Nat) :=
  (List.range 8).flatMap fun d =>
    (allReaches links (4 * links.length + 4) [⟨self, d, 0, []⟩] [⟨self, d, 0, []⟩]).foldl (fun (t : Tbl (List Nat)) r =>
      let n := routeNo d r.module r.die
      if (t.find n).isSome then t else t.set n r.path) []

/-- The module's tables are computed from its channels, and loaded (R335 step 6, R432 steps 3 and 4). -/
def State.loadRoutes (s : State) : State := s.modHub fun h => { h with routes := routesOf h.module h.links }

/-- A module has a route to another, which is no lost peer (R431). -/
def State.reaches (s : State) (m : Nat) : Bool :=
  m == s.hub.module || (!s.hub.lostMods.contains m && s.hub.routes.any fun p => p.1 / 8 % 2048 == m)

/-- The modules that the channels name and that no route reaches: each counts as a lost peer (R431). -/
def State.cutOff (s : State) : List Nat :=
  ((s.hub.links.map (·.toModule)).eraseDups).filter fun m => !s.reaches m && !s.hub.lostMods.contains m

end Sys2Proof.Machine
end

