-- ==== Sys2Proof/Config.lean ====
section
/-! DEFINITION. What an implementation fixes, and the free values: constants without a body, of which no proof can
see a value. Each is named in the assumption log. -/
namespace Sys2Proof.Config

/-- Frame ticks that pass during the n-th step of the model: free (DESIGN CHOICE, log 1). -/
opaque elapsedTicks : Nat → Nat

/-- Cycles of one die's clock that pass during the n-th step, by step and die: free (DESIGN CHOICE, log 1). -/
opaque elapsedCycles : Nat → Nat → Nat

/-- Which kind of turn follows the n-th step: free (DESIGN CHOICE, log 2). -/
opaque nextKind : Nat → Nat

/-- The core, the posted write or the granule that the next turn concerns: free (DESIGN CHOICE, log 2). -/
opaque nextIndex : Nat → Nat

/-- The event that happens next, where one does: free (DESIGN CHOICE, log 2). -/
opaque nextEvent : Nat → Option Instr

/-- What the outside writes into its own memory next: free (DESIGN CHOICE, log 18). -/
opaque nextBytes : Nat → List Byte

/-- A free bit: the k-th drawn in step n (DESIGN CHOICE, log 7). -/
opaque freeBit : Nat → Nat → Bool

/-- The deviation, in units of the last place, of a transcendental result from the correctly rounded one, before it is
cut to the bound of R233: by function number and operand, free (DESIGN CHOICE, log 11). -/
opaque ulpDeviation : Nat → BitVec 32 → Nat

/-- Byte k of what a unit outside the spec's reach delivers in step n (a signature, a digest, a certificate): free (DESIGN CHOICE, log 15). -/
opaque freeByte : Nat → Nat → Byte

/-- What a message of puts or collective steps from outside tells beside its flits, by source module, context and message number (DESIGN CHOICE,
log 22). -/
opaque putNote : Nat → Nat → Nat → PutNote

/-- The SHA3-256 digest of bytes: the function is not the spec's to give (DESIGN CHOICE, log 15). -/
opaque digest : List Byte → List Byte

/-- What module flash holds as it leaves manufacture: image n (0 the first stage, 1 to 7 firmware) in copy c, by 2 × n + c (DESIGN CHOICE, log 13). -/
opaque flashImage : Nat → List Byte

/-- The fused security counter of this module (DESIGN CHOICE, log 13). -/
opaque fusedVersion : Nat

/-- The security version that the header of a flash image holds: the spec gives the header no layout (DESIGN CHOICE, log 15). -/
opaque imageVersion : List Byte → Nat

/-- The signature of a flash image is good for the fused public key (DESIGN CHOICE, log 15). -/
opaque imageSigned : List Byte → Bool

/-- The scale of an element of a carried MX tensor for a write that brings none, by context, descriptor, row, column and step: a descriptor
names no place for scales (DESIGN CHOICE, log 21). -/
opaque tensorScale : Nat → Nat → Nat → Nat → Nat → Byte

/-- The fill value of the elements past a carried tensor's edge, by context and descriptor, where no record names one (DESIGN CHOICE, log 21). -/
opaque edgeFill : Nat → Nat → Nat

/-- The bytes of a debug object: its class and its contents as numbers; the spec gives no layout (DESIGN CHOICE, log 15). -/
opaque debugBytes : Nat → List Nat → List Byte

end Sys2Proof.Config
end

