-- ==== Sys2Proof/Machine/EntryRules.lean ====
section
/-! DEFINITION. The table opcode map (08, R176) and what a fill accepts of each opcode (10, R230 to R248; 22, R411). -/
namespace Sys2Proof.Machine

/-- The opcode and the entry of a table operation; none for every other instruction (R176). -/
def tableOp : Instr → Option (Nat × Entry)
  | .vnop e => some (0x000, e)
  | .vadd e => some (0x001, e)
  | .vsub e => some (0x002, e)
  | .vmul e => some (0x003, e)
  | .vfma e => some (0x004, e)
  | .vfms e => some (0x005, e)
  | .vfnma e => some (0x006, e)
  | .vmin e => some (0x007, e)
  | .vmax e => some (0x008, e)
  | .vabs e => some (0x009, e)
  | .vneg e => some (0x00A, e)
  | .vcpys e => some (0x00B, e)
  | .vrcp e => some (0x00C, e)
  | .vrsq e => some (0x00D, e)
  | .vsqrt e => some (0x00E, e)
  | .vdiv e => some (0x00F, e)
  | .vexp2 e => some (0x010, e)
  | .vlog2 e => some (0x011, e)
  | .vtanh e => some (0x012, e)
  | .vsigm e => some (0x013, e)
  | .vcmpf e => some (0x014, e)
  | .vclass e => some (0x015, e)
  | .vrndi e => some (0x016, e)
  | .vscale e => some (0x017, e)
  | .vdot2 e => some (0x018, e)
  | .viadd e => some (0x100, e)
  | .visub e => some (0x101, e)
  | .vimul e => some (0x102, e)
  | .vimulh e => some (0x103, e)
  | .vimad e => some (0x104, e)
  | .vand e => some (0x105, e)
  | .vor e => some (0x106, e)
  | .vxor e => some (0x107, e)
  | .vshl e => some (0x108, e)
  | .vshr e => some (0x109, e)
  | .vsra e => some (0x10A, e)
  | .vimin e => some (0x10B, e)
  | .vimax e => some (0x10C, e)
  | .vicmp e => some (0x10D, e)
  | .vsel e => some (0x10E, e)
  | .vpopc e => some (0x10F, e)
  | .vclz e => some (0x110, e)
  | .vbfx e => some (0x111, e)
  | .viabs e => some (0x112, e)
  | .vsat e => some (0x113, e)
  | .vmov e => some (0x114, e)
  | .vlane e => some (0x115, e)
  | .vgrp e => some (0x116, e)
  | .vqlog e => some (0x117, e)
  | .vqcnt e => some (0x118, e)
  | .vld e => some (0x200, e)
  | .vst e => some (0x201, e)
  | .vldx e => some (0x202, e)
  | .vstx e => some (0x203, e)
  | .vldg e => some (0x204, e)
  | .vstg e => some (0x205, e)
  | .vamo e => some (0x206, e)
  | .vcas e => some (0x207, e)
  | .vstt e => some (0x208, e)
  | .vnbr e => some (0x280, e)
  | .vperm e => some (0x281, e)
  | .vbcl e => some (0x282, e)
  | .vrsum e => some (0x283, e)
  | .vrmax e => some (0x284, e)
  | .vrmin e => some (0x285, e)
  | .vscan e => some (0x286, e)
  | .vgbc e => some (0x287, e)
  | .vcvt e => some (0x300, e)
  | .vpack e => some (0x301, e)
  | .vunpk e => some (0x302, e)
  | .vmxq e => some (0x303, e)
  | .vmxd e => some (0x304, e)
  | .vrimec e => some (0x305, e)
  | .vsamp e => some (0x306, e)
  | _ => none

/-- The table operation of an opcode (R176); none for a reserved opcode. -/
def ofTableOp (op : Nat) (e : Entry) : Option Instr :=
  match op with
  | 0x000 => some (.vnop e)
  | 0x001 => some (.vadd e)
  | 0x002 => some (.vsub e)
  | 0x003 => some (.vmul e)
  | 0x004 => some (.vfma e)
  | 0x005 => some (.vfms e)
  | 0x006 => some (.vfnma e)
  | 0x007 => some (.vmin e)
  | 0x008 => some (.vmax e)
  | 0x009 => some (.vabs e)
  | 0x00A => some (.vneg e)
  | 0x00B => some (.vcpys e)
  | 0x00C => some (.vrcp e)
  | 0x00D => some (.vrsq e)
  | 0x00E => some (.vsqrt e)
  | 0x00F => some (.vdiv e)
  | 0x010 => some (.vexp2 e)
  | 0x011 => some (.vlog2 e)
  | 0x012 => some (.vtanh e)
  | 0x013 => some (.vsigm e)
  | 0x014 => some (.vcmpf e)
  | 0x015 => some (.vclass e)
  | 0x016 => some (.vrndi e)
  | 0x017 => some (.vscale e)
  | 0x018 => some (.vdot2 e)
  | 0x100 => some (.viadd e)
  | 0x101 => some (.visub e)
  | 0x102 => some (.vimul e)
  | 0x103 => some (.vimulh e)
  | 0x104 => some (.vimad e)
  | 0x105 => some (.vand e)
  | 0x106 => some (.vor e)
  | 0x107 => some (.vxor e)
  | 0x108 => some (.vshl e)
  | 0x109 => some (.vshr e)
  | 0x10A => some (.vsra e)
  | 0x10B => some (.vimin e)
  | 0x10C => some (.vimax e)
  | 0x10D => some (.vicmp e)
  | 0x10E => some (.vsel e)
  | 0x10F => some (.vpopc e)
  | 0x110 => some (.vclz e)
  | 0x111 => some (.vbfx e)
  | 0x112 => some (.viabs e)
  | 0x113 => some (.vsat e)
  | 0x114 => some (.vmov e)
  | 0x115 => some (.vlane e)
  | 0x116 => some (.vgrp e)
  | 0x117 => some (.vqlog e)
  | 0x118 => some (.vqcnt e)
  | 0x200 => some (.vld e)
  | 0x201 => some (.vst e)
  | 0x202 => some (.vldx e)
  | 0x203 => some (.vstx e)
  | 0x204 => some (.vldg e)
  | 0x205 => some (.vstg e)
  | 0x206 => some (.vamo e)
  | 0x207 => some (.vcas e)
  | 0x208 => some (.vstt e)
  | 0x280 => some (.vnbr e)
  | 0x281 => some (.vperm e)
  | 0x282 => some (.vbcl e)
  | 0x283 => some (.vrsum e)
  | 0x284 => some (.vrmax e)
  | 0x285 => some (.vrmin e)
  | 0x286 => some (.vscan e)
  | 0x287 => some (.vgbc e)
  | 0x300 => some (.vcvt e)
  | 0x301 => some (.vpack e)
  | 0x302 => some (.vunpk e)
  | 0x303 => some (.vmxq e)
  | 0x304 => some (.vmxd e)
  | 0x305 => some (.vrimec e)
  | 0x306 => some (.vsamp e)
  | _ => none

/-- The natural class of an opcode (R231 to R248), which for loads depends on the space (R237). VNOP has any class. -/
def naturalClass (op : Nat) (e : Entry) : Nat :=
  if op ≤ 0x006 then 2
  else if op ≤ 0x00B then 0
  else if op ≤ 0x013 then 4
  else if op ≤ 0x015 then 0
  else if op ≤ 0x018 then 2
  else if op = 0x102 ∨ op = 0x103 ∨ op = 0x104 ∨ op = 0x115 ∨ op = 0x116 then 1
  else if op ≤ 0x118 then 0
  else if op = 0x200 ∨ op = 0x202 then (if e.space = 1 then 6 else 3)
  else if op = 0x201 ∨ op = 0x203 ∨ op = 0x205 ∨ op = 0x208 then 7
  else if op = 0x204 ∨ op = 0x206 ∨ op = 0x207 then 6
  else if op ≤ 0x287 then 5
  else if op = 0x300 ∨ op = 0x304 then 2
  else if op = 0x301 ∨ op = 0x302 ∨ op = 0x306 then 0
  else if op = 0x303 then 4
  else 6

/-- The padding rank of a class (R54); class 7 has none. -/
def paddingRank (c : Nat) : Nat :=
  match c with
  | 0 => 0 | 1 => 1 | 5 => 2 | 2 => 3 | 3 => 4 | 4 => 5 | _ => 6

/-- The declared class against the natural one (R55). VNOP may be declared at any class. -/
def classOk (op : Nat) (e : Entry) : Bool :=
  let c := e.cls.toNat
  let n := naturalClass op e
  op == 0 || c == n || (c != 7 && n != 7 && decide (paddingRank n ≤ paddingRank c))

/-- The types an opcode accepts (R230). -/
def typeOk (op : Nat) (e : Entry) : Bool :=
  let t := e.ty.toNat
  if op = 0 then true
  else if op < 0x018 then t ≤ 2
  else if op = 0x018 then t = 1 ∨ t = 2
  else if op = 0x10D ∨ op = 0x10F ∨ op = 0x110 ∨ op = 0x111 ∨ op = 0x115 ∨ op = 0x116 then t = 3 ∨ t = 4
  else if op = 0x112 then t = 3 ∨ t = 5 ∨ t = 6
  else if op = 0x105 ∨ op = 0x106 ∨ op = 0x107 ∨ op = 0x10E ∨ op = 0x114 ∨ op = 0x117 ∨ op = 0x118 then true
  else if op ≤ 0x113 then 3 ≤ t
  else if op = 0x206 ∨ op = 0x207 then t = 3 ∨ t = 4
  else if op = 0x303 ∨ op = 0x304 then t = 0
  else true

/-- What an opcode writes: nothing, a v register or a mask. -/
inductive DestKind where
  | none | vreg | mask
  deriving DecidableEq, Repr

/-- The destination kind of an opcode. -/
def destKind (op : Nat) : DestKind :=
  if op = 0 ∨ op = 0x201 ∨ op = 0x203 ∨ op = 0x205 ∨ op = 0x208 then .none
  else if op = 0x014 ∨ op = 0x10D ∨ op = 0x117 then .mask
  else .vreg

/-- The destination code is of the opcode's kind (R174, R230). -/
def destOk (op : Nat) (e : Entry) : Bool :=
  match destKind op with
  | .none => true
  | .vreg => e.dest.toNat < 64
  | .mask => 64 ≤ e.dest.toNat && e.dest.toNat < 72

/-- How many of the source fields A, B, C an opcode reads. -/
def sourceCount (op : Nat) : Nat :=
  if op = 0 ∨ op = 0x200 then 0
  else if op = 0x004 ∨ op = 0x005 ∨ op = 0x006 ∨ op = 0x018 ∨ op = 0x104 ∨ op = 0x207 ∨ op = 0x208 then 3
  else if op = 0x009 ∨ op = 0x00A ∨ (0x00C ≤ op ∧ op ≤ 0x00E) ∨ (0x010 ≤ op ∧ op ≤ 0x013) ∨ op = 0x015 ∨ op = 0x016
    ∨ op = 0x10F ∨ op = 0x110 ∨ op = 0x112 ∨ op = 0x114 ∨ op = 0x118 ∨ op = 0x201 ∨ op = 0x202 ∨ op = 0x204
    ∨ op = 0x280 ∨ (0x283 ≤ op ∧ op ≤ 0x287) ∨ (0x302 ≤ op ∧ op ≤ 0x306) then 1
  else 2

/-- VCVT reads B only where it narrows (R244): fewer source elements per lane than destination elements. -/
def vcvtSrcElems (e : Entry) : Nat :=
  let o := e.imm.toNat / 8 % 4
  if o = 1 ∨ o = 2 then 4
  else match e.ty.toNat with
    | 0 => 1 | 1 => 2 | 2 => 2 | 3 => 1 | 4 => 1 | 5 => 2 | _ => 4

/-- Destination elements per lane of a VCVT by fn (R244). -/
def vcvtDstElems (fn : Nat) : Nat :=
  match fn with
  | 0 => 1 | 1 => 2 | 2 => 2 | 3 => 1 | 4 => 1 | 5 => 2 | _ => 4

/-- The number of source fields read, with VCVT's own rule. -/
def sourcesRead (op : Nat) (e : Entry) : Nat :=
  if op = 0x300 then (if vcvtDstElems e.fn.toNat ≤ vcvtSrcElems e then 1 else 2) else sourceCount op

/-- One source code as the opcode's row admits it (R175, R230, R234, R242): VNBR and VGBC read a v register only, VQLOG
and VQCNT a mask number, and the opcodes that read imm as options may not name code 74. -/
def sourceOk (op : Nat) (c : BitVec 7) : Bool :=
  if op = 0x280 ∨ op = 0x287 then c.toNat < 64
  else if op = 0x117 ∨ op = 0x118 then c.toNat < 8
  else c.toNat < 78 && !((op == 0x300 || op == 0x208 || op == 0x305 || op == 0x306) && c.toNat == 74)

/-- Every source field the opcode reads is admitted. -/
def sourcesOk (op : Nat) (e : Entry) : Bool :=
  ([e.sa, e.sb, e.sc].take (sourcesRead op e)).all (sourceOk op)

/-- The fn values an opcode accepts (R230). -/
def fnOk (op : Nat) (e : Entry) : Bool :=
  let f := e.fn.toNat
  if op = 0x014 then e.ty.toNat ≠ 0 ∨ f < 8
  else if op = 0x10D then f ≤ 5
  else if op = 0x10E then f ≤ 7
  else if op = 0x111 ∨ op = 0x113 then f ≤ 1
  else if op = 0x117 ∨ op = 0x280 ∨ op = 0x287 then true
  else if op = 0x206 then f ≤ 8
  else if op = 0x300 then f ≤ 9
  else if op = 0x301 then f ≤ 3
  else if op = 0x302 then 8 ≤ f ∨ f % 8 < 4
  else if op = 0x303 ∨ op = 0x304 then f ≤ 2
  else f = 0

/-- Bytes of one tile row by type (R241). -/
def rowBytesOfType (ty : Nat) : Nat :=
  if ty = 0 ∨ ty = 3 ∨ ty = 4 then 128 else if ty = 6 ∨ ty = 7 then 32 else 64

/-- The element format option of VSTT and VRIMEC: 0 for every type, 1 and 2 only for the byte types (R241, R247). -/
def tileOptOk (ty opt : Nat) : Bool := opt == 0 || ((opt == 1 || opt == 2) && (ty == 6 || ty == 7))

/-- The option bits of imm (R241, R244, R247), with the space of VSTT and VRIMEC. -/
def optionsOk (op : Nat) (e : Entry) : Bool :=
  let i := e.imm.toNat
  let f := e.fn.toNat
  if op = 0x208 then decide (i < 4) && tileOptOk e.ty.toNat (i % 4) && e.space == 0
  else if op = 0x305 then
    decide (i < 2 ^ 18) && tileOptOk e.ty.toNat (i / 2 ^ 16 % 4) && decide (i % 2 ^ 16 % 4 = 0)
      && decide (rowBytesOfType e.ty.toNat ≤ i % 2 ^ 16) && e.space == 0
  else if op = 0x300 then
    let ns := vcvtSrcElems e
    let nd := vcvtDstElems f
    let pos := i / 2 % 4
    let n := min nd (2 * ns)
    let floatSrc := i / 8 % 4 ≠ 0 ∨ e.ty.toNat ≤ 2
    decide (i < 32) && decide (i / 8 % 4 ≠ 3)
      && (if nd ≤ ns then decide (pos * nd + nd ≤ ns) else decide (pos * n + n ≤ nd))
      && (decide (i % 2 = 0) || (decide floatSrc && (f == 1 || f == 8 || f == 9)))
  else true

/-- A fill's check of one entry, its class aside (R411, grounds 4 to 8). -/
def rowOk (op : Nat) (e : Entry) : Bool :=
  typeOk op e && destOk op e && sourcesOk op e && fnOk op e && optionsOk op e

end Sys2Proof.Machine
end

