-- ==== Sys2Proof/Decode.lean ====
section
/-! DEFINITION. Decoding of bundles and of their issue slots (08, R163 to R179; 22, R409), total on all words, with the
reason and the bit position of every rejection (R408), and the encoder written from the same tables. -/
namespace Sys2Proof

/-- Why a word is not an instruction (R408): the issue slot (0 header, 1 C, 2 V, 3 M, 4 X), the reason code and the
position of the lowest offending bundle bit. -/
structure DecErr where
  slot : Nat
  reason : Nat
  pos : Nat
  deriving DecidableEq, Repr

/-- The bundle bit at which an issue slot begins (R163). -/
def slotBase (slot : Nat) : Nat :=
  match slot with
  | 1 => 8 | 2 => 72 | 3 => 120 | 4 => 184 | _ => 0

/-- The lowest set bit of a word among the given fields (low bit, length), if any. -/
def lowestSet (w : BitVec 64) (fs : List (Nat × Nat)) : Option Nat :=
  (List.range 64).find? fun i => w.getLsbD i && fs.any fun f => decide (f.1 ≤ i ∧ i < f.1 + f.2)

/-- The field of a word at a low bit with a length. -/
abbrev fld (w : BitVec 64) (lo len : Nat) : BitVec len := w.extractLsb' lo len

/-- A rejection of the issue slot at the lowest set bit of a field, or at its low bit where none is set. -/
def bad (slot reason : Nat) (w : BitVec 64) (lo len : Nat) : Except DecErr Instr :=
  .error ⟨slot, reason, slotBase slot + (lowestSet w [(lo, len)]).getD lo⟩

/-- Continue only where the fields (low bit, length) are zero: reserved and unused fields (R164, reason 2). -/
def zeros (slot : Nat) (w : BitVec 64) (fs : List (Nat × Nat)) (k : Except DecErr Instr) : Except DecErr Instr :=
  if fs.all fun f => w.extractLsb' f.1 f.2 == 0 then k
  else .error ⟨slot, 2, slotBase slot + (lowestSet w fs).getD 0⟩

/-- Continue only where a field's value is admitted; otherwise reason 3 or 4. -/
def limit (slot reason : Nat) (w : BitVec 64) (lo len : Nat) (ok : Bool) (k : Except DecErr Instr) : Except DecErr Instr :=
  if ok then k else bad slot reason w lo len

/-! The formats of the control issue slot (R166). -/

/-- Format CR. -/
def encCR (op : BitVec 8) (d a b c : SReg) (g : Guard) (fn : BitVec 8) : BitVec 64 :=
  op ++ d ++ a ++ b ++ c ++ g ++ fn ++ (0 : BitVec 20)

/-- Format CI. -/
def encCI (op : BitVec 8) (d a : SReg) (g : Guard) (imm : BitVec 34) (fn : BitVec 6) : BitVec 64 :=
  op ++ d ++ a ++ g ++ imm ++ fn

/-- Format CB. -/
def encCB (op : BitVec 8) (g : Guard) (lc : BitVec 2) (a b c : SReg) (off : BitVec 32) : BitVec 64 :=
  op ++ g ++ lc ++ a ++ b ++ c ++ off

/-- Format CM. -/
def encCM (op : BitVec 8) (d base : SReg) (g : Guard) (size space : BitVec 3) (off : BitVec 32) : BitVec 64 :=
  op ++ d ++ base ++ g ++ size ++ space ++ (0 : BitVec 2) ++ off

/-- Format CA. -/
def encCA (op : BitVec 8) (d addr b c : SReg) (g : Guard) (k : SReg) (aop : BitVec 4) (cc : BitVec 3) (w : BitVec 1) : BitVec 64 :=
  op ++ d ++ addr ++ b ++ c ++ g ++ k ++ aop ++ cc ++ w ++ (0 : BitVec 14)

/-- Format CS. -/
def encCS (op : BitVec 8) (d a : SReg) (g : Guard) (csr : BitVec 12) (imm : BitVec 28) : BitVec 64 :=
  op ++ d ++ a ++ g ++ csr ++ imm

/-- Decoding of the control issue slot (R166 to R172, R201 to R206). -/
def decodeC (w : BitVec 64) : Except DecErr Instr :=
  let z := zeros 1 w
  let lim3 := limit 1 3 w
  let lim4 := limit 1 4 w
  let d := fld w 50 6
  let a := fld w 44 6
  let b := fld w 38 6
  let c := fld w 32 6
  let gr := fld w 28 4
  let gi := fld w 40 4
  let gb := fld w 52 4
  let imm := fld w 6 34
  let lc := fld w 50 2
  let off := fld w 0 32
  let csr := fld w 28 12
  match (fld w 56 8).toNat with
  | 0x00 => z [(0, 56)] (.ok (.nop))
  | 0x01 => z [(0, 20), (20, 8), (32, 6)] (.ok (.add gr d a b))
  | 0x02 => z [(0, 20), (20, 8), (32, 6)] (.ok (.sub gr d a b))
  | 0x03 => z [(0, 20), (20, 8), (32, 6)] (.ok (.mul gr d a b))
  | 0x04 => z [(0, 20), (20, 8), (32, 6)] (.ok (.mulh gr d a b))
  | 0x05 => z [(0, 20), (20, 8), (32, 6)] (.ok (.mulhn gr d a b))
  | 0x06 => z [(0, 20), (20, 8), (32, 6)] (.ok (.div gr d a b))
  | 0x07 => z [(0, 20), (20, 8), (32, 6)] (.ok (.divn gr d a b))
  | 0x08 => z [(0, 20), (20, 8), (32, 6)] (.ok (.rem gr d a b))
  | 0x09 => z [(0, 20), (20, 8), (32, 6)] (.ok (.remn gr d a b))
  | 0x0A => z [(0, 20), (20, 8), (32, 6)] (.ok (.and_ gr d a b))
  | 0x0B => z [(0, 20), (20, 8), (32, 6)] (.ok (.or_ gr d a b))
  | 0x0C => z [(0, 20), (20, 8), (32, 6)] (.ok (.xor gr d a b))
  | 0x0D => z [(0, 20), (20, 8), (32, 6)] (.ok (.andn gr d a b))
  | 0x0E => z [(0, 20), (20, 8), (32, 6)] (.ok (.shl gr d a b))
  | 0x0F => z [(0, 20), (20, 8), (32, 6)] (.ok (.shr gr d a b))
  | 0x10 => z [(0, 20), (20, 8), (32, 6)] (.ok (.sra gr d a b))
  | 0x11 => z [(0, 20), (20, 8), (32, 6)] (.ok (.rol gr d a b))
  | 0x12 => z [(0, 20), (20, 8), (32, 6)] (.ok (.min_ gr d a b))
  | 0x13 => z [(0, 20), (20, 8), (32, 6)] (.ok (.max_ gr d a b))
  | 0x14 => z [(0, 20), (20, 8), (32, 6)] (.ok (.minn gr d a b))
  | 0x15 => z [(0, 20), (20, 8), (32, 6)] (.ok (.maxn gr d a b))
  | 0x16 => z [(0, 20), (20, 8), (32, 12)] (.ok (.clz gr d a))
  | 0x17 => z [(0, 20), (20, 8), (32, 12)] (.ok (.popc gr d a))
  | 0x18 => z [(0, 20), (32, 12)] (lim4 20 8 (fld w 26 2 == 0) <| .ok (.sext gr d a (fld w 20 6)))
  | 0x19 => z [(0, 20), (32, 12)] (lim4 20 8 (fld w 26 2 == 0) <| .ok (.zext gr d a (fld w 20 6)))
  | 0x1A => z [(0, 20), (32, 6)] (lim4 20 8 (decide (1 ≤ (fld w 20 8).toNat ∧ (fld w 20 8).toNat ≤ 64)) <| .ok (.bfx gr d a b (fld w 20 7)))
  | 0x1B => z [(0, 20)] (lim4 20 8 (decide (1 ≤ (fld w 20 8).toNat ∧ (fld w 20 8).toNat ≤ 64)) <| .ok (.bfi gr d a b c (fld w 20 7)))
  | 0x1C => z [(0, 20), (24, 4), (32, 6)] (.ok (.sel gr d a b (fld w 20 4)))
  | 0x1D => z [(0, 20), (23, 5), (32, 6), (53, 3)] (lim3 20 3 (decide ((fld w 20 3).toNat < 6)) <| .ok (.cmp gr (fld w 50 3) a b (fld w 20 3)))
  | 0x1E => z [(0, 20), (24, 4), (32, 6), (41, 3), (47, 3), (53, 3)] (.ok (.plog gr (fld w 50 3) (fld w 44 3) (fld w 38 3) (fld w 20 4)))
  | 0x1F => z [(0, 20), (32, 6)] (lim4 20 8 (fld w 23 5 == 0) <| .ok (.lea gr d a b (fld w 20 3)))
  | 0x20 => z [(0, 6)] (.ok (.addi gi d a imm))
  | 0x21 => z [(0, 6)] (.ok (.andi gi d a imm))
  | 0x22 => z [(0, 6)] (.ok (.ori gi d a imm))
  | 0x23 => z [(0, 6)] (.ok (.xori gi d a imm))
  | 0x24 => z [(0, 6)] (lim4 6 34 (fld w 12 28 == 0) <| .ok (.shli gi d a (fld w 6 6)))
  | 0x25 => z [(0, 6)] (lim4 6 34 (fld w 12 28 == 0) <| .ok (.shri gi d a (fld w 6 6)))
  | 0x26 => z [(0, 6)] (lim4 6 34 (fld w 12 28 == 0) <| .ok (.srai gi d a (fld w 6 6)))
  | 0x27 => z [(0, 6), (44, 6)] (.ok (.li gi d imm))
  | 0x28 => z [(0, 6)] (lim4 6 34 (fld w 36 4 == 0) <| .ok (.lih gi d a (fld w 6 30)))
  | 0x29 => z [(0, 6)] (.ok (.muli gi d a imm))
  | 0x2A => z [(0, 6), (44, 6)] (.ok (.addpc gi d imm))
  | 0x2B => z [(3, 3), (53, 3)] (lim3 0 3 (decide ((fld w 0 3).toNat < 6)) <| .ok (.cmpi gi (fld w 50 3) a imm (fld w 0 3)))
  | 0x40 => z [(32, 20)] (.ok (.br gb off))
  | 0x41 => z [(36, 16)] (.ok (.brp gb (fld w 32 4) off))
  | 0x42 => z [(32, 12), (50, 2)] (.ok (.brz gb a off))
  | 0x43 => z [(32, 12), (50, 2)] (.ok (.brnz gb a off))
  | 0x44 => z [(32, 12), (50, 2)] (.ok (.brr gb a off))
  | 0x45 => z [(32, 20)] (.ok (.call gb off))
  | 0x46 => z [(0, 44), (50, 2)] (.ok (.callr gb a))
  | 0x47 => z [(0, 52)] (.ok (.ret gb))
  | 0x48 => z [(32, 12)] (lim4 0 32 (off == 0 || off.msb) <| .ok (.loop gb lc a off))
  | 0x49 => lim4 0 32 (off == 0 || off.msb) <| .ok (.loopi gb lc (fld w 32 18) off)
  | 0x4A => z [(32, 18)] (.ok (.lbrk gb lc off))
  | 0x60 => z [(32, 2)] (lim3 34 3 (fld w 36 1 == 0) <| lim3 37 3 (fld w 37 3 != 7) <| .ok (.ld gi d a (fld w 37 3) (fld w 34 2) off))
  | 0x61 => z [(32, 2)] (lim3 34 3 (fld w 36 1 == 0) <| lim3 37 3 (fld w 37 1 == 0) <| .ok (.st gi d a (fld w 37 3) (fld w 34 2) off))
  | 0x62 => z [(32, 2)] (lim3 34 3 (fld w 36 1 == 0) <| lim3 37 3 (fld w 37 3 == 7) <| lim3 50 6 (d != 63) <| .ok (.ldp gi d a (fld w 34 2) off))
  | 0x63 => z [(32, 2)] (lim3 34 3 (fld w 36 1 == 0) <| lim3 37 3 (fld w 37 3 == 7) <| lim3 50 6 (d != 63) <| .ok (.stp gi d a (fld w 34 2) off))
  | 0x80 => z [(0, 14), (15, 3), (32, 6)] (lim3 18 4 (decide ((fld w 18 4).toNat < 9)) <| .ok (.amo gr d a b (fld w 22 6) (fld w 18 4) (fld w 14 1)))
  | 0x81 => z [(0, 14), (15, 7), (22, 6)] (.ok (.cas gr d a b c (fld w 14 1)))
  | 0x82 => z [(0, 14), (15, 7)] (.ok (.casc gr d a b c (fld w 22 6) (fld w 14 1)))
  | 0x83 => z [(0, 14)] (lim3 18 4 (decide ((fld w 18 4).toNat < 9)) <| lim3 15 3 (decide ((fld w 15 3).toNat < 6)) <| .ok (.amoct gr d a b c (fld w 22 6) (fld w 18 4) (fld w 15 3) (fld w 14 1)))
  | 0x84 => z [(0, 15), (32, 6), (50, 6)] (lim3 18 4 (fld w 18 4 == 0 || fld w 18 4 == 4 || fld w 18 4 == 5) <| lim3 15 3 (decide ((fld w 15 3).toNat < 5)) <| .ok (.fred gr a b (fld w 22 6) (fld w 18 4) (fld w 15 3)))
  | 0xA0 => z [(0, 20), (20, 8), (32, 12), (50, 6)] (.ok (.tspawn gr a))
  | 0xA1 => z [(0, 20), (20, 8), (32, 6), (50, 6)] (.ok (.tdec gr a b))
  | 0xA2 => z [(0, 20), (20, 8), (32, 6), (50, 6)] (.ok (.tarm gr a b))
  | 0xA9 => z [(0, 20), (20, 8), (32, 6), (50, 6)] (.ok (.publish gr a b))
  | 0xA3 => z [(0, 20), (20, 8), (32, 12), (50, 6)] (.ok (.tdone gr a))
  | 0xA4 => z [(0, 32), (50, 6)] (.ok (.freeze gi a (fld w 32 8)))
  | 0xA5 => z [(0, 20), (20, 8), (32, 24)] (.ok (.fence gr))
  | 0xA7 => z [(0, 20), (20, 8), (32, 24)] (.ok (.gsync gr))
  | 0xA6 => z [(19, 21), (44, 12)] (lim3 6 2 (fld w 6 2 == 0) <| lim3 14 2 (fld w 14 2 == 0) <| lim3 16 3 (decide ((fld w 16 3).toNat < 5)) <| .ok (.xfence gi (fld w 0 6) (fld w 8 6) (fld w 16 3)))
  | 0xA8 => z [(6, 34), (44, 12)] (.ok (.tswap gi (fld w 0 6)))
  | 0xC0 => z [(0, 28), (44, 6)] (.ok (.csrr gi d csr))
  | 0xC1 => z [(0, 28)] (.ok (.csrw gi d a csr))
  | 0xC2 => z [(0, 28)] (.ok (.csrs gi d a csr))
  | 0xC3 => z [(0, 28)] (.ok (.csrc gi d a csr))
  | 0xC4 => z [(28, 12), (50, 6)] (.ok (.trap gi a (fld w 0 28)))
  | 0xC5 => z [(2, 38), (44, 12)] (.ok (.icinv gi (fld w 0 2)))
  | 0xC6 => z [(0, 40), (44, 12)] (.ok (.srfence gi))
  | 0xC7 => z [(0, 28), (44, 6)] (lim3 28 12 (decide (csr.toNat < 0x10A)) <| .ok (.eread gi d csr))
  | 0xC8 => z [(0, 40)] (.ok (.tokx gi d a))
  | _ => bad 1 1 w 56 8

/-- Decoding of the V issue slot (R173): its 48 bits in the low bits of a word. -/
def decodeV (w : BitVec 64) : Except DecErr Instr :=
  zeros 2 w [(0, 6)] (.ok (.vix (fld w 28 4) (fld w 38 10) (fld w 32 6) (fld w 26 2) (fld w 22 4) (fld w 6 16)))

/-- Encoding of the V issue slot. -/
def encodeV (g : Guard) (index : BitVec 10) (bs : SReg) (fsel : BitVec 2) (foff : BitVec 4) (bi : BitVec 16) : BitVec 48 :=
  index ++ bs ++ g ++ fsel ++ foff ++ bi ++ (0 : BitVec 6)

/-- The fields of a table entry (R174). -/
def entryFields (w : Quad) : Entry :=
  ⟨w.extractLsb' 115 3, w.extractLsb' 112 3, w.extractLsb' 105 7, w.extractLsb' 104 1, w.extractLsb' 101 3,
    w.extractLsb' 100 1, w.extractLsb' 93 7, w.extractLsb' 86 7, w.extractLsb' 79 7, w.extractLsb' 76 3,
    w.extractLsb' 72 4, w.extractLsb' 69 3, w.extractLsb' 67 2, w.extractLsb' 65 2, w.extractLsb' 61 4,
    w.extractLsb' 32 29, w.extractLsb' 0 32⟩

/-- Decoding of a table entry (R174, R176); none for a reserved opcode. -/
def decodeEntry (w : Quad) : Option Instr :=
  Machine.ofTableOp (w.extractLsb' 118 10).toNat (entryFields w)

/-- Encoding of a table entry with an opcode. -/
def encodeEntry (op : BitVec 10) (e : Entry) : Quad :=
  op ++ e.cls ++ e.ty ++ e.dest ++ e.capv ++ e.latch ++ e.nowb ++ e.sa ++ e.sb ++ e.sc ++ e.mask ++ e.bank ++ e.base
    ++ e.space ++ e.rnd ++ e.fn ++ e.offset ++ e.imm

/-! The matrix issue slot (R177, R178, R251 to R266). Each command has a layout of its own; opcode, plane and guard
stand at the same bits in all of them. -/

/-- The region fields at bits 36 to 25 (R263). -/
def regionOf (w : BitVec 64) : RegionF := ⟨fld w 34 3, fld w 31 3, fld w 28 3, fld w 25 3⟩

/-- The region lies within the plane's 8 by 8 tiles: tr + rows and tc + cols at most 8 (R263). -/
def regionOk (r : RegionF) : Bool :=
  decide (r.tr.toNat + r.rows.toNat + 1 ≤ 8 ∧ r.tc.toNat + r.cols.toNat + 1 ≤ 8)

/-- The slot range of an MMA operand ends at or below 511 (R259). -/
def slotRangeOk (base : BitVec 9) (chunks : BitVec 5) : Bool :=
  decide (base.toNat + 8 * (chunks.toNat + 1) ≤ 512)

/-- Decoding of the matrix issue slot. -/
def decodeM (w : BitVec 64) : Except DecErr Instr :=
  let z := zeros 3 w
  let lim := limit 3 4 w
  let g := fld w 10 4
  let pl := fld w 55 3
  let fs := fld w 16 2
  let fo := fld w 14 2
  match (fld w 58 6).toNat with
  | 0x00 => z [(0, 10), (14, 44)] (.ok (.mnop g))
  | 0x01 => z [(0, 10), (14, 37), (55, 3)] (.ok (.mlease g (fld w 51 4)))
  | 0x02 => z [(0, 10), (14, 44)] (.ok (.mrels g))
  | 0x03 => z [(0, 10), (14, 26), (55, 3)] (.ok (.mclaim g (fld w 40 6) (fld w 46 9)))
  | 0x04 => z [(0, 10), (14, 44)] (.ok (.mfree g))
  | 0x05 => z [(0, 10), (55, 3)] (lim 19 5 (fld w 19 5 != 0) <| lim 24 4 (decide (1 ≤ (fld w 24 4).toNat ∧ (fld w 24 4).toNat ≤ 7)) <| .ok (.mlds ⟨g, fld w 46 9, fld w 40 6, fld w 34 6, fld w 28 6, fld w 24 4, fld w 19 5, fld w 18 1, fs, fo⟩))
  | 0x06 => z [(0, 10), (14, 5), (24, 4), (55, 3)] (lim 19 5 (fld w 19 5 != 0) <| .ok (.msts g (fld w 46 9) (fld w 40 6) (fld w 34 6) (fld w 28 6) (fld w 19 5)))
  | 0x07 => z [(0, 10), (14, 23), (55, 3)] (.ok (.mtran g (fld w 46 9) (fld w 37 9)))
  | 0x08 => z [(0, 10), (14, 3)] (lim 46 9 (slotRangeOk (fld w 46 9) (fld w 32 5)) <| lim 37 9 (slotRangeOk (fld w 37 9) (fld w 32 5)) <| .ok (.mma ⟨g, pl, fld w 46 9, fld w 37 9, fld w 32 5, fld w 24 8, fld w 22 2, fld w 18 4, fld w 17 1⟩))
  | 0x09 => z [(0, 7), (8, 2)] (.ok (.mmah ⟨g, pl, fld w 49 6, fld w 43 6, fld w 37 6, fld w 31 6, fld w 26 5, fld w 18 8, fs, fo, fld w 7 1⟩))
  | 0x0A => z [(0, 10), (14, 41)] (.ok (.mzero g pl))
  | 0x0B => z [(0, 10)] (lim 18 7 (fld w 18 7 != 0) <| lim 25 12 (regionOk (regionOf w)) <| .ok (.mdrain ⟨g, pl, fld w 49 6, fld w 43 6, fld w 37 6, regionOf w, fld w 18 7, fs, fo⟩))
  | 0x0C => z [(0, 10), (18, 7)] (lim 25 12 (regionOk (regionOf w)) <| .ok (.mdrainh ⟨g, pl, fld w 49 6, fld w 43 6, fld w 37 6, regionOf w, fs, fo⟩))
  | 0x0D => z [(0, 10), (18, 18)] (.ok (.msamp ⟨g, pl, fld w 49 6, fld w 44 5, fld w 36 8, fs, fo⟩))
  | 0x0E => z [(0, 10), (14, 4), (37, 6)] (lim 18 7 (fld w 18 7 != 0) <| lim 25 12 (regionOk (regionOf w)) <| .ok (.maccld ⟨g, pl, fld w 49 6, fld w 43 6, regionOf w, fld w 18 7⟩))
  | _ => bad 3 1 w 58 6

/-- The common fields of an X command (R179): which of the two flags the command accepts is checked beside. -/
def xFields (w : BitVec 64) (buf : BitVec 4) : XF :=
  ⟨fld w 24 4, fld w 52 6, fld w 46 6, fld w 40 6, fld w 34 6, fld w 28 6, fld w 23 1, fld w 22 1, buf⟩

/-- COUT and BUF together are reserved (R269). -/
def flagsOk (w : BitVec 64) : Bool := !(fld w 23 1 == 1 && fld w 22 1 == 1)

/-- The buffer number's bits are zero where BUF is clear (R269, R274). -/
def bufOk (w : BitVec 64) : Bool := fld w 22 1 == 1 || fld w 16 4 == 0

/-- Decoding of the copy issue slot (R179, R269 to R292). -/
def decodeX (w : BitVec 64) : Except DecErr Instr :=
  let z := zeros 4 w
  let lim2 := limit 4 2 w
  let lim3 := limit 4 3 w
  let xb := xFields w (fld w 16 4)
  let x := xFields w 0
  match (fld w 58 6).toNat with
  | 0x00 => z [(0, 24), (28, 30)] (.ok (.xnop (fld w 24 4)))
  | 0x01 => z [(20, 2), (0, 16)] (lim2 22 2 (flagsOk w) <| lim2 16 4 (bufOk w) <| .ok (.xcopy xb))
  | 0x02 => z [(20, 2), (0, 16), (23, 1)] (lim2 16 4 (bufOk w) <| .ok (.xgath xb))
  | 0x03 => z [(20, 2), (0, 20), (22, 1)] (.ok (.xscat x))
  | 0x04 => z [(20, 2), (0, 16), (34, 6)] (lim2 22 2 (flagsOk w) <| lim2 16 4 (bufOk w) <| .ok (.xfill xb))
  | 0x05 => z [(20, 2), (0, 14), (22, 1)] (.ok (.xput x (fld w 14 6)))
  | 0x06 => z [(0, 24), (34, 6), (46, 12)] (.ok (.xtbl x))
  | 0x07 => z [(20, 2), (0, 6), (22, 1)] (.ok (.xcoll x (fld w 14 6) (fld w 8 6) (fld w 6 2)))
  | 0x08 => z [(0, 15), (20, 4), (34, 6), (46, 6)] (lim3 15 2 (fld w 16 1 == 0) <| .ok (.xroute x (fld w 17 3) (fld w 15 2)))
  | 0x09 => z [(1, 23), (34, 18)] (.ok (.xrsnap x (fld w 0 1)))
  | 0x0A => z [(0, 14), (20, 4), (46, 12)] (.ok (.xexpa x (fld w 14 6)))
  | 0x0B => z [(0, 14), (20, 4), (34, 24)] (.ok (.xexpr x (fld w 14 6)))
  | 0x0C => z [(8, 16), (34, 6), (46, 12)] (lim3 0 8 (decide ((fld w 4 4).toNat + (fld w 0 4).toNat + 1 ≤ 16)) <| .ok (.xfmt x (fld w 4 4) (fld w 0 4)))
  | 0x0D => z [(20, 2), (2, 18), (22, 1), (34, 12)] (lim3 0 2 (fld w 0 2 != 3) <| .ok (.xrime x (fld w 0 2)))
  | _ => bad 4 1 w 58 6

/-- A decoded bundle: the instruction of each present issue slot, and the slots' bits (R163). -/
structure Bundle where
  c : Option Instr
  v : Option Instr
  m : Option Instr
  x : Option Instr
  deriving DecidableEq, Repr

/-- An absent issue slot is not decoded (R164). -/
def slotOf (present : Bool) (d : Except DecErr Instr) : Except DecErr (Option Instr) :=
  if present then d.map some else .ok none

/-- The 48 bits of the V issue slot, in a word. -/
def vBits (w : BundleWord) : BitVec 64 := (w.extractLsb' 72 48).zeroExtend 64

/-- Decoding of a bundle: header, then C, V, M, X (R163, R164, R407). -/
def decodeBundle (w : BundleWord) : Except DecErr Bundle :=
  if w.extractLsb' 4 4 ≠ 0 then .error ⟨0, 0, ((List.range 8).find? fun i => decide (4 ≤ i) && w.getLsbD i).getD 4⟩
  else if w.extractLsb' 248 8 ≠ 0 then
    .error ⟨0, 0, ((List.range 256).find? fun i => decide (248 ≤ i) && w.getLsbD i).getD 248⟩
  else
    match slotOf (w.getLsbD 0) (decodeC (w.extractLsb' 8 64)), slotOf (w.getLsbD 1) (decodeV (vBits w)),
      slotOf (w.getLsbD 2) (decodeM (w.extractLsb' 120 64)), slotOf (w.getLsbD 3) (decodeX (w.extractLsb' 184 64)) with
    | .error e, _, _, _ => .error e
    | .ok _, .error e, _, _ => .error e
    | .ok _, .ok _, .error e, _ => .error e
    | .ok _, .ok _, .ok _, .error e => .error e
    | .ok c, .ok v, .ok m, .ok x => .ok ⟨c, v, m, x⟩

/-! The encoder. -/

/-- The word of a control-slot instruction (R166 to R172). -/
def encodeC (i : Instr) : Option (BitVec 64) :=
  match i with
  | .nop => some 0
  | .add g d a b => some (encCR 0x01 d a b 0 g 0)
  | .sub g d a b => some (encCR 0x02 d a b 0 g 0)
  | .mul g d a b => some (encCR 0x03 d a b 0 g 0)
  | .mulh g d a b => some (encCR 0x04 d a b 0 g 0)
  | .mulhn g d a b => some (encCR 0x05 d a b 0 g 0)
  | .div g d a b => some (encCR 0x06 d a b 0 g 0)
  | .divn g d a b => some (encCR 0x07 d a b 0 g 0)
  | .rem g d a b => some (encCR 0x08 d a b 0 g 0)
  | .remn g d a b => some (encCR 0x09 d a b 0 g 0)
  | .and_ g d a b => some (encCR 0x0A d a b 0 g 0)
  | .or_ g d a b => some (encCR 0x0B d a b 0 g 0)
  | .xor g d a b => some (encCR 0x0C d a b 0 g 0)
  | .andn g d a b => some (encCR 0x0D d a b 0 g 0)
  | .shl g d a b => some (encCR 0x0E d a b 0 g 0)
  | .shr g d a b => some (encCR 0x0F d a b 0 g 0)
  | .sra g d a b => some (encCR 0x10 d a b 0 g 0)
  | .rol g d a b => some (encCR 0x11 d a b 0 g 0)
  | .min_ g d a b => some (encCR 0x12 d a b 0 g 0)
  | .max_ g d a b => some (encCR 0x13 d a b 0 g 0)
  | .minn g d a b => some (encCR 0x14 d a b 0 g 0)
  | .maxn g d a b => some (encCR 0x15 d a b 0 g 0)
  | .clz g d a => some (encCR 0x16 d a 0 0 g 0)
  | .popc g d a => some (encCR 0x17 d a 0 0 g 0)
  | .sext g d a n => some (encCR 0x18 d a 0 0 g ((0 : BitVec 2) ++ n))
  | .zext g d a n => some (encCR 0x19 d a 0 0 g ((0 : BitVec 2) ++ n))
  | .bfx g d a b len => some (encCR 0x1A d a b 0 g ((0 : BitVec 1) ++ len))
  | .bfi g d a b c len => some (encCR 0x1B d a b c g ((0 : BitVec 1) ++ len))
  | .sel g d a b cond => some (encCR 0x1C d a b 0 g ((0 : BitVec 4) ++ cond))
  | .cmp g d a b cc => some (encCR 0x1D ((0 : BitVec 3) ++ d) a b 0 g ((0 : BitVec 5) ++ cc))
  | .plog g d a b t => some (encCR 0x1E ((0 : BitVec 3) ++ d) ((0 : BitVec 3) ++ a) ((0 : BitVec 3) ++ b) 0 g ((0 : BitVec 4) ++ t))
  | .lea g d a b sh => some (encCR 0x1F d a b 0 g ((0 : BitVec 5) ++ sh))
  | .addi g d a imm => some (encCI 0x20 d a g imm 0)
  | .andi g d a imm => some (encCI 0x21 d a g imm 0)
  | .ori g d a imm => some (encCI 0x22 d a g imm 0)
  | .xori g d a imm => some (encCI 0x23 d a g imm 0)
  | .shli g d a sh => some (encCI 0x24 d a g ((0 : BitVec 28) ++ sh) 0)
  | .shri g d a sh => some (encCI 0x25 d a g ((0 : BitVec 28) ++ sh) 0)
  | .srai g d a sh => some (encCI 0x26 d a g ((0 : BitVec 28) ++ sh) 0)
  | .li g d imm => some (encCI 0x27 d 0 g imm 0)
  | .lih g d a imm => some (encCI 0x28 d a g ((0 : BitVec 4) ++ imm) 0)
  | .muli g d a imm => some (encCI 0x29 d a g imm 0)
  | .addpc g d imm => some (encCI 0x2A d 0 g imm 0)
  | .cmpi g d a imm cc => some (encCI 0x2B ((0 : BitVec 3) ++ d) a g imm ((0 : BitVec 3) ++ cc))
  | .br g off => some (encCB 0x40 g 0 0 0 0 off)
  | .brp g cond off => some (encCB 0x41 g 0 0 0 ((0 : BitVec 2) ++ cond) off)
  | .brz g a off => some (encCB 0x42 g 0 a 0 0 off)
  | .brnz g a off => some (encCB 0x43 g 0 a 0 0 off)
  | .brr g a off => some (encCB 0x44 g 0 a 0 0 off)
  | .call g off => some (encCB 0x45 g 0 0 0 0 off)
  | .callr g a => some (encCB 0x46 g 0 a 0 0 0)
  | .ret g => some (encCB 0x47 g 0 0 0 0 0)
  | .loop g lc a off => some (encCB 0x48 g lc a 0 0 off)
  | .loopi g lc n off =>
    some (encCB 0x49 g lc (n.extractLsb' 12 6) (n.extractLsb' 6 6) (n.extractLsb' 0 6) off)
  | .lbrk g lc off => some (encCB 0x4A g lc 0 0 0 off)
  | .ld g d base size space off => some (encCM 0x60 d base g size ((0 : BitVec 1) ++ space) off)
  | .st g v base size space off => some (encCM 0x61 v base g size ((0 : BitVec 1) ++ space) off)
  | .ldp g d base space off => some (encCM 0x62 d base g 7 ((0 : BitVec 1) ++ space) off)
  | .stp g v base space off => some (encCM 0x63 v base g 7 ((0 : BitVec 1) ++ space) off)
  | .amo g d addr b k op w => some (encCA 0x80 d addr b 0 g k op 0 w)
  | .cas g d addr b c w => some (encCA 0x81 d addr b c g 0 0 0 w)
  | .casc g d addr b c k w => some (encCA 0x82 d addr b c g k 0 0 w)
  | .amoct g d addr b c k op cc w => some (encCA 0x83 d addr b c g k op cc w)
  | .fred g addr b k op fmt => some (encCA 0x84 0 addr b 0 g k op fmt 0)
  | .tspawn g a => some (encCR 0xA0 0 a 0 0 g 0)
  | .tdec g a b => some (encCR 0xA1 0 a b 0 g 0)
  | .tarm g a b => some (encCR 0xA2 0 a b 0 g 0)
  | .tdone g a => some (encCR 0xA3 0 a 0 0 g 0)
  | .freeze g a planes => some (encCS 0xA4 0 a g (planes ++ (0 : BitVec 4)) 0)
  | .fence g => some (encCR 0xA5 0 0 0 0 g 0)
  | .xfence g before after scope => some (encCS 0xA6 0 0 g 0 ((0 : BitVec 9) ++ scope ++ (0 : BitVec 2) ++ after ++ (0 : BitVec 2) ++ before))
  | .gsync g => some (encCR 0xA7 0 0 0 0 g 0)
  | .tswap g n => some (encCS 0xA8 0 0 g 0 ((0 : BitVec 22) ++ n))
  | .publish g a b => some (encCR 0xA9 0 a b 0 g 0)
  | .csrr g d csr => some (encCS 0xC0 d 0 g csr 0)
  | .csrw g d a csr => some (encCS 0xC1 d a g csr 0)
  | .csrs g d a csr => some (encCS 0xC2 d a g csr 0)
  | .csrc g d a csr => some (encCS 0xC3 d a g csr 0)
  | .trap g a code => some (encCS 0xC4 0 a g 0 code)
  | .icinv g scope => some (encCS 0xC5 0 0 g 0 ((0 : BitVec 26) ++ scope))
  | .srfence g => some (encCS 0xC6 0 0 g 0 0)
  | .eread g d sel => some (encCS 0xC7 d 0 g sel 0)
  | .tokx g d a => some (encCS 0xC8 d a g 0 0)
  | _ => none

/-- The word of a matrix-slot command (R177, R251 to R266). -/
def encodeM (i : Instr) : Option (BitVec 64) :=
  match i with
  | .mnop g => some ((0x00 : BitVec 6) ++ (0 : BitVec 44) ++ g ++ (0 : BitVec 10))
  | .mlease g n => some ((0x01 : BitVec 6) ++ (0 : BitVec 3) ++ n ++ (0 : BitVec 37) ++ g ++ (0 : BitVec 10))
  | .mrels g => some ((0x02 : BitVec 6) ++ (0 : BitVec 44) ++ g ++ (0 : BitVec 10))
  | .mclaim g d n => some ((0x03 : BitVec 6) ++ (0 : BitVec 3) ++ n ++ d ++ (0 : BitVec 26) ++ g ++ (0 : BitVec 10))
  | .mfree g => some ((0x04 : BitVec 6) ++ (0 : BitVec 44) ++ g ++ (0 : BitVec 10))
  | .mlds f => some ((0x05 : BitVec 6) ++ (0 : BitVec 3) ++ f.slot ++ f.sa ++ f.sb ++ f.sc ++ f.fmt ++ f.pitch ++ f.krows ++ f.fsel ++ f.foff ++ f.g ++ (0 : BitVec 10))
  | .msts g slot sa sb sc pitch => some ((0x06 : BitVec 6) ++ (0 : BitVec 3) ++ slot ++ sa ++ sb ++ sc ++ (0 : BitVec 4) ++ pitch ++ (0 : BitVec 5) ++ g ++ (0 : BitVec 10))
  | .mtran g dst src => some ((0x07 : BitVec 6) ++ (0 : BitVec 3) ++ dst ++ src ++ (0 : BitVec 23) ++ g ++ (0 : BitVec 10))
  | .mma f => some ((0x08 : BitVec 6) ++ f.plane ++ f.a ++ f.b ++ f.chunks ++ f.pat ++ f.fsel ++ f.foff ++ f.acc ++ (0 : BitVec 3) ++ f.g ++ (0 : BitVec 10))
  | .mmah f => some ((0x09 : BitVec 6) ++ f.plane ++ f.ar ++ f.ac ++ f.br ++ f.bc ++ f.chunks ++ f.pat ++ f.fsel ++ f.foff ++ f.g ++ (0 : BitVec 2) ++ f.acc ++ (0 : BitVec 7))
  | .mzero g plane => some ((0x0A : BitVec 6) ++ plane ++ (0 : BitVec 41) ++ g ++ (0 : BitVec 10))
  | .mdrain f => some ((0x0B : BitVec 6) ++ f.plane ++ f.sa ++ f.sb ++ f.sc ++ f.reg.tr ++ f.reg.tc ++ f.reg.rows ++ f.reg.cols ++ f.pitch ++ f.fsel ++ f.foff ++ f.g ++ (0 : BitVec 10))
  | .mdrainh f => some ((0x0C : BitVec 6) ++ f.plane ++ f.sr ++ f.cw ++ f.k ++ f.reg.tr ++ f.reg.tc ++ f.reg.rows ++ f.reg.cols ++ (0 : BitVec 7) ++ f.fsel ++ f.foff ++ f.g ++ (0 : BitVec 10))
  | .msamp f => some ((0x0D : BitVec 6) ++ f.plane ++ f.sig ++ f.chunks ++ f.seed ++ (0 : BitVec 18) ++ f.fsel ++ f.foff ++ f.g ++ (0 : BitVec 10))
  | .maccld f => some ((0x0E : BitVec 6) ++ f.plane ++ f.sa ++ f.sb ++ (0 : BitVec 6) ++ f.reg.tr ++ f.reg.tc ++ f.reg.rows ++ f.reg.cols ++ f.pitch ++ (0 : BitVec 4) ++ f.g ++ (0 : BitVec 10))
  | _ => none

/-- The layout of an X command (R179). -/
def encX (op : BitVec 6) (f : XF) (spec : BitVec 20) : BitVec 64 :=
  op ++ f.dr ++ f.dc ++ f.sr ++ f.sc ++ f.k ++ f.g ++ f.cout ++ f.bufv ++ (0 : BitVec 2) ++ spec

/-- The word of a copy-slot command (R179, R269 to R292). -/
def encodeX (i : Instr) : Option (BitVec 64) :=
  match i with
  | .xnop g => some (encX 0x00 ⟨g, 0, 0, 0, 0, 0, 0, 0, 0⟩ 0)
  | .xcopy f => some (encX 0x01 f (f.buf ++ (0 : BitVec 16)))
  | .xgath f => some (encX 0x02 f (f.buf ++ (0 : BitVec 16)))
  | .xfill f => some (encX 0x04 f (f.buf ++ (0 : BitVec 16)))
  | .xscat f => some (encX 0x03 f 0)
  | .xput f into => some (encX 0x05 f (into ++ (0 : BitVec 14)))
  | .xtbl f => some (encX 0x06 f 0)
  | .xcoll f peer rel op => some (encX 0x07 f (peer ++ rel ++ op ++ (0 : BitVec 6)))
  | .xroute f topk mode => some (encX 0x08 f (topk ++ mode ++ (0 : BitVec 15)))
  | .xrsnap f clear => some (encX 0x09 f ((0 : BitVec 19) ++ clear))
  | .xexpa f x => some (encX 0x0A f (x ++ (0 : BitVec 14)))
  | .xexpr f x => some (encX 0x0B f (x ++ (0 : BitVec 14)))
  | .xfmt f first count => some (encX 0x0C f ((0 : BitVec 12) ++ first ++ count))
  | .xrime f mode => some (encX 0x0D f ((0 : BitVec 18) ++ mode))
  | _ => none

/-- The word of a V issue slot instruction (R173). -/
def encodeVix (i : Instr) : Option (BitVec 48) :=
  match i with
  | .vix g index bs fsel foff bi => some (encodeV g index bs fsel foff bi)
  | _ => none

/-- The 128 bits of a table operation (R174, R176). -/
def encodeTable (i : Instr) : Option Quad :=
  (Machine.tableOp i).map fun p => encodeEntry (BitVec.ofNat 10 p.1) p.2

/-- A bundle of the given slots: header bits 3:0 mark them present, the others are zero (R163). -/
def bundleWord (c : Option (BitVec 64)) (v : Option (BitVec 48)) (m x : Option (BitVec 64)) : BundleWord :=
  (0 : BitVec 8) ++ x.getD 0 ++ m.getD 0 ++ v.getD 0 ++ c.getD 0 ++ (0 : BitVec 4)
    ++ BitVec.ofBool x.isSome ++ BitVec.ofBool m.isSome ++ BitVec.ofBool v.isSome ++ BitVec.ofBool c.isSome

/-- The bundle of one instruction in the issue slot it belongs to; none for table operations and events, which no issue
slot holds. -/
def encode (i : Instr) : Option BundleWord :=
  match encodeC i, encodeVix i, encodeM i, encodeX i with
  | some w, _, _, _ => some (bundleWord (some w) none none none)
  | none, some w, _, _ => some (bundleWord none (some w) none none)
  | none, none, some w, _ => some (bundleWord none none (some w) none)
  | none, none, none, some w => some (bundleWord none none none (some w))
  | none, none, none, none => none

/-- The instruction of a bundle that holds exactly one (R163). -/
def Bundle.single (b : Bundle) : Option Instr :=
  match b.c, b.v, b.m, b.x with
  | some i, none, none, none => some i
  | none, some i, none, none => some i
  | none, none, some i, none => some i
  | none, none, none, some i => some i
  | _, _, _, _ => none

/-- The instruction read from a bundle whose lowest `nbits` bits are `w` and whose other bits are zero: the one that its
header marks present. -/
def decodeTableWord (nbits w : Nat) : Option Instr :=
  match decodeBundle (BitVec.ofNat 256 (w % 2 ^ nbits)) with
  | .ok b => b.single
  | .error _ => none

end Sys2Proof
end

