-- ==== Sys2Proof/Machine/Flags.lean ====
section
/-! DEFINITION. Conditions: the machine has predicates and guards and no flags; a comparison's outcome is one condition code of
R168. Beside them, signed readings of words of any width. -/
namespace Sys2Proof.Machine

/-- The signed reading of the low w bits of a number. -/
def signedOf (w n : Nat) : Int := if n % 2 ^ w < 2 ^ (w - 1) then (n % 2 ^ w : Nat) else (n % 2 ^ w : Nat) - (2 ^ w : Nat)

/-- A condition code of R168 over two numbers of w bits: eq, ne, lt, le signed, then ltn, len unsigned. -/
def condHolds (cc w x y : Nat) : Bool :=
  match cc with
  | 0 => x % 2 ^ w == y % 2 ^ w
  | 1 => x % 2 ^ w != y % 2 ^ w
  | 2 => decide (signedOf w x < signedOf w y)
  | 3 => decide (signedOf w x ≤ signedOf w y)
  | 4 => decide (x % 2 ^ w < y % 2 ^ w)
  | _ => decide (x % 2 ^ w ≤ y % 2 ^ w)

/-- The truth-table value of PLOG (R201). -/
def plogValue (t : BitVec 4) (a b : Bool) : Bool := t.getLsbD (2 * a.toNat + b.toNat)

end Sys2Proof.Machine
end

