-- ==== Sys2Proof/Machine/Trans.lean ====
section
/-! DEFINITION. Translation through the region map (04, R80 to R86) and the ranges of the on-chip spaces (R72 to R77). -/
namespace Sys2Proof.Machine

/-- The kind of an access (R82). -/
inductive Acc where
  | read | write | atomic | fetch
  deriving DecidableEq, Repr

/-- A bit of a region entry. -/
def entBit (e : Quad) (n : Nat) : Bool := e.getLsbD n

/-- A field of a region entry. -/
def entFld (e : Quad) (lo len : Nat) : Nat := e.toNat / 2 ^ lo % 2 ^ len

/-- The permission that an access needs (R82): RD, WR, both or EX. -/
def permits (e : Quad) (a : Acc) : Bool :=
  match a with
  | .read => entBit e 68
  | .write => entBit e 69
  | .atomic => entBit e 68 && entBit e 69
  | .fetch => entBit e 70

/-- The capacity of a target class in bytes (R17, R78), grade A or B. -/
def classCapacity (grade : Word) (cls : Nat) : Nat :=
  match cls with
  | 0 => 2304 * 10 ^ 9
  | 1 => 288 * 10 ^ 9
  | 2 => if grade.getLsbD 0 then 3 * 2 ^ 40 else 6 * 2 ^ 40
  | _ => 2 ^ 64

/-- The map of a context. -/
def State.map (s : State) (ctx : Nat) : CtxMap := (s.ctx ctx).map

/-- The region entry of a virtual address; zero where none is loaded. -/
def State.region (s : State) (ctx : Nat) (va : Word) : Quad := (s.map ctx).regions.get (va.toNat / 2 ^ 32 % 4096) 0

/-- Where an address of a present region lies (R82), or the reason of R381. An address past the capacity of its target, which no map that
firmware accepts has (R85), counts as beyond LIMIT (DEDUCED, log 17). -/
def State.targetOf (s : State) (ctx : Nat) (va : Word) : Except Nat Target :=
  let v := va.toNat
  let e := s.region ctx va
  let go (t : Nat) : Except Nat Target :=
    if t < classCapacity s.grade (entFld e 73 4) then .ok ⟨entFld e 73 4, entFld e 77 3, t, e⟩ else .error 3
  if entFld e 71 2 = 1 then
    if entFld e 84 12 ≤ v / 2 ^ 21 % 2048 then .error 3 else go ((entFld e 0 64 + v % 2 ^ 32) % 2 ^ 64)
  else
    let pe := (s.map ctx).pages.get (entFld e 0 3 * 2048 + v / 2 ^ 21 % 2048) 0
    if pe.getLsbD 0 then go (pe.toNat / 2 ^ 21 * 2 ^ 21 + v % 2 ^ 21) else .error 4

/-- Translation of one address (R82), or the reason of R381. -/
def State.translate (s : State) (ctx : Nat) (va : Word) (a : Acc) : Except Nat Target :=
  let e := s.region ctx va
  if va.toNat / 2 ^ 44 ≠ 0 then .error 0
  else if entFld e 71 2 = 0 then .error 1
  else if !permits e a then .error 2
  else s.targetOf ctx va

/-- Where an address lies, whatever accesses its region permits: the memory's own view of a carried tensor (R84). -/
def State.locate (s : State) (ctx : Nat) (va : Word) : Option Target :=
  if va.toNat / 2 ^ 44 ≠ 0 ∨ entFld (s.region ctx va) 71 2 = 0 then none else (s.targetOf ctx va).toOption

/-- Translation of n addresses from one on, or the reason and the address of the first that fails (R380). -/
def State.translateN (s : State) (ctx : Nat) (va : Word) (n : Nat) (a : Acc) : Except (Nat × Word) (List Target) :=
  match n with
  | 0 => .ok []
  | n + 1 =>
    match s.translate ctx va a, s.translateN ctx (va + 1) n a with
    | .error r, _ => .error (r, va)
    | .ok _, .error e => .error e
    | .ok t, .ok ts => .ok (t :: ts)

/-- The region is memory-side (R83). -/
def Target.ms (t : Target) : Bool := entBit t.ent 67 && decide (t.cls < 2)

/-- The region permits system-wide atomics (R83). -/
def Target.sw (t : Target) : Bool := entBit t.ent 66 && t.cls == 3

/-- The region holds carried-rime tensors (R83). -/
def Target.rc (t : Target) : Bool := entBit t.ent 65 && decide (t.cls < 3)

/-- The spaces of R72 as a scalar access, a table entry or a shape record names them. -/
inductive Space where
  | g | c | k | d | p | s
  deriving DecidableEq, Repr

/-- The space of a CM code and of a shape record's SPACE byte (R87, R168). -/
def cmSpace (n : Nat) : Space := match n with | 0 => .g | 1 => .c | 2 => .k | _ => .d

/-- The CM code of a space (R168). -/
def Space.code (sp : Space) : Nat := match sp with | .c => 1 | .k => 2 | .d => 3 | _ => 0

/-- The size of the D window of a context in bytes (R75). -/
def State.dSize (s : State) (ctx : Nat) : Nat := (s.map ctx).dwsize * 2 ^ 20

/-- The key of an offset of the C, K or D space of a core in a context; none outside its range (R72, R75). -/
def State.chipKey (s : State) (core ctx : Nat) (sp : Space) (off : Nat) : Option Nat :=
  match sp with
  | .c => if off < 2 ^ 22 then some (cKey core off) else none
  | .k => if off < 2 ^ 22 then some (kKey (clusterOf core) off) else none
  | .d => if off < s.dSize ctx then some (dKey (dieOf core) ((s.map ctx).dwbase * 2 ^ 20 + off)) else none
  | _ => none

end Sys2Proof.Machine
end

