-- ==== Sys2Proof/Machine/Report.lean ====
section
/-! DEFINITION. Error records, error banks and rings (18, R355 to R366). -/
namespace Sys2Proof.Machine

/-- The reporting unit and its locator bytes (R356). -/
structure Loc where
  unit : Nat
  die : Nat
  cluster : Nat
  core : Nat
  group : Nat
  deriving DecidableEq, Repr

/-- A unit of a core: cluster and core bytes name it, the group byte is given (R356). -/
def locCore (unit c group : Nat) : Loc := ⟨unit, dieOf c, clusterOf c % 16, memberOf c, group⟩

/-- A unit of a cluster: units 2 and 3 (R356). -/
def locCluster (unit k group : Nat) : Loc := ⟨unit, k / 16, k % 16, 0xFF, group⟩

/-- The array of a core's cluster as a reporting unit (R356). -/
def arrayLoc (c : Nat) : Loc := locCluster 2 (clusterOf c) 0xFF

/-- A unit of a die without locator bytes (R356). -/
def locDie (unit die : Nat) : Loc := ⟨unit, die, 0xFF, 0xFF, 0xFF⟩

/-- A port of the module, by die × 4 + port, as a reporting unit with a lane (R356). -/
def portLoc (port lane : Nat) : Loc := ⟨17, port / 4 % 8, port % 4, lane, 0xFF⟩

/-- The home slice of a key (R356). -/
def locSlice (key : Nat) : Loc := ⟨13, keyDie key, keyStack key % 3, keySlice key, keyChannel key⟩

/-- A record before it is posted: code, severity, unit, detail bytes, address, and whose operation it was. -/
def mkRec (code sev : Nat) (l : Loc) (detail : List Byte) (addr : Option Word) (o : Option Org) : ErrRec where
  code := code
  sev := sev
  unit := l.unit
  die := l.die
  cluster := l.cluster
  core := l.core
  group := l.group
  tick := 0
  task := o.bind (·.task)
  addr := addr
  bundle := o.bind (·.bundle)
  detail := detail
  ctx := o.map (·.ctx)
  phys := false
  bankovf := false
  seq := 0
  rept := 0

/-- DETAIL: sixteen bytes, byte 15 naming the context where there is one (R355). -/
def ErrRec.detail16 (r : ErrRec) : List Byte :=
  let d := (r.detail ++ List.replicate 16 0).take 16
  match r.ctx with
  | some c => d.set 15 (BitVec.ofNat 8 c)
  | none => d

/-- FLAGS of a record (R355). -/
def ErrRec.flags (r : ErrRec) : Nat :=
  r.task.isSome.toNat + 2 * r.addr.isSome.toNat + 4 * r.bundle.isSome.toNat + 8 * r.phys.toNat + 16 * r.bankovf.toNat
    + 32 * r.ctx.isSome.toNat

/-- The 64 bytes of a record (R355). -/
def ErrRec.bytes (r : ErrRec) : List Byte :=
  leBytes 2 r.code ++ leBytes 1 r.sev ++ leBytes 1 r.unit ++ leBytes 1 r.die ++ leBytes 1 r.cluster ++ leBytes 1 r.core
    ++ leBytes 1 r.group ++ leBytes 8 r.tick ++ leBytes 8 (r.task.getD 0).toNat ++ leBytes 8 (r.addr.getD 0).toNat
    ++ leBytes 8 (r.bundle.getD 0).toNat ++ r.detail16 ++ leBytes 4 r.seq ++ leBytes 2 r.rept ++ leBytes 2 r.flags

/-- The bank of a unit: which locator bytes tell units apart, a lane, a pseudo-channel, a slot and a zone being parts of one unit (R356, R362). -/
def bankKey (l : Loc) : Nat :=
  let core := if l.unit = 2 ∨ l.unit = 3 ∨ l.unit = 14 ∨ l.unit = 17 ∨ l.unit = 18 then 0xFF else l.core
  let cluster := if l.unit = 18 then 0xFF else l.cluster
  ((l.unit * 16 + l.die) * 256 + cluster) * 256 + core

/-- The unit whose bank a record reaches. -/
def ErrRec.bank (r : ErrRec) : Nat := bankKey ⟨r.unit, r.die, r.cluster, r.core, r.group⟩

/-- An event against a bank (R363): the bank after it, and whether the event was not kept. -/
def ErrBank.take (b : ErrBank) (r : ErrRec) : ErrBank × Bool :=
  if r.sev = 0 then
    let b := { b with cecnt := min (b.cecnt + 1) 0xFFFFFFFF }
    if b.valid && b.ue then (b, true) else ({ b with valid := true, kept := some r }, false)
  else if b.valid && b.ue then ({ b with ovf := true, ueovf := min (b.ueovf + 1) 0xFFFF }, true)
  else ({ b with valid := true, ue := true, kept := some r }, false)

/-- A vector of the host interrupts is signalled (R331, R366). -/
def State.signal (s : State) (v : Nat) : State := s.modHub fun h => { h with msix := h.msix ||| (1#18 <<< v) }

/-- A record in the machine ring in host memory; the vector is signalled for it, or for its loss (R331, R360, R366). -/
def State.ringPut (s : State) (r : ErrRec) : State :=
  let m := s.hub.mring
  if (m.head % 2 ^ 32 + 2 ^ 32 - s.num (hostKey (m.addr + 8)) 8 % 2 ^ 32) % 2 ^ 32 = m.size then
    let m := { m with ovf := true, lost := min (m.lost + 1) 0xFFFFFFFF }
    ((s.modHub fun h => { h with mring := m }).put (hostKey (m.addr + 16)) (leBytes 8 (2 ^ 63 + m.lost))).signal 0
  else
    let s := s.put (hostKey (m.addr + 64 + 64 * (m.head % m.size))) r.bytes
    let m := { m with head := (m.head + 1) % 2 ^ 64 }
    ((s.modHub fun h => { h with mring := m }).put (hostKey m.addr) (leBytes 8 m.head)).signal 0

/-- A record to the machine ring, or to the controller's store before the ring is configured (R360). -/
def State.postMachine (s : State) (r : ErrRec) : State :=
  let m := s.hub.mring
  let r := { r with seq := m.seqctr }
  let m := { m with seqctr := (m.seqctr + 1) % 2 ^ 32 }
  if m.configured then (s.modHub fun h => { h with mring := m }).ringPut r
  else
    let st := m.store ++ [r]
    if st.length ≤ 4096 then s.modHub fun h => { h with mring := { m with store := st } }
    else (s.modHub fun h => { h with mring := { m with store := st.drop 1, lost := min (m.lost + 1) 0xFFFFFFFF, ovf := true } }).signal 0

/-- The state with a context's ring changed. -/
def State.modRing (s : State) (c : Nat) (f : Ring → Ring) : State := s.modCtx c fun x => { x with ring := f x.ring }

/-- An event reaches its unit's bank, and the limit of one corrected record per code and tick: the record as its ring takes it, if it
does (R361 to R363). -/
def State.bankPost (s : State) (r : ErrRec) : Option ErrRec × State :=
  let (b, ovf) := (s.hub.banks.get r.bank ErrBank.empty).take { r with tick := s.frame }
  let mk := r.bank * 2 ^ 16 + r.code
  let (t, n) := s.hub.marks.get mk (2 ^ 64, 0)
  let s := s.modHub fun h => { h with banks := h.banks.set r.bank b }
  if r.sev = 0 ∧ t = s.frame then (none, s.modHub fun h => { h with marks := h.marks.set mk (t, min (n + 1) 0xFFFF) })
  else (some { r with tick := s.frame, bankovf := ovf, rept := n }, s.modHub fun h => { h with marks := h.marks.set mk (s.frame, 0) })

/-- An unwritable ring stops: the controller says so, and the ring's records go to the machine ring (R359). -/
def State.badRing (s : State) (c : Nat) (r : ErrRec) : State :=
  let e := { mkRec 0x50 0 ⟨20, 8, 0xFF, 0xFF, 0xFF⟩ (leBytes 2 r.code) none none with ctx := some c }
  match (s.modRing c fun g => { g with bad := true }).bankPost e with
  | (some e, s) => (s.postMachine e).postMachine r
  | (none, s) => s.postMachine r

/-- A record to a context's ring (R359). -/
def State.postContext (s : State) (c : Nat) (r : ErrRec) : State :=
  let g := (s.ctx c).ring
  let r := { r with seq := g.seqctr }
  let s := s.modRing c fun g => { g with seqctr := (g.seqctr + 1) % 2 ^ 32 }
  if g.size = 0 ∨ g.bad ∨ (s.ctx c).kill = .complete then s.postMachine r
  else if (g.head + 2 ^ 32 - g.tail) % 2 ^ 32 = g.size then
    (s.modRing c fun g => { g with ovf := true, lost := min (g.lost + 1) 0xFFFF }).signal (2 + c)
  else
    match s.translate c (BitVec.ofNat 64 (g.base * 64 + g.head % g.size * 64)) .write with
    | .ok t =>
      if t.cls < 3 then
        ((s.putE t.key r.bytes).modRing c fun g => { g with head := (g.head + 1) % 2 ^ 32 }).signal (2 + c)
      else s.badRing c r
    | .error _ => s.badRing c r

/-- A record to the rings its severity and context call for (R361). -/
def State.postRings (s : State) (r : ErrRec) : State :=
  match r.ctx with
  | none => s.postMachine r
  | some c =>
    if r.sev = 4 then s.postMachine r
    else if r.sev = 3 then (s.postContext c r).postMachine r
    else s.postContext c r

/-- Posting of a record: the unit's bank, then the rate limit of one corrected record per code and tick, then the rings
(R361 to R363). -/
def State.post (s : State) (r : ErrRec) : State :=
  match s.bankPost r with
  | (some r, s) => s.postRings r
  | (none, s) => s

/-- The order in which a bank takes events of one cycle (R363): uncorrectable ones first; then by lower ADDR; those without one by lower CODE and
locator bytes. -/
def ErrRec.before (a b : ErrRec) : Bool :=
  if (a.sev = 0) ≠ (b.sev = 0) then a.sev ≠ 0
  else match a.addr, b.addr with
    | some x, some y => decide (x.toNat < y.toNat)
    | some _, none => true
    | none, some _ => false
    | none, none =>
      let place (r : ErrRec) : Nat := ((r.code * 256 + r.cluster) * 256 + r.core) * 256 + r.group
      decide (place a < place b)

/-- An event put before those that come after it. -/
def insertEvent (r : ErrRec) (l : List ErrRec) : List ErrRec :=
  match l with
  | [] => [r]
  | x :: l => if x.before r then x :: insertEvent r l else r :: x :: l

/-- Events of one unit on one cycle are posted in the order in which its bank takes them (R363). -/
def State.postAll (s : State) (l : List ErrRec) : State := (l.foldr insertEvent []).foldl State.post s

end Sys2Proof.Machine
end

