-- ==== Sys2Proof/Machine/Ops.lean ====
section
/-! DEFINITION. The shared operations of tasks: marks of exposure, continuation words, cancelling a task, rolling a phase
back, starting a kill, and taking a fault (19; 22, R405). -/
namespace Sys2Proof.Machine

/-! Exposure of granules (R369). Ids are lines of memory keys, or numbers above 2 ^ 90 for slots, planes and entries. -/

/-- The granule id of an operand slot. -/
def slotGranule (cluster slot : Nat) : Nat := 2 ^ 90 + cluster * 512 + slot

/-- The granule id of a plane of a core. -/
def planeGranule (plane : Nat) : Nat := 2 ^ 91 + plane

/-- The granule id of a format table entry. -/
def fmtGranule (n : Nat) : Nat := 2 ^ 92 + n

/-- The granules of bytes at a key that are tracked: lines of the core scratchpad and of lane-private memory, those that the
recorded refetch set writes left out. -/
def linesAt (p : Phase) (key n : Nat) : List Nat :=
  if n = 0 then []
  else if p.exempt.any fun x => decide (x.1 ≤ key ∧ key + n ≤ x.1 + x.2) then []
  else (List.range ((key + n - 1) / 128 - key / 128 + 1)).map (key / 128 + ·)

/-- Reads of granules noted. -/
def Phase.noteReads (p : Phase) (ids : List Nat) : Phase :=
  { p with reads := ids.foldl (fun l i => if l.contains i || p.writes.contains i then l else i :: l) p.reads }

/-- Writes of granules noted: a write to an exposed granule makes the phase irrevocable. -/
def Phase.noteWrites (p : Phase) (ids : List Nat) : Phase :=
  { p with
    irrevocable := p.irrevocable || ids.any p.reads.contains
    writes := ids.foldl (fun l i => if l.contains i then l else i :: l) p.writes }

/-- The state with a core's phase changed. -/
def State.modPhase (s : State) (c : Nat) (f : Phase → Phase) : State := s.modCore c fun k => { k with phase := f k.phase }

/-- Reads of memory by a core's phase noted. -/
def State.noteRd (s : State) (c key n : Nat) : State := s.modPhase c fun p => p.noteReads (linesAt p key n)

/-- Writes of memory by a core's phase noted. -/
def State.noteWr (s : State) (c key n : Nat) : State := s.modPhase c fun p => p.noteWrites (linesAt p key n)

/-- The phase of a core cannot be run again (R369). -/
def State.irrevocable (s : State) (c : Nat) : State := s.modPhase c fun p => { p with irrevocable := true }

/-! Whose operation. -/

/-- The issuing task and bundle. -/
def Issue.org (i : Issue) : Org :=
  ⟨i.src.ctxid, some i.core, i.src.task.map (·.record), some i.a, (i.src.task.map (·.serial)).getD 0, i.src.issued⟩

/-- A core's task, for what happens outside a bundle. -/
def State.orgOf (s : State) (c : Nat) : Org :=
  let k := s.core c
  ⟨k.ctxid, some c, k.task.map (·.record), none, (k.task.map (·.serial)).getD 0, k.issued⟩

/-! Continuation words (R27). -/

/-- KIND of a word. -/
def contKind (w : Word) : Nat := w.toNat / 2 ^ 52 % 16

/-- ARGIX of a word. -/
def contArgix (w : Word) : Nat := w.toNat / 2 ^ 48 % 16

/-- AMOUNT of a word, 0 meaning 1. -/
def contAmount (w : Word) : Nat := if w.toNat / 2 ^ 56 = 0 then 1 else w.toNat / 2 ^ 56

/-- The record address of a word. -/
def contRecord (w : Word) : Word := w &&& 0x0000_FFFF_FFFF_FF80

/-- Why a word is refused (R408, code 0x0006): 0 reserved KIND, 1 reserved ARGIX, 2 bits 6:0 nonzero. KIND 0 has no effect
whatever its other bits hold. -/
def contBad (w : Word) : Option Nat :=
  if contKind w = 0 then none
  else if contKind w > 3 then some 0
  else if contKind w ≠ 1 ∧ contArgix w > 3 then some 1
  else if w.toNat % 128 ≠ 0 then some 2
  else none

/-! Task records (R23). -/

/-- The key of a task record's first byte, where its address translates to a memory-side region. -/
def State.recKey (s : State) (ctx : Nat) (va : Word) : Option Nat :=
  match s.translate ctx va .read with
  | .ok t => if t.ms then some t.key else none
  | .error _ => none

/-- Bytes written into a task record. -/
def State.recPut (s : State) (ctx : Nat) (va : Word) (off : Nat) (bs : List Byte) : State :=
  match s.recKey ctx va with
  | some k => s.put (k + off) bs
  | none => s

/-- A little-endian field of a task record. -/
def State.recNum (s : State) (ctx : Nat) (va : Word) (off n : Nat) : Nat :=
  match s.recKey ctx va with
  | some k => s.num (k + off) n
  | none => 0

/-- The flag byte 0x1B of a record with a bit set or cleared: 0 CANCEL, 1 RESUME, 2 WIDE, 3 SLIP. -/
def State.recFlag (s : State) (ctx : Nat) (va : Word) (bit : Nat) (v : Bool) : State :=
  let old := s.recNum ctx va 0x1B 1
  let cleared := old - old / 2 ^ bit % 2 * 2 ^ bit
  s.recPut ctx va 0x1B (leBytes 1 (cleared + v.toNat * 2 ^ bit))

/-- A successor word as it is sent: to its home slice, or the launch fault of a malformed word (R35, R390). -/
def State.sendSucc (s : State) (cancel : Bool) (o : Org) (w v : Word) : State :=
  if contKind w = 0 then s
  else if (contBad w).isSome then
    s.post (mkRec 0x12 2 (locDie 8 (dieOf (o.core.getD 0)))
      (leBytes 1 (if cancel then 6 else 5) ++ leBytes 1 3 ++ leBytes 4 0 ++ leBytes 8 w.toNat) (some (contRecord w))
      (some { o with bundle := none }))
  else if cancel then { s with cancels := s.cancels ++ [⟨.tdec w v, 6, o, none, (8, 0)⟩] }
  else { s with conts := s.conts ++ [⟨.tdec w v, 5, o, none, (8, 0)⟩] }

/-- SUCC0 to SUCC3 of a record (R23). -/
def State.recSuccs (s : State) (ctx : Nat) (va : Word) : List Word :=
  (List.range 4).map fun n => BitVec.ofNat 64 (s.recNum ctx va (0x60 + 8 * n) 8)

/-- Successor words sent in order (R35, R371). -/
def State.sendWords (s : State) (cancel : Bool) (o : Org) (ws : List Word) (v : Word) : State :=
  ws.foldl (fun (s : State) w => s.sendSucc cancel o w v) s

/-- SUCC0 to SUCC3 of a record in memory sent in order (R371, R372). -/
def State.sendSuccs (s : State) (cancel : Bool) (o : Org) (ctx : Nat) (va v : Word) : State :=
  s.sendWords cancel o (s.recSuccs ctx va) v

/-! What a core gives up. -/

/-- The lease or the request of a core is given up (R251). -/
def State.dropLease (s : State) (c : Nat) : State :=
  let s := s.modCluster (clusterOf c) fun k =>
    if k.lease.holder = some (memberOf c) then { k with lease := ⟨none, 0, 0, memberOf c⟩ } else k
  s.modCore c fun k => { k with leaseReq := 0, suspended := false, relsPend := false }

/-- The slots of an owner become free (R254). -/
def State.freeSlots (s : State) (k : Nat) (o : Owner) : State :=
  s.modCluster k fun x => { x with slots := x.slots.map fun p => if p.2.owner = o then (p.1, { p.2 with owner := .free }) else p }

/-- A fill under way (R59). -/
def XCmd.filling (x : XCmd) : Bool := match x.instr with | .xtbl _ => true | _ => false

/-- Every latch of a core empty; an empty latch keeps its lanes (R56). -/
def Core.emptied (k : Core) : Tbl Latch := k.latches.map fun (p : Nat × Latch) => (p.1, { p.2 with landed := false })

/-- The phase's uncommitted work discarded (R368, R371): gate, held sends, copy-outs not started, commands of the phase,
formation buffers, results not landed. A fill that is abandoned leaves the shadow bank failed (R376). -/
def Core.dropPhase (k : Core) : Core :=
  { k with
    latches := k.emptied
    gate := []
    held := []
    xq := k.xq.filter fun x => !x.cur
    slotq := k.slotq.filter fun m => !m.cur
    arrayq := k.arrayq.filter fun m => !m.cur
    early := none
    drains := k.drains.filter fun d => !d.cmd.cur
    vpend := []
    forming := []
    shadowSt := if k.xq.any fun x => x.cur && x.filling then .failed else k.shadowSt }

/-- The name under which a core reads records and lists from other modules at issue (R82). -/
def coreFar (c : Nat) : Nat := 3 * c + 2

/-- The number that stands for a core that no longer waits for the result of a TOKX. -/
def noCore : Nat := 513

/-- The keys lie in a line that a parked request waits for (R387). -/
def State.behindParked (s : State) (keys : List Nat) : Bool :=
  s.parked.any fun p => keys.any fun k => lineOf k == lineOf p.req.tgt.key

/-- The results of a core's loads, atomics and token transfers on their way, and what its bundle has still to do, are dropped; requests already sent are still
performed. -/
def State.dropResults (s : State) (c : Nat) : State :=
  { s with
    rets := s.rets.filter fun r => r.core != c
    lates := s.lates.filter fun l => l.iss.core != c
    far := s.far.filter fun p => p.1 / 3 % 512 != c
    remotes := s.remotes.filter fun r => (r.kind != 0 && r.kind != 3) || r.org.core != some c
    reqs := s.reqs.map fun r => if r.org.core = some c then { r with dest := .none } else r
    parked := s.parked.map fun r => if r.req.org.core = some c then { r with req := { r.req with dest := .none } } else r
    behind := s.behind.filter fun w => w.store || w.core != c
    hub := { s.hub with
      hubcsr := s.hub.hubcsr.filter fun a => a.core != c
      tokq := s.hub.tokq.filter (· != c)
      transfers := s.hub.transfers.map fun t =>
        match t.dest with | some (k, d) => if k = c then { t with dest := some (noCore, d) } else t | none => t } }

/-- What waits in a fault queue waits behind a request parked there (R387). -/
def State.trimWaiting (s : State) : State := { s with behind := s.behind.filter fun w => s.behindParked [w.key] }

/-- Requests of a core that no slice has performed are withdrawn (R388). -/
def State.withdraw (s : State) (c : Nat) : State :=
  { s with
    reqs := s.reqs.filter fun r => r.org.core != some c
    parked := s.parked.filter fun r => r.req.org.core != some c : State }.trimWaiting

/-- The fences that earlier phases issued: what an earlier freeze released still waits for them (R150, R153). -/
def Core.oldFences (k : Core) : List FenceSt := k.fences.filter fun f => f.num < k.shadow.num

/-- An abort in place of an arrival, or of one counted already (R376); an arrival of the core still on its way is taken back. -/
def State.abortSwitch (s : State) (c g : Nat) (counted : Bool) : State :=
  let k := s.core c
  s.modHub fun h =>
    { h with swmsgs := h.swmsgs.filter (fun m => m.core != c) ++ [⟨c, k.ctxid, g, k.csrs.swgroup.toNat / 2 ^ 16 % 1024, true, counted⟩] }

/-- The end of a member that waits in TSWAP aborts its round (R376). A round that is complete is not aborted; an arrival that the hub has
counted is not counted again. -/
def State.leaveSwitch (s : State) (c : Nat) : State :=
  match (s.core c).hold, (s.core c).swapTick with
  | .swap g, none => s.abortSwitch c g (!s.hub.swmsgs.any fun m => m.core == c && !m.abort)
  | _, _ => s

/-- The task that asked a core to yield no longer asks, once no other core of the task that was asked runs it (R43). -/
def State.unask (s : State) (c : Nat) : State :=
  match (s.core c).yieldReq.bind (·.waiter), (s.core c).task with
  | some (r, x), some b =>
    if s.coresOf b.serial = [c] then
      s.modDie (dieOf c) fun d => { d with queue := d.queue.map fun q => if q.record = r ∧ q.ctx = x then { q with asked := false } else q }
    else s
  | _, _ => s

/-- The yield of a gang under way is given up with its task (R371, R377). -/
def State.dropSaves (s : State) (c : Nat) : State :=
  match (s.core c).task with
  | some b => s.modDie (dieOf c) fun d => { d with saves := d.saves.filter fun x => x.serial != b.serial }
  | none => s

/-- The end of a member whose task is cancelled or killed (R371, R376): an arrival outstanding becomes an abort. What an earlier freeze
released stays on its way. -/
def State.endMember (s : State) (c : Nat) : State :=
  let s := ((s.leaveSwitch c).unask c).dropSaves c
  let s := ((s.dropLease c).freeSlots (clusterOf c) (.core c)).dropResults c
  s.modCore c fun k =>
    { k.dropPhase with task := none, lastCtx := some k.ctxid, hold := .none, fences := k.oldFences, swapTick := none, yieldReq := none, claim := none,
                       phase := Phase.fresh }

/-- The reservations of a die that count toward its four (R40): those of gangs. A core kept for a single task after a yield is no gang's
(DEDUCED, log 40). -/
def Die.gangResvs (d : Die) : Nat := d.resv.countP fun r => r.core.isNone

/-- A freed core, or its cluster for a gang, is reserved for the task that asked for the yield (R43, R40): once for a task, and not beyond
the four reservations of gangs. -/
def State.reserveFor (s : State) (c : Nat) (w : Option (Word × Nat)) : State :=
  match w with
  | none => s
  | some (r, x) => s.modDie (dieOf c) fun d =>
    match d.queue.find? fun q => q.record == r && q.ctx == x with
    | some q =>
      if d.resv.any (fun v => v.record == r && v.ctx == x) ∨ (q.gang ∧ 4 ≤ d.gangResvs) then d
      else { d with resv := d.resv ++ [⟨clusterOf c % 16, if q.gang then none else some c, r, x⟩] }
    | none => d

/-- A context's kill begins (R365, R373, R377): its queues are frozen, code 0x0023 is posted. -/
def State.startKill (s : State) (ctx : Nat) (l : Loc) (o : Option Org) : State :=
  if (s.ctx ctx).kill = .none then
    let s := s.modCtx ctx fun x => { x with frozen := true, kill := .running 1 }
    s.post { mkRec 0x23 3 l [] none o with ctx := some ctx }
  else s

/-- CancelTask (R371): every member ends, the record is marked, cancel goes to the successors; a task that had asked it to yield keeps its
request, and the freed core or cluster is reserved for it (R420). Where the task is the context's handler, the
kill of the context takes the place of its cancel, and the record stays RUNNING (R365, R377; DEDUCED, log 37). -/
def State.cancelTask (s : State) (o : Org) : State :=
  match s.coresOf o.serial with
  | [] => s
  | c :: cs =>
    let b := (s.core c).task
    let ctx := (s.core c).ctxid
    let asked := (c :: cs).map fun m => (m, (s.core m).yieldReq.bind (·.waiter))
    let s := (c :: cs).foldl State.endMember s
    let s := asked.foldl (fun (s : State) p => s.reserveFor p.1 p.2) s
    let s := s.freeSlots (clusterOf c) (.gang o.serial)
    match b with
    | none => s
    | some b =>
      if b.handler then s.startKill ctx (locDie 8 (dieOf c)) (some o)
      else
        let s := (s.recFlag ctx b.record 0 true).recPut ctx b.record 0x0C [5]
        s.sendWords true { o with core := some c, ctx := ctx, task := some b.record } b.succs 0

/-- What a precise fault reports (R408): code, unit, detail and address. -/
structure FaultInfo where
  code : Nat
  loc : Loc
  detail : List Byte
  addr : Option Word
  deriving DecidableEq, Repr

/-- The values on their way to a core's registers land. -/
def State.landRets (s : State) (c : Nat) : State :=
  let regs (g : Regs) : Regs := (s.rets.filter fun r => r.core == c).foldl (fun (g : Regs) r =>
    r.writes.foldl (fun (g : Regs) (p : SReg × Word) => g.setS p.1.toNat p.2) g) g
  { s with rets := s.rets.filter fun r => r.core != c }.modCore c fun k => { k with regs := regs k.regs }

/-- TAKING A PRECISE FAULT (R405, R371): the record is posted at severity 2, the results of earlier bundles land, and the task of the bundle in
issue is cancelled. No issue slot of the bundle acts. -/
def State.takeFault (s : State) (f : FaultInfo) : State :=
  (((s.post (mkRec f.code 2 f.loc f.detail f.addr (some s.iss.org))).landRets s.iss.core).cancelTask s.iss.org).faulted

/-- An imprecise fault (R406): the record names the operation's task and bundle; the task is cancelled if it still runs. -/
def State.lateFault (s : State) (o : Org) (f : FaultInfo) : State :=
  (s.post (mkRec f.code 2 f.loc f.detail f.addr (some o))).cancelTask o

/-- The registers that a rollback restores; counters and the UNCHK field are not (R368). -/
def Csrs.restore (now old : Csrs) (injected : Bool) : Csrs :=
  { now with
    ovfptr := old.ovfptr
    rimectl := (now.rimectl &&& 0x0000_FFFF_0000_0000) ||| (old.rimectl &&& 7)
    rimetol := old.rimetol
    rimeinj := if injected then old.rimeinj &&& 0x7FFF_FFFF_FFFF_FFFF else old.rimeinj
    lfsrseed := old.lfsrseed
    swgroup := old.swgroup }

/-- The command of a recorded X issue slot word. -/
def BufEnt.instr (b : BufEnt) : Option Instr := match decodeX b.word with | .ok i => some i | .error _ => none

/-- The commands of a refetch set, reissued: they carry no continuation (R274). -/
def refetchCmds (k : Core) (o : Org) (l : List (Nat × BufEnt)) : List XCmd :=
  l.zipIdx.filterMap fun q => let p := q.1; p.2.instr.map fun i =>
    { seq := p.1, ord := k.mseq + q.2, instr := i, dr := p.2.vals.getD 0 0, dc := p.2.vals.getD 1 0, sr := p.2.vals.getD 2 0, sc := p.2.vals.getD 3 0,
      k := 0, e1 := 0, e2 := 0, drec := [], srec := [], list := [], cout := false, started := true, stage := 0, nocont := true,
      status := 0, valid := 0, refetch := true, cur := true, org := { o with core := o.core, ctx := k.ctxid } }

/-- The run of a phase taken back (R368): everything but the strike and the record. -/
def State.undoPhase (s : State) (c : Nat) : State :=
  let o := s.orgOf c
  let s := (s.dropResults c).withdraw c
  let claimed := (s.core c).phase.claimed
  let s := if claimed then s.freeSlots (clusterOf c) (.core c) else s
  s.modCore c fun k =>
    let d := k.dropPhase
    { d with
      pc := k.shadow.pc
      regs := k.shadow.regs
      csrs := k.csrs.restore k.shadow.csrs k.phase.injected
      lfsr := k.shadow.lfsr
      claim := if claimed then none else k.claim
      hold := .none
      fences := k.oldFences
      swapTick := none
      xq := refetchCmds k o k.shadow.refetch ++ d.xq
      mseq := k.mseq + 16
      phase := { Phase.fresh with strikes := k.phase.strikes, injected := k.phase.injected, exempt := k.phase.exempt, cycles := k.phase.cycles } }

/-- A severity-1 event against a core's task (R368 to R370): rollback, or cancellation of an irrevocable phase with the
event's record at severity 2, or at the third strike with code 0x0021. -/
def State.strike (s : State) (c : Nat) (r : ErrRec) : State :=
  let p := (s.core c).phase
  let o := s.orgOf c
  if p.irrevocable then (s.post { r with sev := 2 }).cancelTask o
  else if p.strikes ≥ 2 then
    ((s.post r).post (mkRec 0x21 2 (locCore 0 c 0xFF) (leBytes 2 r.code) none (some o))).cancelTask o
  else
    let s := (s.post r).undoPhase c
    let s := s.modPhase c fun p => { p with strikes := p.strikes + 1 }
    s.post (mkRec 0x20 1 (locCore 0 c 0xFF) [] none (some o))

/-- The task of an operation still runs on its core. -/
def State.running (s : State) (o : Org) : Bool :=
  match o.core with
  | some c => (match (s.core c).task with | some b => b.serial == o.serial | none => false)
  | none => false

/-- The failure of a command at severity 1 (R368, R384): the phase of a command still in its own phase fails; else the task is
cancelled, and the record carries severity 2. -/
def State.cmdFail (s : State) (cur : Bool) (o : Org) (r : ErrRec) : State :=
  match o.core with
  | some c => if cur && s.running o then s.strike c r else (s.post { r with sev := 2 }).cancelTask o
  | none => s.post { r with sev := 2 }

end Sys2Proof.Machine
end

