-- ==== Sys2Proof/Machine/Operands.lean ====
section
/-! DEFINITION. Operands of the issue slots: immediates, the registers that an instruction reads and writes (03, R50, R52),
source codes of table entries (08, R175) and format selection (05, R118). -/
namespace Sys2Proof.Machine

/-- The 34-bit immediate, sign-extended (R203). -/
def imm34 (i : BitVec 34) : Word := i.signExtend 64

/-- The 32-bit offset of a memory access, sign-extended (R166). -/
def off32 (o : BitVec 32) : Word := o.signExtend 64

/-- A branch target: the bundle's address and 32 times the offset (R204). -/
def State.target (s : State) (o : BitVec 32) : Word := s.iss.a + 32 * off32 o

/-- The format table index (lc_fsel + foff) mod 16 (R118). -/
def State.fmtIndex (s : State) (fsel : BitVec 2) (foff : Nat) : Nat := ((s.iss.src.regs.getLc fsel.toNat).toNat + foff) % 16

/-- The scalar registers that an issue slot reads (R201 to R206, R208 to R225, 11, 12). -/
def readsS (i : Instr) : List SReg :=
  match i with
  | .add _ _ a b | .sub _ _ a b | .mul _ _ a b | .mulh _ _ a b | .mulhn _ _ a b | .div _ _ a b | .divn _ _ a b
  | .rem _ _ a b | .remn _ _ a b | .and_ _ _ a b | .or_ _ _ a b | .xor _ _ a b | .andn _ _ a b | .shl _ _ a b
  | .shr _ _ a b | .sra _ _ a b | .rol _ _ a b | .min_ _ _ a b | .max_ _ _ a b | .minn _ _ a b | .maxn _ _ a b
  | .bfx _ _ a b _ | .sel _ _ a b _ | .cmp _ _ a b _ | .lea _ _ a b _ => [a, b]
  | .clz _ _ a | .popc _ _ a | .sext _ _ a _ | .zext _ _ a _ => [a]
  | .bfi _ _ a b c _ => [a, b, c]
  | .addi _ _ a _ | .andi _ _ a _ | .ori _ _ a _ | .xori _ _ a _ | .shli _ _ a _ | .shri _ _ a _ | .srai _ _ a _
  | .lih _ _ a _ | .muli _ _ a _ | .cmpi _ _ a _ _ => [a]
  | .brz _ a _ | .brnz _ a _ | .brr _ a _ | .callr _ a | .loop _ _ a _ => [a]
  | .ret _ => [63]
  | .ld _ _ b _ _ _ | .ldp _ _ b _ _ => [b]
  | .st _ v b _ _ _ => [v, b]
  | .stp _ v b _ _ => [v, v + 1, b]
  | .amo _ _ a b k _ _ => [a, b, k]
  | .cas _ _ a b c _ => [a, b, c]
  | .casc _ _ a b c k _ | .amoct _ _ a b c k _ _ _ => [a, b, c, k]
  | .fred _ a b k _ _ => [a, b, k]
  | .tspawn _ a | .tdone _ a | .freeze _ a _ => [a]
  | .tdec _ a b | .tarm _ a b | .publish _ a b => [a, b]
  | .csrw _ _ a _ | .csrs _ _ a _ | .csrc _ _ a _ | .trap _ a _ | .tokx _ _ a => [a]
  | .vix _ _ bs _ _ _ => [bs]
  | .mlds f => [f.sa, f.sb, f.sc]
  | .msts _ _ a b c _ => [a, b, c]
  | .mmah f => [f.ar, f.ac, f.br, f.bc]
  | .mdrain f => [f.sa, f.sb, f.sc]
  | .mdrainh f => [f.sr, f.cw, f.k]
  | .msamp f => [f.sig]
  | .maccld f => [f.sa, f.sb]
  | .xcopy f | .xgath f | .xscat f | .xfill f | .xtbl f | .xroute f _ _ | .xrsnap f _ | .xfmt f _ _ | .xrime f _ =>
    [f.dr, f.dc, f.sr, f.sc, f.k]
  | .xput f t => [f.dr, f.dc, f.sr, f.sc, f.k, t]
  | .xcoll f p r _ => [f.dr, f.dc, f.sr, f.sc, f.k, p, r]
  | .xexpa f x | .xexpr f x => [f.sr, f.sc, f.k, x]
  | _ => []

/-- The scalar registers that an issue slot writes (R52). -/
def writesS (i : Instr) : List SReg :=
  match i with
  | .add _ d _ _ | .sub _ d _ _ | .mul _ d _ _ | .mulh _ d _ _ | .mulhn _ d _ _ | .div _ d _ _ | .divn _ d _ _
  | .rem _ d _ _ | .remn _ d _ _ | .and_ _ d _ _ | .or_ _ d _ _ | .xor _ d _ _ | .andn _ d _ _ | .shl _ d _ _
  | .shr _ d _ _ | .sra _ d _ _ | .rol _ d _ _ | .min_ _ d _ _ | .max_ _ d _ _ | .minn _ d _ _ | .maxn _ d _ _
  | .bfx _ d _ _ _ | .sel _ d _ _ _ | .lea _ d _ _ _ | .clz _ d _ | .popc _ d _ | .sext _ d _ _ | .zext _ d _ _
  | .bfi _ d _ _ _ _ | .addi _ d _ _ | .andi _ d _ _ | .ori _ d _ _ | .xori _ d _ _ | .shli _ d _ _ | .shri _ d _ _
  | .srai _ d _ _ | .li _ d _ | .lih _ d _ _ | .muli _ d _ _ | .addpc _ d _ | .ld _ d _ _ _ _ | .amo _ d _ _ _ _ _
  | .cas _ d _ _ _ _ | .casc _ d _ _ _ _ _ | .amoct _ d _ _ _ _ _ _ _ | .csrr _ d _ | .csrw _ d _ _ | .csrs _ d _ _
  | .csrc _ d _ _ | .eread _ d _ | .tokx _ d _ | .mclaim _ d _ => [d]
  | .call _ _ | .callr _ _ => [63]
  | .ldp _ d _ _ _ => [d, d + 1]
  | _ => []

/-- The predicates that an issue slot writes (R52). -/
def writesP (i : Instr) : List (BitVec 3) :=
  match i with
  | .cmp _ d _ _ _ | .plog _ d _ _ _ | .cmpi _ d _ _ _ => [d]
  | _ => []

/-- Two issue slots write one scalar register other than s0, or one predicate other than p0 (R52). -/
def clashes (i j : Instr) : Bool :=
  (writesS i).any (fun r => r != 0 && (writesS j).contains r) || (writesP i).any fun p => p != 0 && (writesP j).contains p

end Sys2Proof.Machine
end

