-- ==== Sys2Proof/Machine/Integer.lean ====
section
/-! DEFINITION. Integer, logic and immediate instructions of the control issue slot (09, R199 to R203). -/
namespace Sys2Proof.Machine

/-- What a step of the module answers. -/
abbrev Out := Host.Outcome State Fault Refusal

/-- An instruction under a guard: a false guard makes it a no-operation (R199). -/
def State.under (s : State) (g : Guard) (r : Out) : Out := if s.guard g then r else .next s

/-- A scalar result under a guard. -/
def State.alu (s : State) (g : Guard) (d : SReg) (v : Word) : Out := s.under g (.next (s.wr d v))

/-- A predicate result under a guard. -/
def State.cond (s : State) (g : Guard) (d : BitVec 3) (v : Bool) : Out := s.under g (.next (s.wrP d v))

/-! The values (R201, R202). -/

/-- Bits 127:64 of the signed product. -/
def mulHigh (a b : Word) : Word := (a.signExtend 128 * b.signExtend 128).extractLsb' 64 64

/-- Bits 127:64 of the unsigned product. -/
def mulHighN (a b : Word) : Word := (a.zeroExtend 128 * b.zeroExtend 128).extractLsb' 64 64

/-- DIV: truncated toward zero; all ones for a zero divisor; the most negative number over -1 is itself (R202). -/
def divValue (a b : Word) : Word := if b = 0 then BitVec.allOnes 64 else a.sdiv b

/-- DIVN (R202). -/
def divnValue (a b : Word) : Word := if b = 0 then BitVec.allOnes 64 else a / b

/-- REM: the sign of the dividend; the dividend for a zero divisor (R202). -/
def remValue (a b : Word) : Word := if b = 0 then a else a.srem b

/-- REMN (R202). -/
def remnValue (a b : Word) : Word := if b = 0 then a else a % b

/-- A shift amount: bits 5:0 (R201). -/
def shAmt (b : Word) : Nat := b.toNat % 64

/-- Leading zero bits, 0 to 64. -/
def clzValue (a : Word) : Word := if a = 0 then 64 else BitVec.ofNat 64 (63 - a.toNat.log2)

/-- One bits, 0 to 64. -/
def popcValue (a : Word) : Word := BitVec.ofNat 64 ((List.range 64).countP fun i => a.getLsbD i)

/-- Bits n-1:0 sign-extended, n from 1 to 64 given less one. -/
def sextValue (a : Word) (n : BitVec 6) : Word := (a <<< (63 - n.toNat)).sshiftRight (63 - n.toNat)

/-- Bits n-1:0 zero-extended. -/
def zextValue (a : Word) (n : BitVec 6) : Word := (a <<< (63 - n.toNat)) >>> (63 - n.toNat)

/-- A mask of the low bits. -/
def lowMask (len : Nat) : Word := BitVec.ofNat 64 (2 ^ len - 1)

/-- BFX (R201). -/
def bfxValue (a b : Word) (len : BitVec 7) : Word := (a >>> shAmt b) &&& lowMask len.toNat

/-- BFI (R201). -/
def bfiValue (a b c : Word) (len : BitVec 7) : Word :=
  let m := lowMask len.toNat <<< shAmt c
  (a &&& ~~~m) ||| ((b <<< shAmt c) &&& m)

/-- LIH (R203): imm[29:0] above bits 33:0 of the source. -/
def lihValue (a : Word) (imm : BitVec 30) : Word := (imm.zeroExtend 64 <<< 34) ||| (a &&& lowMask 34)

/-- ADD: the sum (R201). -/
def execAdd (g : Guard) (d a b : SReg) (s : State) : Out := s.alu g d (s.rd a + s.rd b)

/-- SUB: the difference (R201). -/
def execSub (g : Guard) (d a b : SReg) (s : State) : Out := s.alu g d (s.rd a - s.rd b)

/-- MUL: the low product (R201). -/
def execMul (g : Guard) (d a b : SReg) (s : State) : Out := s.alu g d (s.rd a * s.rd b)

/-- MULH: the high signed product (R201). -/
def execMulh (g : Guard) (d a b : SReg) (s : State) : Out := s.alu g d (mulHigh (s.rd a) (s.rd b))

/-- MULHN: the high unsigned product (R201). -/
def execMulhn (g : Guard) (d a b : SReg) (s : State) : Out := s.alu g d (mulHighN (s.rd a) (s.rd b))

/-- DIV: the signed quotient (R202). -/
def execDiv (g : Guard) (d a b : SReg) (s : State) : Out := s.alu g d (divValue (s.rd a) (s.rd b))

/-- DIVN: the unsigned quotient (R202). -/
def execDivn (g : Guard) (d a b : SReg) (s : State) : Out := s.alu g d (divnValue (s.rd a) (s.rd b))

/-- REM: the signed remainder (R202). -/
def execRem (g : Guard) (d a b : SReg) (s : State) : Out := s.alu g d (remValue (s.rd a) (s.rd b))

/-- REMN: the unsigned remainder (R202). -/
def execRemn (g : Guard) (d a b : SReg) (s : State) : Out := s.alu g d (remnValue (s.rd a) (s.rd b))

/-- AND: bitwise and (R201). -/
def execAnd (g : Guard) (d a b : SReg) (s : State) : Out := s.alu g d (s.rd a &&& s.rd b)

/-- OR: bitwise or (R201). -/
def execOr (g : Guard) (d a b : SReg) (s : State) : Out := s.alu g d (s.rd a ||| s.rd b)

/-- XOR: bitwise exclusive or (R201). -/
def execXor (g : Guard) (d a b : SReg) (s : State) : Out := s.alu g d (s.rd a ^^^ s.rd b)

/-- ANDN: and with the complement (R201). -/
def execAndn (g : Guard) (d a b : SReg) (s : State) : Out := s.alu g d (s.rd a &&& ~~~(s.rd b))

/-- SHL: left shift (R201). -/
def execShl (g : Guard) (d a b : SReg) (s : State) : Out := s.alu g d (s.rd a <<< shAmt (s.rd b))

/-- SHR: logical right shift (R201). -/
def execShr (g : Guard) (d a b : SReg) (s : State) : Out := s.alu g d (s.rd a >>> shAmt (s.rd b))

/-- SRA: arithmetic right shift (R201). -/
def execSra (g : Guard) (d a b : SReg) (s : State) : Out := s.alu g d ((s.rd a).sshiftRight (shAmt (s.rd b)))

/-- ROL: left rotation (R201). -/
def execRol (g : Guard) (d a b : SReg) (s : State) : Out := s.alu g d ((s.rd a).rotateLeft (shAmt (s.rd b)))

/-- MIN: the smaller, signed (R201). -/
def execMin (g : Guard) (d a b : SReg) (s : State) : Out := s.alu g d (if (s.rd b).slt (s.rd a) then s.rd b else s.rd a)

/-- MAX: the larger, signed (R201). -/
def execMax (g : Guard) (d a b : SReg) (s : State) : Out := s.alu g d (if (s.rd a).slt (s.rd b) then s.rd b else s.rd a)

/-- MINN: the smaller, unsigned (R201). -/
def execMinn (g : Guard) (d a b : SReg) (s : State) : Out := s.alu g d (if (s.rd b).ult (s.rd a) then s.rd b else s.rd a)

/-- MAXN: the larger, unsigned (R201). -/
def execMaxn (g : Guard) (d a b : SReg) (s : State) : Out := s.alu g d (if (s.rd a).ult (s.rd b) then s.rd b else s.rd a)

/-- CLZ: leading zero bits (R201). -/
def execClz (g : Guard) (d a : SReg) (s : State) : Out := s.alu g d (clzValue (s.rd a))

/-- POPC: one bits (R201). -/
def execPopc (g : Guard) (d a : SReg) (s : State) : Out := s.alu g d (popcValue (s.rd a))

/-- SEXT (R201). -/
def execSext (g : Guard) (d a : SReg) (n : BitVec 6) (s : State) : Out := s.alu g d (sextValue (s.rd a) n)

/-- ZEXT (R201). -/
def execZext (g : Guard) (d a : SReg) (n : BitVec 6) (s : State) : Out := s.alu g d (zextValue (s.rd a) n)

/-- BFX (R201). -/
def execBfx (g : Guard) (d a b : SReg) (len : BitVec 7) (s : State) : Out := s.alu g d (bfxValue (s.rd a) (s.rd b) len)

/-- BFI (R201). -/
def execBfi (g : Guard) (d a b c : SReg) (len : BitVec 7) (s : State) : Out := s.alu g d (bfiValue (s.rd a) (s.rd b) (s.rd c) len)

/-- SEL: the first source where the condition holds, else the second (R201). -/
def execSel (g : Guard) (d a b : SReg) (cond : Guard) (s : State) : Out := s.alu g d (if s.guard cond then s.rd a else s.rd b)

/-- CMP: a predicate from a comparison (R201, R168). -/
def execCmp (g : Guard) (d : BitVec 3) (a b : SReg) (cc : BitVec 3) (s : State) : Out := s.cond g d (condHolds cc.toNat 64 (s.rd a).toNat (s.rd b).toNat)

/-- PLOG: a predicate from a truth table (R201). -/
def execPlog (g : Guard) (d a b : BitVec 3) (t : BitVec 4) (s : State) : Out := s.cond g d (plogValue t (s.rdP a) (s.rdP b))

/-- LEA (R201). -/
def execLea (g : Guard) (d a b : SReg) (sh : BitVec 3) (s : State) : Out := s.alu g d (s.rd a + s.rd b <<< sh.toNat)

/-- NOP (R169). -/
def execNop (s : State) : Out := .next s

/-- ADDI (R203). -/
def execAddi (g : Guard) (d a : SReg) (imm : BitVec 34) (s : State) : Out := s.alu g d (s.rd a + imm34 imm)

/-- ANDI (R203). -/
def execAndi (g : Guard) (d a : SReg) (imm : BitVec 34) (s : State) : Out := s.alu g d (s.rd a &&& imm34 imm)

/-- ORI (R203). -/
def execOri (g : Guard) (d a : SReg) (imm : BitVec 34) (s : State) : Out := s.alu g d (s.rd a ||| imm34 imm)

/-- XORI (R203). -/
def execXori (g : Guard) (d a : SReg) (imm : BitVec 34) (s : State) : Out := s.alu g d (s.rd a ^^^ imm34 imm)

/-- MULI (R203). -/
def execMuli (g : Guard) (d a : SReg) (imm : BitVec 34) (s : State) : Out := s.alu g d (s.rd a * imm34 imm)

/-- SHLI (R203). -/
def execShli (g : Guard) (d a : SReg) (sh : BitVec 6) (s : State) : Out := s.alu g d (s.rd a <<< sh.toNat)

/-- SHRI (R203). -/
def execShri (g : Guard) (d a : SReg) (sh : BitVec 6) (s : State) : Out := s.alu g d (s.rd a >>> sh.toNat)

/-- SRAI (R203). -/
def execSrai (g : Guard) (d a : SReg) (sh : BitVec 6) (s : State) : Out := s.alu g d ((s.rd a).sshiftRight sh.toNat)

/-- LI (R203). -/
def execLi (g : Guard) (d : SReg) (imm : BitVec 34) (s : State) : Out := s.alu g d (imm34 imm)

/-- LIH (R203). -/
def execLih (g : Guard) (d a : SReg) (imm : BitVec 30) (s : State) : Out := s.alu g d (lihValue (s.rd a) imm)

/-- ADDPC: the address of the bundle and the immediate (R203). -/
def execAddpc (g : Guard) (d : SReg) (imm : BitVec 34) (s : State) : Out := s.alu g d (s.iss.a + imm34 imm)

/-- CMPI (R203). -/
def execCmpi (g : Guard) (d : BitVec 3) (a : SReg) (imm : BitVec 34) (cc : BitVec 3) (s : State) : Out := s.cond g d (condHolds cc.toNat 64 (s.rd a).toNat (imm34 imm).toNat)

end Sys2Proof.Machine
end

