-- ==== Sys2Proof/Machine/Branch.lean ====
section
/-! DEFINITION. Branches, calls and hardware loops (09, R204, R205). -/
namespace Sys2Proof.Machine

/-- A misaligned register target (R204, R412): an alignment fault of the control issue slot with its opcode. -/
def State.targetFault (s : State) (op : Nat) (a : Word) : State :=
  s.takeFault ⟨2, locCore 0 s.iss.core 0xFF, leBytes 1 1 ++ leBytes 1 op ++ leBytes 2 0 ++ leBytes 1 5, some a⟩

/-- A jump to a register target, which must be a multiple of 32. -/
def State.jumpReg (s : State) (op : Nat) (a : Word) : State := if a.toNat % 32 = 0 then s.jump a else s.targetFault op a

/-- The link register of CALL and CALLR receives the address of the bundle after this one (R204). -/
def State.link (s : State) : State := s.wr 63 (s.iss.a + 32)

/-- BR (R204). -/
def execBr (g : Guard) (off : BitVec 32) (s : State) : Out := s.under g (.next (s.jump (s.target off)))

/-- BRP: taken when its condition holds (R204). -/
def execBrp (g : Guard) (cond : Guard) (off : BitVec 32) (s : State) : Out :=
  s.under g (.next (if s.guard cond then s.jump (s.target off) else s))

/-- BRZ (R204). -/
def execBrz (g : Guard) (a : SReg) (off : BitVec 32) (s : State) : Out :=
  s.under g (.next (if s.rd a = 0 then s.jump (s.target off) else s))

/-- BRNZ (R204). -/
def execBrnz (g : Guard) (a : SReg) (off : BitVec 32) (s : State) : Out :=
  s.under g (.next (if s.rd a ≠ 0 then s.jump (s.target off) else s))

/-- BRR: a register and 32 times the offset (R204). -/
def execBrr (g : Guard) (a : SReg) (off : BitVec 32) (s : State) : Out :=
  s.under g (.next (s.jumpReg 0x44 (s.rd a + 32 * off32 off)))

/-- CALL (R204). -/
def execCall (g : Guard) (off : BitVec 32) (s : State) : Out := s.under g (.next (s.link.jump (s.target off)))

/-- CALLR: the target is read before the link is written (R204). -/
def execCallr (g : Guard) (a : SReg) (s : State) : Out :=
  s.under g (.next (if (s.rd a).toNat % 32 = 0 then s.link.jump (s.rd a) else s.targetFault 0x46 (s.rd a)))

/-- RET: to the link register (R204). -/
def execRet (g : Guard) (s : State) : Out := s.under g (.next (s.jumpReg 0x47 (s.rd 63)))

/-- The bottom of a hardware loop (R205): the counter rises, and the body runs again while it is below the limit. -/
def State.loopEnd (s : State) (n : Nat) (limit : Nat) (top : Word) : State :=
  let c := (s.iss.src.regs.getLc n).toNat + 1
  if c < limit then (s.modCore s.iss.core fun k => { k with regs := k.regs.setLc n (BitVec.ofNat 32 c) }).jump top
  else s.modCore s.iss.core fun k => { k with regs := k.regs.setLc n 0 }

/-- LOOP: the limit is the register's low 32 bits (R205). -/
def execLoop (g : Guard) (lc : BitVec 2) (a : SReg) (off : BitVec 32) (s : State) : Out :=
  s.under g (.next (s.loopEnd lc.toNat ((s.rd a).toNat % 2 ^ 32) (s.target off)))

/-- LOOPI: the limit is the count (R205). -/
def execLoopi (g : Guard) (lc : BitVec 2) (count : BitVec 18) (off : BitVec 32) (s : State) : Out :=
  s.under g (.next (s.loopEnd lc.toNat count.toNat (s.target off)))

/-- LBRK: the counter returns to 0 and the loop is left (R205). -/
def execLbrk (g : Guard) (lc : BitVec 2) (off : BitVec 32) (s : State) : Out :=
  s.under g (.next ((s.modCore s.iss.core fun k => { k with regs := k.regs.setLc lc.toNat 0 }).jump (s.target off)))

end Sys2Proof.Machine
end

