-- ==== Sys2Proof/Machine/Fp.lean ====
section
/-! DEFINITION. Floating-point formats, exact values and their one rounding (05, R96 to R109, R111). -/
namespace Sys2Proof.Machine

/-- An exact value: a NaN with the sign of what produced it, an infinity, or (-1)^neg × m × 2^e (R97). -/
inductive FVal where
  | nan (neg : Bool)
  | inf (neg : Bool)
  | fin (neg : Bool) (m : Nat) (e : Int)
  deriving DecidableEq, Repr

/-- The rounding modes: RNE, RTZ, RUP, RDN (R106), and stochastic with its random word (R109). -/
inductive Mode where
  | rne | rtz | rup | rdn
  | sto (u : Nat)
  deriving DecidableEq, Repr

/-- The mode of a rounding field (R106). -/
def Mode.of (n : Nat) : Mode := match n with | 0 => .rne | 1 => .rtz | 2 => .rup | _ => .rdn

/-- Mantissa bits, exponent bits and bias of a floating format by its code (R96): FP32, FP16, BF16, E4M3, E5M2. -/
def fmtW (f : Nat) : Nat := match f with | 0 => 23 | 1 => 10 | 2 => 7 | 3 => 3 | _ => 2
/-- See `fmtW`. -/
def fmtE (f : Nat) : Nat := match f with | 0 => 8 | 1 => 5 | 2 => 8 | 3 => 4 | _ => 5
/-- See `fmtW`. -/
def fmtBias (f : Nat) : Nat := match f with | 0 => 127 | 1 => 15 | 2 => 127 | 3 => 7 | _ => 15

/-- Plus zero. -/
def FVal.zero : FVal := .fin false 0 0

/-- The sign of a value. -/
def FVal.neg : FVal → Bool
  | .nan n => n
  | .inf n => n
  | .fin n _ _ => n

/-- The value with its sign turned. -/
def FVal.opp : FVal → FVal
  | .nan n => .nan (!n)
  | .inf n => .inf (!n)
  | .fin n m e => .fin (!n) m e

/-- The absolute value. -/
def FVal.abs : FVal → FVal
  | .nan _ => .nan false
  | .inf _ => .inf false
  | .fin _ m e => .fin false m e

/-- The value is a NaN. -/
def FVal.isNan : FVal → Bool | .nan _ => true | _ => false
/-- The value is infinite. -/
def FVal.isInf : FVal → Bool | .inf _ => true | _ => false
/-- The value is a zero of either sign. -/
def FVal.isZero : FVal → Bool | .fin _ m _ => m == 0 | _ => false

/-- The value of an encoding (R97, R98): BF16 encodings with exponent field 0 are zeros. -/
def decodeF (f : Nat) (bits : Nat) : FVal :=
  let w := fmtW f
  let ef := bits / 2 ^ w % 2 ^ fmtE f
  let m := bits % 2 ^ w
  let neg := bits / 2 ^ (w + fmtE f) % 2 = 1
  if f = 3 then
    if ef = 15 ∧ m = 7 then .nan neg
    else if ef = 0 then .fin neg m (1 - 7 - 3) else .fin neg (m + 8) ((ef : Int) - 7 - 3)
  else if ef = 2 ^ fmtE f - 1 then (if m = 0 then .inf neg else .nan neg)
  else if ef = 0 then (if f = 2 then .fin neg 0 0 else .fin neg m (1 - (fmtBias f : Int) - w))
  else .fin neg (m + 2 ^ w) ((ef : Int) - fmtBias f - w)

/-- The sign bit of a format. -/
def signBit (f : Nat) (neg : Bool) : Nat := if neg then 2 ^ (fmtW f + fmtE f) else 0

/-- The canonical NaN (R99); E4M3 keeps a sign. -/
def canonNan (f : Nat) (neg : Bool) : Nat :=
  match f with
  | 0 => 0x7FC00000 | 1 => 0x7E00 | 2 => 0x7FC0 | 3 => if neg then 0xFF else 0x7F | _ => 0x7E

/-- The largest finite magnitude of a format. -/
def maxFinite (f : Nat) : Nat := match f with | 0 => 0x7F7FFFFF | 1 => 0x7BFF | 2 => 0x7F7F | 3 => 0x7E | _ => 0x7B

/-- The infinity of a format. -/
def infBits (f : Nat) : Nat := match f with | 0 => 0x7F800000 | 1 => 0x7C00 | 2 => 0x7F80 | 3 => 0x7F | _ => 0x7C

/-- A result beyond the largest finite value (R107). -/
def overflowF (f : Nat) (mode : Mode) (sat48 neg : Bool) : Nat :=
  if f = 3 then
    let toMax := sat48 || (match mode with | .rtz => true | .rup => neg | .rdn => !neg | _ => false)
    if toMax then signBit 3 neg + 0x7E else canonNan 3 neg
  else
    let toMax := match mode with | .rtz => true | .rup => neg | .rdn => !neg | _ => false
    signBit f neg + if toMax then maxFinite f else infBits f

/-- Whether a magnitude with quotient n and remainder r of d is rounded away from zero (R106, R109). -/
def roundsUp (mode : Mode) (neg : Bool) (n r d : Nat) : Bool :=
  match mode with
  | .rne => decide (d < 2 * r) || (decide (2 * r = d) && decide (n % 2 = 1))
  | .rtz => false
  | .rup => decide (r ≠ 0) && !neg
  | .rdn => decide (r ≠ 0) && neg
  | .sto u => decide (u < r * 2 ^ 32 / d)

/-- 2 to an integer power times a natural number, as a quotient and a remainder of a denominator. -/
def scaleDown (m : Nat) (k : Int) : Nat × Nat × Nat :=
  if 0 ≤ k then (m * 2 ^ k.toNat, 0, 1) else (m / 2 ^ (-k).toNat, m % 2 ^ (-k).toNat, 2 ^ (-k).toNat)

/-- One rounding of an exact value to a format (R98, R106, R107). -/
def roundF (f : Nat) (mode : Mode) (sat48 : Bool) (v : FVal) : Nat :=
  match v with
  | .nan neg => canonNan f neg
  | .inf neg => if f = 3 then (if sat48 then signBit 3 neg + 0x7E else canonNan 3 neg) else signBit f neg + infBits f
  | .fin neg 0 _ => signBit f neg
  | .fin neg m e =>
    let w := fmtW f
    let emin : Int := 1 - fmtBias f
    let lead : Int := e + m.log2
    let q : Int := (if f = 2 then lead else max lead emin) - w
    let (n, r, d) := scaleDown m (e - q)
    let n := if roundsUp mode neg n r d then n + 1 else n
    let lead : Int := q + n.log2
    if n = 0 ∨ (f = 2 ∧ lead < emin) then signBit f neg
    else if lead < emin then signBit f neg + n
    else
      let mant := if n ≥ 2 ^ (w + 1) then n / 2 else n
      let bits := (lead + fmtBias f).toNat * 2 ^ w + (mant - 2 ^ w)
      if lead + fmtBias f ≥ 2 ^ fmtE f ∨ bits > maxFinite f then overflowF f mode sat48 neg
      else signBit f neg + bits

/-- The exact sum; an exact zero of unlike signs is +0, under RDN -0 (R107). -/
def FVal.add (mode : Mode) (a b : FVal) : FVal :=
  match a, b with
  | .nan n, _ => .nan n
  | _, .nan n => .nan n
  | .inf x, .inf y => if x = y then .inf x else .nan false
  | .inf x, _ => .inf x
  | _, .inf y => .inf y
  | .fin x m e, .fin y n k =>
    let lo := min e k
    let p : Int := (if x then -1 else 1) * ((m * 2 ^ (e - lo).toNat : Nat) : Int)
    let q : Int := (if y then -1 else 1) * ((n * 2 ^ (k - lo).toNat : Nat) : Int)
    let s := p + q
    if s = 0 then .fin (if x = y then x else mode == .rdn) 0 0 else .fin (decide (s < 0)) s.natAbs lo

/-- The exact product. -/
def FVal.mul (a b : FVal) : FVal :=
  match a, b with
  | .nan n, _ => .nan n
  | _, .nan n => .nan n
  | .inf x, .inf y => .inf (x != y)
  | .inf x, .fin y n _ => if n = 0 then .nan false else .inf (x != y)
  | .fin x m _, .inf y => if m = 0 then .nan false else .inf (x != y)
  | .fin x m e, .fin y n k => .fin (x != y) (m * n) (e + k)

/-- The quotient to far more bits than any format holds, with a last bit that is set where it is not exact. -/
def FVal.div (a b : FVal) : FVal :=
  match a, b with
  | .nan n, _ => .nan n
  | _, .nan n => .nan n
  | .inf _, .inf _ => .nan false
  | .inf x, .fin y _ _ => .inf (x != y)
  | .fin x _ _, .inf y => .fin (x != y) 0 0
  | .fin x m e, .fin y n k =>
    if n = 0 then (if m = 0 then .nan false else .inf (x != y))
    else if m = 0 then .fin (x != y) 0 0
    else
      let sh := 64 + n.log2
      let q := m * 2 ^ sh / n
      .fin (x != y) (2 * q + (if m * 2 ^ sh % n = 0 then 0 else 1)) (e - k - sh - 1)

/-- The integer square root, bit by bit from the top: the root of n has at most `bits` bits. -/
def isqrt (bits n : Nat) : Nat :=
  match bits with
  | 0 => 0
  | b + 1 =>
    let r := isqrt b (n / 4) * 2
    if (r + 1) * (r + 1) ≤ n then r + 1 else r

/-- The square root, as `FVal.div` gives quotients; a negative value that is not zero gives NaN (R99). -/
def FVal.sqrt (a : FVal) : FVal :=
  match a with
  | .nan n => .nan n
  | .inf n => if n then .nan false else .inf false
  | .fin n m e =>
    if m = 0 then .fin n 0 0
    else if n then .nan false
    else
      let sh : Nat := 130 + (if (e - 130) % 2 = 0 then 0 else 1)
      let x := m * 2 ^ sh
      let r := isqrt (x.log2 / 2 + 1) x
      .fin false (2 * r + (if r * r = x then 0 else 1)) ((e - sh) / 2 - 1)

/-- The order of two finite or infinite values by magnitude and sign; -0 below +0 (R111). -/
def FVal.lt (a b : FVal) : Bool :=
  match a, b with
  | .nan _, _ => false
  | _, .nan _ => false
  | .inf x, .inf y => x && !y
  | .inf x, _ => x
  | _, .inf y => !y
  | .fin x m e, .fin y n k =>
    let lo := min e k
    let p := m * 2 ^ (e - lo).toNat
    let q := n * 2 ^ (k - lo).toNat
    match x, y with
    | false, false => decide (p < q)
    | true, true => decide (q < p)
    | true, false => true
    | false, true => false

/-- The values are equal as numbers: zeros of either sign are. -/
def FVal.eqv (a b : FVal) : Bool :=
  match a, b with
  | .nan _, _ => false
  | _, .nan _ => false
  | _, _ => (a.isZero && b.isZero) || (!a.lt b && !b.lt a)

/-- The larger, with the canonical NaN where either is one (R111). -/
def FVal.max2 (a b : FVal) : FVal := if a.isNan || b.isNan then .nan false else if a.lt b then b else a

/-- The smaller (R111). -/
def FVal.min2 (a b : FVal) : FVal := if a.isNan || b.isNan then .nan false else if b.lt a then b else a

/-- A value scaled by a power of two. -/
def FVal.scale (k : Int) (a : FVal) : FVal := match a with | .fin n m e => .fin n m (e + k) | v => v

/-- The value of an integer. -/
def FVal.ofInt (i : Int) : FVal := .fin (decide (i < 0)) i.natAbs 0

/-- A value rounded to an integer in a mode, unbounded; none for NaN and infinities (R105). -/
def FVal.toInt (mode : Mode) (a : FVal) : Option Int :=
  match a with
  | .fin neg m e =>
    let (n, r, d) := scaleDown m e
    let n := if roundsUp mode neg n r d then n + 1 else n
    some (if neg then -(n : Int) else n)
  | _ => none

/-- The FP32 sum rounded once under RNE, on bits. -/
def addF32 (a b : Nat) : Nat := roundF 0 .rne false (FVal.add .rne (decodeF 0 a) (decodeF 0 b))

/-- An MX element's value: i × 2^(-F) × 2^(x - 127); a scale of 0xFF is NaN (R102). -/
def mxValue (bitsN : Nat) (i : Int) (x : Nat) : FVal :=
  let f : Int := match bitsN with | 8 => 6 | 6 => 4 | _ => 2
  if x = 0xFF then .nan false else (FVal.ofInt i).scale (-f + ((x : Int) - 127))

/-- The element bits of an MX format: 8, 6 or 4 (R88, R102). -/
def mxBits (fmt : Nat) : Nat := match fmt with | 5 => 8 | 6 => 6 | _ => 4

/-- The format is microscaled. -/
def isMx (fmt : Nat) : Bool := decide (5 ≤ fmt ∧ fmt ≤ 7)

/-- An integer clamped to n bits, two's complement (R103). -/
def intSat (n : Nat) (i : Int) : Int := max (-(2 ^ (n - 1) : Nat)) (min i ((2 ^ (n - 1) : Nat) - 1))

/-- An integer clamped to the range of an integer format code: s32, n32, s16, s8, n8 (R88, R105). -/
def clampInt (fmt : Nat) (i : Int) : Int :=
  match fmt with
  | 8 => intSat 32 i
  | 9 => max 0 (min i (2 ^ 32 - 1))
  | 10 => intSat 16 i
  | 11 => intSat 8 i
  | _ => max 0 (min i 255)

/-- The low w bits of an integer in two's complement. -/
def toBits (w : Nat) (i : Int) : Nat := (i % (2 ^ w : Nat)).toNat

/-- The largest magnitude among values that are not NaN. -/
def maxAbs (l : List FVal) : FVal := l.foldl (fun a v => if a.lt v.abs then v.abs else a) FVal.zero

/-- Quantisation of a block to an MX format (R103): the scale and the elements. -/
def quantizeMx (vs : List FVal) (n : Nat) (fixed : Option Nat) (mode : Mode) : Nat × List Int :=
  if vs.any fun v => v.isNan || v.isInf then (0xFF, vs.map fun _ => 0)
  else
    let f : Int := match n with | 8 => 6 | 6 => 4 | _ => 2
    let x := match fixed with
      | some x => x
      | none =>
        match maxAbs vs with
        | .fin _ m e => if m = 0 then 0 else (max 0 (min ((m.log2 : Int) + e + 127) 254)).toNat
        | _ => 0
    (x, vs.map fun v => intSat n (((v.scale (127 - (x : Int) + f)).toInt mode).getD 0))

/-! Formats of elements in memory and in tiles (R88). -/

/-- Bits of an element by format code. -/
def elemBits (fmt : Nat) : Nat :=
  match fmt with
  | 0 => 32 | 1 => 16 | 2 => 16 | 3 => 8 | 4 => 8 | 5 => 8 | 6 => 6 | 7 => 4 | 8 => 32 | 9 => 32 | 10 => 16 | _ => 8

/-- The exact value of an element of a floating or MX format, with the scale of its block (R97, R102). -/
def elemValue (fmt bits scale : Nat) : FVal :=
  if isMx fmt then mxValue (mxBits fmt) (signedOf (mxBits fmt) bits) scale else decodeF fmt bits

/-- The format is an integer format: s32, n32, s16, s8, n8. -/
def isInt (fmt : Nat) : Bool := decide (8 ≤ fmt)

/-- The 32-bit word of an integer element, sign- or zero-extended (R120). -/
def intWord (fmt bits : Nat) : Nat :=
  match fmt with
  | 10 => toBits 32 (signedOf 16 bits)
  | 11 => toBits 32 (signedOf 8 bits)
  | _ => bits % 2 ^ 32

end Sys2Proof.Machine
end

