-- ==== Sys2Proof/Machine/Rime.lean ====
section
/-! DEFINITION. Rime: sums of tiles and lines, and their comparison (06, R120, R121, R134). -/
namespace Sys2Proof.Machine

/-- A tile's element as rime sums it: an exact value, or a 32-bit word (R120). -/
inductive RVal where
  | f (v : FVal)
  | w (n : Nat)
  deriving DecidableEq, Repr

/-- The element of a format with its block's scale as rime sums it (R120). -/
def rimeValue (fmt bits scale : Nat) : RVal := if isInt fmt then .w (intWord fmt bits) else .f (elemValue fmt bits scale)

/-- The sum of two values: one RNE rounding to FP32, or modulo 2^32 (R120). -/
def RVal.sum (a b : RVal) : RVal :=
  match a, b with
  | .f x, .f y => .f (decodeF 0 (roundF 0 .rne false (x.add .rne y)))
  | .w x, .w y => .w ((x + y) % 2 ^ 32)
  | _, _ => b

/-- The 32 bits of a sum. -/
def RVal.bits (a : RVal) : Nat := match a with | .f x => roundF 0 .rne false x | .w n => n

/-- The sum of a line, in increasing order (R120). -/
def lineSum (l : List RVal) : Nat :=
  match l with
  | [] => 0
  | a :: l => (l.foldl RVal.sum a).bits

/-- The element of a list of rows. -/
def cellOf {α : Type} (e : List (List α)) (i j : Nat) (d : α) : α := (e.getD i []).getD j d

/-- The rime of a tile: row sums, then column sums (R120). -/
def formRime (e : List (List RVal)) : List Nat :=
  e.map lineSum ++ (List.range 32).map fun j => lineSum (e.map fun r => r.getD j (.w 0))

/-- The canonical NaN of FP32 (R99). -/
def nanSum : Nat := 0x7FC00000

/-- The sums of a tile with the canonical NaN in every line that crosses a damaged element (R383). -/
def hurtLines (hurt : Nat → Nat → Bool) (sums : List Nat) : List Nat :=
  sums.zipIdx.map fun p =>
    if (List.range 32).any (fun n => if p.2 < 32 then hurt p.2 n else hurt n (p.2 - 32)) then nanSum else p.1

/-- The outcome of a line's comparison (R121, R134). -/
inductive LineSt where
  | pass | bad | unchecked
  deriving DecidableEq, Repr

/-- The exact sum of a list of values. -/
def exactSum (l : List FVal) : FVal := l.foldl (FVal.add .rne) FVal.zero

/-- ceil(log2 n) for n at least 1. -/
def ceilLog2 (n : Nat) : Nat := if n ≤ 1 then 0 else (n - 1).log2 + 1

/-- The exponent T of a tolerance: a base less a loss, at least 1 (R134). -/
def tolT (base loss : Nat) : Nat := max 1 (base - loss)

/-- The tolerance base: TOLB, else BASE of RIMETOL, else 22 (R134). -/
def tolBase (tolb : Nat) (rimetol : Word) : Nat :=
  if tolb ≠ 0 then tolb else if rimetol.toNat % 32 ≠ 0 then rimetol.toNat % 32 else 22

/-- The difference of two values exceeds 2^(-T) × (|a| + 32 × m). -/
def exceeds (t : Nat) (a e m : FVal) : Bool :=
  let d := (a.add .rne e.opp).abs
  let tau := (a.abs.add .rne (m.scale 5)).scale (-(t : Int))
  tau.lt d

/-- The comparison of a line with its expected sum (R134): float lines within the tolerance, integer lines equal. -/
def checkLine (t : Nat) (l : List RVal) (expected : Nat) : LineSt :=
  match l with
  | .w _ :: _ => if lineSum l = expected then .pass else .bad
  | _ =>
    let vs := l.filterMap fun x => match x with | .f v => some v | .w _ => none
    let e := decodeF 0 expected
    let nan := vs.any FVal.isNan
    let a := exactSum vs
    let m := maxAbs vs
    if nan || a.isNan || a.isInf || m.isInf || e.isNan || e.isInf then .unchecked
    else if exceeds t a e m then .bad else .pass

/-- The lines of a tile compared with a rime entry: row results, then column results (R133). -/
def checkTile (t : Nat) (e : List (List RVal)) (rime : List Nat) : List LineSt :=
  (List.range 32).map (fun i => checkLine t (e.getD i []) (rime.getD i 0))
    ++ (List.range 32).map fun j => checkLine t (e.map fun r => r.getD j (.w 0)) (rime.getD (32 + j) 0)

/-- How many lines passed unchecked (R121). -/
def unchecked (l : List LineSt) : Nat := l.countP (· == .unchecked)

/-- The numbers of the bad lines among the first n. -/
def badLines (l : List LineSt) : List Nat := (List.range l.length).filter fun i => l.getD i .pass == .bad

/-- One step of a lane's generator (R108). -/
def lfsrStep (x : Nat) : Nat :=
  let x := Nat.xor x (x * 2 ^ 13 % 2 ^ 32)
  let x := Nat.xor x (x / 2 ^ 17)
  Nat.xor x (x * 2 ^ 5 % 2 ^ 32)

/-- The seed of a lane's generator (R108). -/
def lfsrSeed (seed g l : Nat) : Nat :=
  let x := Nat.xor (seed % 2 ^ 32) ((g * 32 + l) * 0x9E3779B9 % 2 ^ 32)
  if x = 0 then 0x6D2B79F5 else x

end Sys2Proof.Machine
end

