-- ==== Sys2Proof/Machine/Shape.lean ====
section
/-! DEFINITION. Shape records: layout, validity, element addresses, scales and rime entries (04, R87 to R95). -/
namespace Sys2Proof.Machine

/-- A shape record (R87). -/
structure Shape where
  base : Nat
  fmt : Nat
  rank : Nat
  rime : Nat
  space : Nat
  fill : Nat
  ext : List Nat
  str : List Int
  trows : Nat
  tcols : Nat
  rowdim : Nat
  coldim : Nat
  clip : Nat
  rimebase : Nat
  mxbase : Nat
  mxstride : Int
  idxbase : Nat
  idxfmt : Nat
  idxcount : Nat
  deriving DecidableEq, Repr

/-- A little-endian field of a list of bytes. -/
def byteNum (b : List Byte) (off n : Nat) : Nat := leNat ((b.drop off).take n)

/-- The record that 192 bytes hold (R87). -/
def Shape.parse (b : List Byte) : Shape where
  base := byteNum b 0 8
  fmt := byteNum b 8 1
  rank := byteNum b 9 1
  rime := byteNum b 10 1
  space := byteNum b 11 1
  fill := byteNum b 12 4
  ext := (List.range 5).map fun n => if n < byteNum b 9 1 then byteNum b (0x10 + 4 * n) 4 else 1
  str := (List.range 5).map fun n => signedOf 64 (byteNum b (0x28 + 8 * n) 8)
  trows := byteNum b 0x50 2
  tcols := byteNum b 0x52 2
  rowdim := byteNum b 0x54 1
  coldim := byteNum b 0x55 1
  clip := byteNum b 0x56 1
  rimebase := byteNum b 0x58 8
  mxbase := byteNum b 0x60 8
  mxstride := signedOf 64 (byteNum b 0x68 8)
  idxbase := byteNum b 0x70 8
  idxfmt := byteNum b 0x78 1
  idxcount := byteNum b 0x7C 4

/-- A block extent: 32 to 256, a multiple of 32 (R87). -/
def blockDimOk (n : Nat) : Bool := decide (32 ≤ n ∧ n ≤ 256 ∧ n % 32 = 0)

/-- The record's bytes break a rule of R95. -/
def shapeBad (b : List Byte) : Bool :=
  let r := Shape.parse b
  decide (r.fmt > 0x0C ∨ r.rime > 2 ∨ r.space > 3 ∨ r.clip > 1 ∨ r.idxfmt > 2 ∨ r.rank < 1 ∨ r.rank > 5)
    || decide (r.rowdim ≥ r.rank ∧ r.rowdim ≠ 0xFF) || decide (r.coldim ≥ r.rank) || r.rowdim == r.coldim
    || !blockDimOk r.trows || !blockDimOk r.tcols
    || (isMx r.fmt && decide (r.rowdim ≠ 0 ∧ r.coldim ≠ 0))
    || byteNum b 0x24 4 != 0 || byteNum b 0x57 1 != 0 || byteNum b 0x79 3 != 0
    || (decide (r.rime ≠ 0) && decide (r.rimebase % 256 ≠ 0))

/-- A block coordinate: row block, column block and linear index (R89). -/
structure Coord where
  rb : Nat
  cb : Nat
  t : Nat
  deriving DecidableEq, Repr

/-- The coordinate of a word (R89). -/
def Coord.of (w : Word) : Coord := ⟨w.toNat % 2 ^ 16, w.toNat / 2 ^ 16 % 2 ^ 16, w.toNat / 2 ^ 32⟩

/-- The linear index spread over the dimensions that are neither rows nor columns, and what is left of it (R89). -/
def spreadIndex (r : Shape) (ds : List Nat) (t : Nat) : List (Nat × Nat) × Nat :=
  match ds with
  | [] => ([], t)
  | d :: ds =>
    if d = r.rowdim ∨ d = r.coldim then spreadIndex r ds t
    else
      let e := r.ext.getD d 1
      let (l, rest) := spreadIndex r ds (if e = 0 then t else t / e)
      ((d, if e = 0 then 0 else t % e) :: l, rest)

/-- The entry of an index list as RowIndex takes it (R90): y0 is the first entry read. -/
def Shape.rowIndex (r : Shape) (y0 : Nat) (list : List Nat) (y : Nat) : Option Nat :=
  if r.idxfmt = 0 then some y
  else
    let e := list.getD (y - y0) 0xFFFFFFFF
    if y ≥ r.idxcount ∨ e ≥ r.ext.getD r.rowdim 1 ∨ (r.idxfmt = 1 ∧ e = 0xFFFFFFFF) then none else some e

/-- The position of a block element along the row and column dimensions before index-list lookup (R89). -/
def Shape.rowPos (r : Shape) (c : Coord) (i : Nat) : Nat := c.rb * r.trows + i

/-- The coordinates of block element (i, j), and whether it is in extent (R89). -/
def Shape.coords (r : Shape) (c : Coord) (row : Nat → Option Nat) (i j : Nat) : Bool × List Nat :=
  let linear := r.rowdim = 0xFF
  let ri := if linear then some 0 else row (r.rowPos c i)
  let colX := if linear then c.cb * r.trows * r.tcols + i * r.tcols + j else c.cb * r.tcols + j
  let (l, rest) := spreadIndex r (List.range r.rank) c.t
  let x (d : Nat) : Nat :=
    if d = r.coldim then colX else if d = r.rowdim then ri.getD 0 else ((l.find? fun p => p.1 == d).map (·.2)).getD 0
  let xs := (List.range 5).map fun d => if d < r.rank then x d else 0
  (ri.isSome && rest == 0 && decide (c.rb < 65536 ∧ c.cb < 65536) && (!decide linear || c.rb == 0)
      && (List.range r.rank).all (fun d => decide (xs.getD d 0 < r.ext.getD d 1)), xs)

/-- MX elements stand one to a byte in the C space (R92, R102; DEDUCED, log 19). -/
def Shape.packed (r : Shape) : Bool := (r.fmt == 6 || r.fmt == 7) && r.space != 1

/-- The byte offset and the bit of dimension 0's element (R89). -/
def Shape.colOffset (r : Shape) (x : Nat) : Int × Nat :=
  if r.packed then (if r.fmt = 7 then ((x / 2 : Nat), 4 * (x % 2)) else ((3 * (x / 4) + 6 * (x % 4) / 8 : Nat), 6 * (x % 4) % 8))
  else if r.fmt = 6 ∨ r.fmt = 7 then ((x : Int), 0)
  else ((x : Int) * r.str.getD 0 0, 0)

/-- The bytes that an element's bits touch. -/
def Shape.span (r : Shape) (bit : Nat) : Nat :=
  if r.packed then (bit + elemBits r.fmt + 7) / 8 else (elemBits r.fmt + 7) / 8

/-- The address, exact and unbounded (R9), and the bit of the element at given coordinates (R89). -/
def Shape.addr (r : Shape) (xs : List Nat) : Int × Nat :=
  let (o, bit) := r.colOffset (xs.getD 0 0)
  ((List.range 4).foldl (fun a d => a + (xs.getD (d + 1) 0 : Int) * r.str.getD (d + 1) 0) ((r.base : Int) + o), bit)

/-- An exact address as the 64-bit field of a record holds it (R9, R379). -/
def addrWord (a : Int) : Word := BitVec.ofInt 64 a

/-- The bytes of a die's scratchpad that the expert slots take (R75). -/
def State.slotArea (s : State) : Nat := (64 * s.hub.slotsz + 2 ^ 20 - 1) / 2 ^ 20 * 2 ^ 20

/-- The key of a byte of an expert slot of a die (R302). -/
def State.slotKey (s : State) (die slot off : Nat) : Nat := dKey die (2 ^ 26 - s.slotArea + slot * s.hub.slotsz + off)

/-- The key of a byte of a space of a core in a context, or the reason that it has none (R381). -/
def State.spaceKeyAt (s : State) (core ctx : Nat) (sp : Space) (a : Word) (acc : Acc) : Except Nat Nat :=
  if sp = .g then (s.translate ctx a acc).map Target.key
  else match s.chipKey core ctx sp a.toNat with | some k => .ok k | none => .error 5

/-- The keys of n bytes at an address of a space of a core in a context, or the reason and the first address that fails. -/
def State.spanKeys (s : State) (core ctx : Nat) (sp : Space) (a : Word) (n : Nat) (acc : Acc) : Except (Nat × Word) (List Nat) :=
  match n with
  | 0 => .ok []
  | n + 1 =>
    match s.spaceKeyAt core ctx sp a acc, s.spanKeys core ctx sp (a + 1) n acc with
    | .error e, _ => .error (e, a)
    | .ok _, .error e => .error e
    | .ok k, .ok ks => .ok (k :: ks)

/-- Where a block lies: its record, the core and context that resolve its space, the coordinate and the row lookup. -/
structure Block where
  r : Shape
  core : Nat
  ctx : Nat
  c : Coord
  y0 : Nat
  list : List Nat
  deriving DecidableEq, Repr

/-- The coordinates of an element of a block. -/
def Block.at (b : Block) (i j : Nat) : Bool × List Nat := b.r.coords b.c (b.r.rowIndex b.y0 b.list) i j

/-- The record names an expert slot (R304). -/
def Shape.inSlot (r : Shape) : Bool := r.space == 3 && decide (r.base / 2 ^ 63 % 2 = 1)

/-- The slot that such a record names. -/
def Shape.slotNo (r : Shape) : Nat := r.base / 2 ^ 32 % 64

/-- The keys of bytes of the slot that a record names, for a read: every address of the record lies in that slot, inside SLOTSZ (R304;
DEDUCED, log 48). -/
def State.slotSpan (s : State) (r : Shape) (core a n : Nat) (acc : Acc) : Except (Nat × Word) (List Nat) :=
  let off := a % 2 ^ 32
  if acc ≠ .read ∨ r.base / 2 ^ 38 % 2 ^ 25 ≠ 0 ∨ a / 2 ^ 32 ≠ r.base / 2 ^ 32 then .error (7, BitVec.ofNat 64 a)
  else if s.hub.slotsz < off + n then .error (7, BitVec.ofNat 64 (a - off + max off s.hub.slotsz))
  else .ok ((List.range n).map fun i => s.slotKey (dieOf core) r.slotNo (off + i))

/-- The keys of n bytes at an exact address of a record's space, or the reason and the address that fails: an address that 64 bits do not
hold is out of map (R95). -/
def State.recKeys (s : State) (r : Shape) (core ctx : Nat) (a : Int) (n : Nat) (acc : Acc) : Except (Nat × Word) (List Nat) :=
  if a < 0 ∨ 2 ^ 64 ≤ a then .error (if r.space = 0 then 0 else if r.inSlot then 7 else 5, addrWord a)
  else if r.inSlot then s.slotSpan r core a.toNat n acc
  else s.spanKeys core ctx (cmSpace r.space) (addrWord a) n acc

/-- The keys of n bytes at an address of a block's space. -/
def State.blkKeys (s : State) (b : Block) (a : Int) (n : Nat) (acc : Acc) : Except (Nat × Word) (List Nat) := s.recKeys b.r b.core b.ctx a n acc

/-- The block's record names an expert slot of another context (R304): judged when its addresses are translated. -/
def State.slotForeign (s : State) (r : Shape) (core ctx : Nat) : Bool :=
  r.inSlot && ((s.die (dieOf core)).experts.get r.slotNo Expert.empty).ctx != ctx

/-- The bytes of an in-extent element, with its bit. -/
def State.elemKeys (s : State) (b : Block) (acc : Acc) (xs : List Nat) : Except (Nat × Word) (List Nat × Nat) :=
  let (a, bit) := b.r.addr xs
  (s.blkKeys b a (b.r.span bit) acc).map fun ks => (ks, bit)

/-- The element positions of a block in row-major order. -/
def Block.cells (b : Block) : List (Nat × Nat) :=
  (List.range b.r.trows).flatMap fun i => (List.range b.r.tcols).map fun j => (i, j)

/-- Every element is in extent. -/
def Block.whole (b : Block) : Bool := b.cells.all fun p => (b.at p.1 p.2).1

/-- The address of the scale of the block element with given coordinates (R92). -/
def Shape.scaleAddr (r : Shape) (xs : List Nat) : Int :=
  let e (n : Nat) : Nat := r.ext.getD n 1
  let x (n : Nat) : Nat := xs.getD n 0
  let sidx := x 1 + e 1 * (x 2 + e 2 * (x 3 + e 3 * x 4))
  (r.mxbase : Int) + (x 0 / 32 : Nat) + (sidx : Int) * r.mxstride

/-- The coordinates of the first element of an element's scale block: dimension 0 rounded down to 32 (R92). -/
def Block.scaleAt (b : Block) (i j : Nat) : Bool × List Nat :=
  if b.r.coldim = 0 then b.at i (j / 32 * 32) else b.at (i / 32 * 32) j

/-- The address of the rime entry of a block's tile, exact (R9, R93). -/
def Block.rimeAddr (b : Block) (ti tj : Nat) : Nat :=
  let r := b.r
  let n :=
    if r.rowdim = 0xFF then
      let nb := (r.ext.getD r.coldim 1 + r.trows * r.tcols - 1) / (r.trows * r.tcols)
      ((b.c.t * nb + b.c.cb) * (r.trows / 32) + ti) * (r.tcols / 32) + tj
    else
      let er := r.ext.getD r.rowdim 1
      let ec := r.ext.getD r.coldim 1
      (b.c.t * ((er + 31) / 32) + r.rowPos b.c (32 * ti) / 32) * ((ec + 31) / 32) + (b.c.cb * r.tcols + 32 * tj) / 32
  r.rimebase + n * 256

/-- The tiles of a block in row-major order. -/
def Block.tiles (b : Block) : List (Nat × Nat) :=
  (List.range (b.r.trows / 32)).flatMap fun i => (List.range (b.r.tcols / 32)).map fun j => (i, j)

/-- The product of the extents that the linear index runs over (R89). -/
def Shape.linearCount (r : Shape) : Nat :=
  (List.range r.rank).foldl (fun n d => if d = r.rowdim ∨ d = r.coldim then n else n * r.ext.getD d 1) 1

/-- A tile of a block has an entry of its own: its place, before index-list lookup, is one that the formula of R93 gives to no other tile
(DEDUCED, log 20). -/
def Block.tileIn (b : Block) (ti tj : Nat) : Bool :=
  let r := b.r
  decide (b.c.t < r.linearCount) &&
    (if r.rowdim = 0xFF then
      decide (b.c.rb = 0 ∧ b.c.cb < (r.ext.getD r.coldim 1 + r.trows * r.tcols - 1) / (r.trows * r.tcols))
    else decide (r.rowPos b.c (32 * ti) < r.ext.getD r.rowdim 1 ∧ b.c.cb * r.tcols + 32 * tj < r.ext.getD r.coldim 1))

/-- The first fault of a block's addresses: element number, reason and address (R270, R380). Elements in row-major order, then
scales, then rime entries. -/
def State.blockFault (s : State) (b : Block) (acc : Acc) (rimeAcc : Option Acc) : Option (Nat × Nat × Word) :=
  let elem (p : Nat × Nat) : Option (Nat × Nat × Word) :=
    let (ok, xs) := b.at p.1 p.2
    if !ok then none
    else if s.slotForeign b.r b.core b.ctx then some (p.1 * b.r.tcols + p.2, 7, addrWord (b.r.addr xs).1)
    else match s.elemKeys b acc xs with
      | .ok _ => none
      | .error (r, a) => some (p.1 * b.r.tcols + p.2, r, a)
  let scale (p : Nat × Nat) : Option (Nat × Nat × Word) :=
    if !(isMx b.r.fmt) || !(b.at p.1 p.2).1 then none
    else match s.blkKeys b (b.r.scaleAddr (b.at p.1 p.2).2) 1 acc with
      | .ok _ => none
      | .error (r, a) => some (p.1 * b.r.tcols + p.2, r, a)
  let rime (p : Nat × Nat) : Option (Nat × Nat × Word) :=
    match rimeAcc with
    | none => none
    | some ra =>
      if !b.tileIn p.1 p.2 then none
      else match s.blkKeys b (b.rimeAddr p.1 p.2) 256 ra with
        | .ok _ => none
        | .error (r, a) => some (32 * p.1 * b.r.tcols + 32 * p.2, r, a)
  match b.cells.findSome? elem with
  | some x => some x
  | none =>
    match b.cells.findSome? scale with
    | some x => some x
    | none => b.tiles.findSome? rime

/-- The FILL bits of an element's format (R91). -/
def Shape.fillBits (r : Shape) : Nat := r.fill % 2 ^ elemBits r.fmt

/-- The bits of an element in memory. -/
def State.elemGet (s : State) (fmt : Nat) (ks : List Nat × Nat) : Nat :=
  leNat (ks.1.map (Memory.read s.mem)) / 2 ^ ks.2 % 2 ^ elemBits fmt

/-- The bytes of an element with new bits, over those that stand; in a byte container an MX element is sign-extended (R92). -/
def Shape.elemBytes (r : Shape) (stand : Nat → Byte) (ks : List Nat × Nat) (v : Nat) : List (Nat × Byte) :=
  let n := ks.1.length
  let w := elemBits r.fmt
  let old := leNat (ks.1.map stand)
  let new :=
    if r.packed then old - old / 2 ^ ks.2 % 2 ^ w * 2 ^ ks.2 + v % 2 ^ w * 2 ^ ks.2
    else if isMx r.fmt then toBits 8 (signedOf w v)
    else v
  ks.1.zip (leBytes n new)

/-- The scale of an element's block: from memory where the scale block is partly in extent, else FILL[15:8] (R92). -/
def State.readScale (s : State) (b : Block) (acc : Acc) (i j : Nat) : Nat :=
  let (ok, xs) := b.scaleAt i j
  if !ok then b.r.fill / 256 % 256
  else match s.blkKeys b (b.r.scaleAddr xs) 1 acc with
    | .ok [k] => (Memory.read s.mem k).toNat
    | _ => 0

/-- Bytes written at keys by an engine; granules wholly written lose their poison (R385). -/
def State.putKeys (s : State) (l : List (Nat × Byte)) : State :=
  (l.foldl (fun s p => s.put p.1 [p.2]) s).heal (l.map (·.1))

/-! Index lists (R90). -/

/-- Bytes of an entry of an index list. -/
def Shape.idxBytes (r : Shape) : Nat := if r.idxfmt = 1 then 4 else 2

/-- The keys of the list entries of a block's rows that are below IDXCOUNT, or the row, reason and address of the first fault; in an expert
slot whatever context it has passed to (R304). -/
def State.listKeys (s : State) (core ctx : Nat) (r : Shape) (y0 : Nat) : Except (Nat × Nat × Word) (List (List Nat)) :=
  let rows := (List.range r.trows).filter fun n => y0 + n < r.idxcount
  let row (n : Nat) : Except (Nat × Nat × Word) (List Nat) :=
    match s.recKeys r core ctx (r.idxbase + (y0 + n) * r.idxBytes : Nat) r.idxBytes .read with
    | .ok ks => .ok ks
    | .error (e, a) => .error (n, e, a)
  rows.foldr (fun n acc => match row n, acc with | .error e, _ => .error e | .ok _, .error e => .error e | .ok k, .ok l => .ok (k :: l)) (.ok [])

/-- The list entries translated at issue: the slot of a slot record must be the context's (R90, R304). -/
def State.listIssue (s : State) (core ctx : Nat) (r : Shape) (y0 : Nat) : Except (Nat × Nat × Word) (List (List Nat)) :=
  if s.slotForeign r core ctx && decide (y0 < r.idxcount) then .error (0, 7, BitVec.ofNat 64 (r.idxbase + y0 * r.idxBytes))
  else s.listKeys core ctx r y0

/-- The values of list entries. -/
def State.listVals (s : State) (l : List (List Nat)) : List Nat := l.map fun ks => leNat (ks.map (Memory.read s.mem))

/-! Rime entries in memory with their flags and tags (R93, R122 to R125). -/

/-- An entry of rime as it is carried: 64 sums, UNVER and REFRESH. -/
structure RimeEnt where
  sums : List Nat
  unver : Bool
  refresh : Nat
  deriving DecidableEq, Repr

/-- The tag of an entry of a rime region; reform-pending where none is held (R124). -/
def State.tag (s : State) (key : Nat) : Nat := s.tags.get (key / 256) 0x10

/-- STATE of a tag. -/
def tagState (t : Nat) : Nat := t / 16 % 4

/-- The tag that a whole write leaves: valid, with UNVER and REFRESH. -/
def tagOf (e : RimeEnt) : Nat := e.unver.toNat * 128 + e.refresh % 16

/-- The rime flags of an entry in a C, K or D space: UNVER above REFRESH (R122). -/
def flagsOf (e : RimeEnt) : Nat := e.unver.toNat * 16 + e.refresh % 16

/-- The 256 bytes of an entry. -/
def RimeEnt.bytes (e : RimeEnt) : List Byte := ((List.range 64).map fun n => leBytes 4 (e.sums.getD n 0)).flatten

/-- The entry that 256 bytes and flags stand for. -/
def RimeEnt.ofBytes (b : List Byte) (flags : Nat) : RimeEnt :=
  ⟨(List.range 64).map fun n => byteNum b (4 * n) 4, flags / 16 % 2 == 1, flags % 16⟩

/-- The entry at a key of a C, K or D space, with its flags. -/
def State.rimeAt (s : State) (key : Nat) : RimeEnt := RimeEnt.ofBytes (s.get key 256) (s.rflags.get (key / 256) 0)

/-- The entry of a rime region, with its tag's UNVER and REFRESH. -/
def State.carriedAt (s : State) (key : Nat) : RimeEnt :=
  RimeEnt.ofBytes (s.get key 256) (s.tag key / 128 % 2 * 16 + s.tag key % 16)

/-- A whole entry written with its flags; in the G space with its tag, STATE valid (R122, R127). An entry that a copy carries keeps its REFRESH there too:
R126 says so of a record of RIME 2, where R127 speaks of REFRESH 0 (DEDUCED, log 53). -/
def State.putRime (s : State) (key : Nat) (e : RimeEnt) : State :=
  let s := s.putE key e.bytes
  if 3 ≤ keySpace key ∧ keySpace key ≤ 6 then { s with rflags := s.rflags.set (key / 256) (flagsOf e) }
  else { s with tags := s.tags.set (key / 256) (tagOf e) }

/-- Where a register's value names a record (R87): the G space, or the C space with bits 62:22 zero. -/
def recordPlace (v : Word) : Option (Space × Word) :=
  if v.getLsbD 63 then (if v.toNat / 2 ^ 22 % 2 ^ 41 = 0 then some (.c, v &&& 0x3FFFFF) else none) else some (.g, v)

/-- The bytes in memory of the record that a value names, for a command that is reissued (R274); none where it is out of map. -/
def State.readRec (s : State) (core ctx : Nat) (v : Word) : Option (List Byte) :=
  match recordPlace v with
  | none => none
  | some (sp, a) => (s.spanKeys core ctx sp a 192 .read).toOption.map fun ks => ks.map (Memory.read s.mem)

end Sys2Proof.Machine
end

