-- ==== Sys2Proof/Machine/Carried.lean ====
section
/-! DEFINITION. Carried tensors: partial writes and the reforming of entries (06, R124 to R128; 21, R400). -/
namespace Sys2Proof.Machine

/-- The byte offset and the bit of column j in a row of a carried tensor (R84, R89). -/
def RDesc.colOffset (d : RDesc) (j : Nat) : Nat × Nat :=
  match d.fmt with
  | 7 => (j / 2, 4 * (j % 2))
  | 6 => (3 * (j / 4) + 6 * (j % 4) / 8, 6 * (j % 4) % 8)
  | f => (j * (elemBits f / 8), 0)

/-- The rime descriptor of a region entry. -/
def State.rdesc (s : State) (ctx : Nat) (e : Quad) : Option RDesc := (s.map ctx).rdescs.find (entFld e 80 4)

/-- The region entry of an address that lies in an RC region, whatever accesses that permits (R83). -/
def State.rcRegion (s : State) (ctx : Nat) (a : Int) : Option Quad :=
  let e := s.region ctx (addrWord a)
  if 0 ≤ a ∧ a < 2 ^ 44 ∧ entFld e 71 2 ≠ 0 ∧ entBit e 65 ∧ entFld e 73 4 < 3 then some e else none

/-- The elements that a byte of a row holds bits of: columns (R84). -/
def RDesc.columnsAt (d : RDesc) (o : Nat) : List Nat :=
  match d.fmt with
  | 7 => [2 * o, 2 * o + 1]
  | 6 => (List.range 4).filterMap fun k =>
      let b := 6 * k / 8
      if b ≤ o % 3 ∧ o % 3 ≤ (6 * k + 5) / 8 then some (4 * (o / 3) + k) else none
  | f => [o / (elemBits f / 8)]

/-- The bytes that the elements of a row span. -/
def RDesc.rowBytes (d : RDesc) : Nat :=
  if d.cols = 0 then 0
  else
    let (o, bit) := d.colOffset (d.cols - 1)
    o + (bit + elemBits d.fmt + 7) / 8

/-- The rows that hold the byte at an offset from element (0, 0): with a pitch below a row's bytes, more than one. -/
def RDesc.rowsAt (d : RDesc) (o : Nat) : List Nat :=
  if d.pitch = 0 then (if o < d.rowBytes then List.range d.rows else [])
  else
    let lo := (o + d.pitch - d.rowBytes) / d.pitch
    let hi := min (o / d.pitch + 1) d.rows
    ((List.range (hi - lo)).map (lo + ·)).filter fun i => decide (i * d.pitch ≤ o ∧ o - i * d.pitch < d.rowBytes)

/-- The elements of a tensor that a byte at a virtual address holds bits of (R84). -/
def RDesc.touched (d : RDesc) (va : Nat) : List (Nat × Nat) :=
  if va < d.dbase then []
  else (d.rowsAt (va - d.dbase)).flatMap fun i =>
    ((d.columnsAt (va - d.dbase - i * d.pitch)).filter fun j => decide (j < d.cols)).map fun j => (i, j)

/-- An element put in its place in a list in increasing order of row and column, once. -/
def insertCell (p : Nat × Nat) (l : List (Nat × Nat)) : List (Nat × Nat) :=
  match l with
  | [] => [p]
  | q :: l => if p = q then q :: l else if p.1 < q.1 ∨ (p.1 = q.1 ∧ p.2 < q.2) then p :: q :: l else q :: insertCell p l

/-- The bytes that one piece writes: virtual address, key and byte of each. -/
abbrev Piece := List (Nat × Nat × Byte)

/-- The bytes of a partial write. -/
def Upd.piece (u : Upd) : Piece := u.bytes.zipIdx.map fun p => (u.va.toNat + p.2, u.tgt.key + p.2, p.1)

/-- A byte as a piece has it, else as memory holds it. -/
def State.pieceByte (s : State) (l : Piece) (key : Nat) : Byte :=
  match l.find? fun p => p.2.1 == key with
  | some p => p.2.2
  | none => Memory.read s.mem key

/-- The address and the bit of an element of a tensor (R84). -/
def RDesc.addrOf (d : RDesc) (i j : Nat) : Nat × Nat :=
  let (o, bit) := d.colOffset j
  (d.dbase + i * d.pitch + o, bit)

/-- An element of a tensor as memory holds it, or as a piece would have it. -/
def State.tensorElem (s : State) (ctx : Nat) (d : RDesc) (i j : Nat) (l : Piece) : Nat :=
  let (a, bit) := d.addrOf i j
  let byte (k : Nat) : Byte := match s.locate ctx (BitVec.ofNat 64 (a + k)) with | some t => s.pieceByte l t.key | none => 0
  leNat ((List.range ((bit + elemBits d.fmt + 7) / 8)).map byte) / 2 ^ bit % 2 ^ elemBits d.fmt

/-- The virtual address and the key of the entry of a tile of a tensor (R84), where it lies in the map. -/
def State.entryKey (s : State) (ctx : Nat) (d : RDesc) (ti tj : Nat) : Option (Nat × Word) :=
  let va := BitVec.ofNat 64 (d.rbase + (ti * ((d.cols + 31) / 32) + tj) * 256)
  (s.locate ctx va).map fun t => (t.key, va)

/-- One changed element of a carried tensor: row and column in its tile, the bits and the scale of its block before and after (R127). -/
structure Change where
  i : Nat
  j : Nat
  old : Nat
  new : Nat
  oldScale : Nat
  newScale : Nat
  deriving DecidableEq, Repr

/-- What a partial write does to the entries of its tensor (R127): the changes by entry, key and address; the format, the descriptor, and
whether an old element is damaged. -/
structure Partial where
  groups : List (Nat × Word × List Change)
  fmt : Nat
  desc : Nat
  ctx : Nat
  poisoned : Bool
  deriving DecidableEq, Repr

/-- The scales of an element before and after a write, by its address and bit, where the writer knows them (R127). -/
abbrev Scales := Nat → Nat → Option (Nat × Nat)

/-- The changes that a piece makes to the entries of the tensor of a region as memory stands, in increasing order of row and column (R127). -/
def State.pieceChanges (s : State) (ctx : Nat) (ent : Quad) (l : Piece) (scales : Scales) : Partial :=
  let desc := entFld ent 80 4
  let groups := match s.rdesc ctx ent with
    | none => []
    | some d =>
      let cells := (l.flatMap fun p => d.touched p.1).foldr insertCell []
      let tiles := (cells.map fun p => (p.1 / 32, p.2 / 32)).eraseDups
      tiles.filterMap fun q => (s.entryKey ctx d q.1 q.2).map fun k =>
        (k.1, k.2, (cells.filter fun p => p.1 / 32 == q.1 && p.2 / 32 == q.2).map fun p =>
          let (a, bit) := d.addrOf p.1 p.2
          let free := (Config.tensorScale ctx desc p.1 p.2 s.steps).toNat
          let sc := (scales a bit).getD (free, free)
          (⟨p.1 % 32, p.2 % 32, s.tensorElem ctx d p.1 p.2 [], s.tensorElem ctx d p.1 p.2 l, sc.1, sc.2⟩ : Change))
  ⟨groups, ((s.rdesc ctx ent).map (·.fmt)).getD 0, desc, ctx, l.any fun p => s.damaged p.2.1 1⟩

/-- The changes of partial writes of a core that are one piece; their scales are free (DESIGN CHOICE, log 21). -/
def State.changesOf (s : State) (us : List Upd) : Partial :=
  match us with
  | [] => ⟨[], 0, 0, 0, false⟩
  | u :: _ => s.pieceChanges u.ctx u.tgt.ent (us.flatMap Upd.piece) fun _ _ => none

/-- The exact difference of an element's two values as a sum takes it (R127). -/
def Change.value (c : Change) (fmt : Nat) : RVal :=
  if isInt fmt then .w ((intWord fmt c.new + 2 ^ 32 - intWord fmt c.old) % 2 ^ 32)
  else .f ((elemValue fmt c.new c.newScale).add .rne (elemValue fmt c.old c.oldScale).opp)

/-- A sum as a value of a format's kind. -/
def sumValue (fmt bits : Nat) : RVal := if isInt fmt then .w bits else .f (decodeF 0 bits)

/-- The detail bytes of the records of a lost or reformed entry (R400, R401). -/
def entryRec (code key : Nat) (desc point ctx : Nat) (va : Word) : ErrRec :=
  { mkRec code 0 (locDie 11 (keyDie key)) (leBytes 1 desc ++ leBytes 1 point) (some va) none with ctx := some ctx }

/-- An entry becomes lost, and is reported with its case (R400). -/
def State.loseEntry (s : State) (key desc point ctx : Nat) (va : Word) : State :=
  let tag := s.tag key
  { s with tags := s.tags.set (key / 256) (tag - tagState tag * 16 + 0x20) }.post (entryRec 0x32 key desc point ctx va)

/-- One entry's incremental update (R127): sums and REFRESH; a sixteenth sets reform-pending. A damaged entry (R400) or a poisoned old element
(R385) makes the entry lost, and a lost entry takes no update. -/
def State.applyGroup (s : State) (u : Partial) (g : Nat × Word × List Change) : State :=
  let key := g.1
  let e := s.carriedAt key
  let tag := s.tag key
  if tagState tag = 2 then s
  else if u.poisoned then s.loseEntry key u.desc 1 u.ctx g.2.1
  else if s.damaged key 256 then s.loseEntry key u.desc 0 u.ctx g.2.1
  else
    let sums := g.2.2.foldl (fun (l : List Nat) c =>
      let d := c.value u.fmt
      let l := l.set c.i ((sumValue u.fmt (l.getD c.i 0)).sum d).bits
      l.set (32 + c.j) ((sumValue u.fmt (l.getD (32 + c.j) 0)).sum d).bits) e.sums
    let tag' := if tag % 16 = 15 then tag - tagState tag * 16 + 0x10 - 15 else tag + 1
    let s := s.put key { e with sums := sums }.bytes
    { s with tags := s.tags.set (key / 256) tag' }

/-- A piece of a partial write performed (R128): one update of each entry that it touches, then its data. -/
def State.performPiece (s : State) (ctx : Nat) (ent : Quad) (l : Piece) (scales : Scales) : State :=
  let p := s.pieceChanges ctx ent l scales
  l.foldl (fun (s : State) q => s.put q.2.1 [q.2.2]) (p.groups.foldl (fun s g => s.applyGroup p g) s)

/-- Partial writes of a core that are one piece performed (R127, R145): one update of each entry, then their data. -/
def State.performUpds (s : State) (us : List Upd) : State :=
  let p := s.changesOf us
  us.foldl (fun (s : State) u => s.put u.tgt.key u.bytes) (p.groups.foldl (fun s g => s.applyGroup p g) s)

/-- A partial write of one run performed. -/
def State.performUpd (s : State) (u : Upd) : State := s.performUpds [u]

/-- Bytes written at a translated address, through the entries of a carried tensor where the region is one. -/
def State.putTarget (s : State) (ctx : Nat) (va : Word) (t : Target) (bs : List Byte) : State :=
  if t.rc then s.performUpd ⟨va, t, bs, ctx, none, 0, false⟩ else s.put t.key bs

/-! Reading carried entries (R125, R401). -/

/-- The entry of a carried tile as a reader gets it (R125): a reform-pending or lost entry is formed from the sums of the tile's data
first; a lost one is reported with its descriptor and check point (R401), as is one whose bytes are damaged (R400). Answers the entry,
whether it was formed, and the state. -/
def State.readCarried (s : State) (ctx desc point : Nat) (va : Word) (key : Nat) (sums : List Nat) : RimeEnt × Bool × State :=
  let s := if tagState (s.tag key) = 0 ∧ s.damaged key 256 then s.loseEntry key desc 2 ctx va else s
  if tagState (s.tag key) = 0 then (s.carriedAt key, false, s)
  else
    let lost := tagState (s.tag key) = 2
    let e : RimeEnt := ⟨sums, false, 0⟩
    let s := s.putRime key e
    (e, true, if lost then s.post (entryRec 0x33 key desc point ctx va) else s)

/-- The offset of a key in the target of a region entry (R79). -/
def physOf (e : Quad) (key : Nat) : Option Nat :=
  let page (n : Nat) (off : Nat) : Nat := n * 4096 + off % 4096
  let off := key % 2 ^ 40
  match entFld e 73 4, keySpace key with
  | 0, 0 => some (page (off / 4096 * 24 + keyStack key) off)
  | 1, 0 => some (page (off / 4096 * 3 + keyStack key % 3) off)
  | 2, 1 => some (key % 2 ^ 80)
  | _, _ => none

/-- The virtual addresses of a context that a byte of memory has. -/
def State.vasOf (s : State) (ctx key : Nat) : List Nat :=
  (s.map ctx).regions.flatMap fun r =>
    match physOf r.2 key with
    | none => []
    | some a =>
      let l := if entFld r.2 71 2 = 1 then [(a + 2 ^ 64 - entFld r.2 0 64) % 2 ^ 64]
        else (s.map ctx).pages.filterMap fun p =>
          if p.1 / 2048 = entFld r.2 0 3 ∧ p.2.toNat / 2 ^ 21 = a / 2 ^ 21 then some (p.1 % 2048 * 2 ^ 21 + a % 2 ^ 21) else none
      (l.filter (· < 2 ^ 32)).map (r.1 * 2 ^ 32 + ·) |>.filter fun va =>
        (s.locate ctx (BitVec.ofNat 64 va)).any fun t => t.key == key

/-- The tile of a carried tensor whose entry holds a virtual address: descriptor, its number, the tile (R84). -/
def CtxMap.tileAt (m : CtxMap) (va : Nat) : Option (Nat × RDesc × Nat × Nat) :=
  m.rdescs.findSome? fun p =>
    let d := p.2
    let per := (d.cols + 31) / 32
    let n := (va - d.rbase) / 256
    if d.rbase ≤ va ∧ n < (d.rows + 31) / 32 * per then some (p.1, d, n / per, n % per) else none

/-- An entry of a carried tensor that its next reader finds to be formed: context, descriptor number, descriptor, tile and address (R125). -/
structure Unformed where
  ctx : Nat
  desc : Nat
  d : RDesc
  ti : Nat
  tj : Nat
  va : Nat
  deriving DecidableEq, Repr

/-- A 256-byte unit of the memory holds an entry that is reform-pending, lost or damaged, of a rime region that a descriptor names. -/
def State.unformed (s : State) (unit : Nat) : Option Unformed :=
  if 1 < keySpace (unit * 256) ∨ (tagState (s.tag (unit * 256)) = 0 ∧ s.damaged (unit * 256) 256 = false) then none
  else (List.range 16).findSome? fun c => (s.vasOf c (unit * 256)).findSome? fun va =>
    ((s.map c).tileAt va).map fun q => ⟨c, q.1, q.2.1, q.2.2.1, q.2.2.2, va⟩

/-- The sums of a tile of a carried tensor from its data, past its edge and for its scales as log 21 says (R120, R401). -/
def State.tensorSums (s : State) (u : Unformed) : List Nat :=
  let inside (i j : Nat) : Bool := decide (32 * u.ti + i < u.d.rows ∧ 32 * u.tj + j < u.d.cols)
  let bits (i j : Nat) : Nat := if inside i j then s.tensorElem u.ctx u.d (32 * u.ti + i) (32 * u.tj + j) [] else Config.edgeFill u.ctx u.desc
  let scale (i j : Nat) : Nat := (Config.tensorScale u.ctx u.desc (32 * u.ti + i) (32 * u.tj + j) s.steps).toNat
  let hurt (i j : Nat) : Bool := inside i j &&
    (match s.locate u.ctx (BitVec.ofNat 64 (u.d.addrOf (32 * u.ti + i) (32 * u.tj + j)).1) with
     | some t => s.damaged t.key ((elemBits u.d.fmt + 7) / 8)
     | none => false)
  let tile : List (List RVal) := (List.range 32).map fun i => (List.range 32).map fun j => rimeValue u.d.fmt (bits i j) (scale i j)
  hurtLines hurt (formRime tile)

/-- Bytes of memory about to be read by a path that is no copy and no check: the entries among them that demand it are formed first (R125). The
check point of a lost one's record is free (DESIGN CHOICE, log 49). -/
def State.reform (s : State) (keys : List Nat) : State :=
  ((keys.filter (keySpace · ≤ 1)).map (· / 256)).eraseDups.foldl (fun (s : State) n =>
    match s.unformed n with
    | none => s
    | some u => (s.readCarried u.ctx u.desc (Config.freeByte s.steps n).toNat (BitVec.ofNat 64 u.va) (n * 256) (s.tensorSums u)).2.2) s

end Sys2Proof.Machine
end

