-- ==== Sys2Proof/Machine/Locks.lean ====
section
/-! DEFINITION. What a core-path access meets: bytes held in the core's own gate (07, R141), banks locked by tile transfers
(R157), sources of copy-outs still to be read (12, R276), lines parked at a slice (20, R387), logical times (R142). -/
namespace Sys2Proof.Machine

/-- Module number, core number, cluster and die fields of a register in the layout of COREID (R67). -/
def coreidModule (w : Word) : Nat := w.toNat / 2 ^ 16 % 2048

/-- See `coreidModule`. -/
def coreidCore (w : Word) : Nat := w.toNat % 512

/-- The block that an X command reads (R277). -/
def XCmd.src (x : XCmd) : Block :=
  let r := Shape.parse x.srec
  let c := Coord.of x.sc
  ⟨r, x.org.core.getD 0, x.org.ctx, c, c.rb * r.trows, x.list⟩

/-- The core whose spaces the destination of an X command names: the target of XPUT and XCOLL, else the issuer (R283, R284). -/
def XCmd.dstCore (x : XCmd) : Nat :=
  match x.instr with
  | .xput _ _ | .xcoll _ _ _ _ => coreidCore x.e1
  | _ => x.org.core.getD 0

/-- The block that an X command writes. -/
def XCmd.dst (x : XCmd) : Block :=
  let r := Shape.parse x.drec
  let c := Coord.of x.dc
  ⟨r, x.dstCore, x.org.ctx, c, c.rb * r.trows, x.list⟩

/-- The command is a block move or a fill with a destination in this module. -/
def XCmd.moves (x : XCmd) (module : Nat) : Bool :=
  match x.instr with
  | .xcopy _ | .xgath _ | .xscat _ | .xfill _ => true
  | .xput _ _ | .xcoll _ _ _ _ => coreidModule x.e1 == module
  | _ => false

/-- The keys of the elements and scales of a block that are in extent. -/
def State.dataKeys (s : State) (b : Block) (acc : Acc) : List Nat :=
  b.cells.flatMap fun p =>
    let (ok, xs) := b.at p.1 p.2
    let scale := if isMx b.r.fmt then (s.blkKeys b (b.r.scaleAddr xs) 1 acc).toOption.getD [] else []
    if !ok then [] else match s.elemKeys b acc xs with | .ok (ks, _) => ks ++ scale | .error _ => []

/-- The keys of a block's rime entries, where it has them. -/
def State.rimeKeys (s : State) (b : Block) (acc : Acc) : List Nat :=
  if b.r.rime = 0 then [] else (b.tiles.filter fun p => b.tileIn p.1 p.2).flatMap fun p =>
    (s.blkKeys b (b.rimeAddr p.1 p.2) 256 acc).toOption.getD []

/-- The keys of a block: elements, scales and rime entries. -/
def State.blockKeys (s : State) (b : Block) (acc : Acc) : List Nat := s.dataKeys b acc ++ s.rimeKeys b acc

/-- A block as it is read: only a record of RIME 2 has its entries read (R93). -/
def Block.asRead (b : Block) : Block := { b with r := { b.r with rime := if b.r.rime = 2 then 2 else 0 } }

/-- Bytes of an element in the C space: two for 16-bit formats, four for 32-bit ones, else one container byte (R254, R263). -/
def cBytes (fmt : Nat) : Nat := if fmt = 0 then 4 else if fmt ≤ 2 then 2 else 1

/-- OFMT of a format entry (R116). -/
def fmtOut (f : Quad) : Nat := f.toNat / 2 ^ 16 % 256

/-- The C-space byte ranges that an M command writes in the issuing core: MSTS and MDRAIN (R256, R263). An MSTS holds the bytes of
a row and of the scales it writes beside its registers. -/
def MCmd.cWrites (m : MCmd) : List (Nat × Nat) :=
  let v (n : Nat) : Nat := (m.vals.getD n 0).toNat
  match m.instr with
  | .msts _ _ _ _ _ pitch => (List.range 32).map (fun i => (v 0 + i * pitch.toNat * 32, v 3)) ++ [(v 1, 256), (v 2, v 4)]
  | .mdrain f =>
    let rows := (f.reg.rows.toNat + 1) * 32
    let cols := f.reg.cols.toNat + 1
    let mx := if isMx (fmtOut m.fmt) then [(v 2, rows * cols)] else []
    (List.range rows).map (fun i => (v 0 + i * f.pitch.toNat * 32, 32 * cols * cBytes (fmtOut m.fmt)))
      ++ [(v 1, 256 * (f.reg.rows.toNat + 1) * cols)] ++ mx
  | _ => []

/-- The bank of a C-space offset (R73). -/
def bankOf (off : Nat) : Nat := off / 2 ^ 18 % 16

/-- A field of a flit's header (R334). -/
def flitFld (f : Flit) (lo len : Nat) : Nat := f.header.toNat / 2 ^ lo % 2 ^ len

/-- The core that a flit to a C space names, by its place on the module (R334). -/
def flitCore (f : Flit) : Nat := flitFld f 22 3 * 64 + flitFld f 114 4 * 4 + flitFld f 118 2

/-- A message that is arriving from another module writes to a bank of a core's C space. -/
def State.landsOn (s : State) (core bank : Nat) : Bool :=
  s.landing.any fun f => flitFld f 112 2 == 1 && flitCore f == core
    && decide (bankOf (flitFld f 64 48) ≤ bank ∧ bank ≤ bankOf (flitFld f 64 48 + flitFld f 52 8 - 1))

/-- The bank of a byte of a core's C space is locked by a transfer under way into it (R157). -/
def State.bankLocked (s : State) (core off : Nat) : Bool :=
  let bank := bankOf off
  let x := s.cores.any fun p => p.2.xq.any fun x =>
    x.started && x.moves s.hub.module && x.dstCore == core && (Shape.parse x.drec).space == 1
      && (s.blockKeys x.dst .write).any fun k => keySpace k == 3 && bankOf (k % 2 ^ 22) == bank
  let k := s.core core
  let m := (k.slotq ++ k.arrayq).any fun m => m.cWrites.any fun r =>
    decide (r.2 ≠ 0 ∧ bankOf r.1 ≤ bank ∧ bank ≤ bankOf (r.1 + r.2 - 1))
  x || m || s.landsOn core bank

/-- A byte range meets the keys that a copy-out of an earlier phase has still to read: its reads see the state at the freeze, so a copy-out
of a committed phase counts from its freeze on (R276; DEDUCED, log 38). -/
def State.copyOutReads (s : State) (core : Nat) (keys : List Nat) : Bool :=
  (s.core core).xq.any fun x =>
    x.cout && !x.cur && (s.blockKeys x.src .read).any keys.contains

/-- The parked requests of the slice of a key (R387). -/
def State.queueOf (s : State) (key : Nat) : List Parked :=
  s.parked.filter fun p => keySpace p.req.tgt.key == keySpace key && keyStack p.req.tgt.key == keyStack key
    && keySlice p.req.tgt.key == keySlice key

/-- The lowest free entry of the fault queue of a key's slice; 16 where none is (R387). -/
def State.freeEntry (s : State) (key : Nat) : Nat :=
  let waits (w : Waiting) : Bool := keySpace w.key == keySpace key && keyStack w.key == keyStack key && keySlice w.key == keySlice key
  ((List.range 16).find? fun n => !(s.queueOf key).any (fun p => p.entry == n) && !s.behind.any fun w => waits w && w.entry == n).getD 16

/-- A load or store is discarded from a fault queue (R388). -/
def State.discardWait (s : State) (w : Waiting) (ticks : Nat) : State :=
  (s.post (mkRec 0x19 2 (locSlice w.key) (leBytes 2 w.entry ++ leBytes 1 w.opcode ++ leBytes 1 0 ++ leBytes 4 ticks) (some w.va)
    (some w.org))).cancelTask w.org

/-- A load or store comes to a line that requests are parked at, and takes an entry of the fault queue; without one it is discarded at once
(R387). Answers whether it was. -/
def State.queueUp (s : State) (w : Waiting) : Bool × State :=
  let w := { w with entry := s.freeEntry w.key, tick := s.frame }
  if w.entry ≥ 16 ∨ (s.die (keyDie w.key)).atomwait = 0 then (true, s.discardWait w 0)
  else (false, { s with behind := s.behind ++ [w] }.post
    (mkRec 0x18 0 (locSlice w.key) (leBytes 2 w.entry ++ leBytes 1 w.opcode) (some w.va) (some w.org)))

/-- A load of the bundle in issue waits at the first of its bytes that lies behind a parked request (R387), given with its address; none where no
byte does. -/
def State.waitBehind (s : State) (op : Nat) (l : List (Nat × Word)) : Option State :=
  let c := s.iss.core
  (l.find? fun p => s.behindParked [p.1]).map fun p =>
    if s.behind.any fun w => w.core == c && !w.store && lineOf w.key == lineOf p.1 then s.hold
    else match s.queueUp ⟨c, p.1, p.2, op, 0, 0, false, s.iss.org⟩ with
      | (true, t) => t.faulted
      | (false, t) => t.hold

/-- The bytes of a span with their addresses. -/
def spanned (a : Word) (ks : List Nat) : List (Nat × Word) := ks.zipIdx.map fun p => (p.1, a + BitVec.ofNat 64 p.2)

/-- The bytes of a core's stores that no other party sees yet, oldest first, by key (R141). -/
def State.ownStores (s : State) (core : Nat) : List (Nat × List Byte) :=
  ((s.upds.filter fun u => u.core == some core).map fun u => (u.tgt.key, u.bytes))
    ++ ((s.core core).releasing ++ (s.core core).gate).map fun e => (e.tgt.key, e.bytes)

/-- The bytes on their way to the host, oldest first, by key. -/
def State.hostStores (s : State) : List (Nat × List Byte) :=
  s.hostOut.filterMap fun o => match o with
    | .write _ a bs _ => some (hostKey a, bs)
    | .publish _ a v _ _ _ => some (hostKey a, leBytes 8 v.toNat)
    | .atomic _ => none

/-- The latest of a list of stores that holds a byte. -/
def latestByte (l : List (Nat × List Byte)) (key : Nat) : Option Byte :=
  l.foldl (fun a p => if p.1 ≤ key ∧ key < p.1 + p.2.length then some (p.2.getD (key - p.1) 0) else a) none

/-- The byte that a core's load returns (R141). -/
def State.loadByte (s : State) (core key : Nat) : Byte :=
  (latestByte (s.hostStores ++ s.ownStores core) key).getD (Memory.read s.mem key)

/-- A byte of the load comes from a poisoned granule and not from the core's own stores (R384). -/
def State.loadHurt (s : State) (core : Nat) (keys : List Nat) : Option Nat :=
  keys.find? fun k => s.poison.contains (granule k) && (latestByte (s.ownStores core) k).isNone

/-- The bytes of a load that the core's own stores give, by position (R141). -/
def State.ownBytes (s : State) (core : Nat) (keys : List Nat) : List (Nat × Byte) :=
  keys.zipIdx.filterMap fun p => (latestByte (s.ownStores core) p.1).map fun b => (p.2, b)

/-! Logical times (R142, R143). -/

/-- The order of two 48-bit times by serial arithmetic. -/
def timeBefore (x y : Nat) : Bool := let d := (y + 2 ^ 48 - x) % 2 ^ 48; decide (1 ≤ d ∧ d < 2 ^ 47)

/-- The later of two times. -/
def timeMax (x y : Nat) : Nat := if timeBefore x y then y else x

/-- A load's times: the core comes up to the line's write time, a short lease is extended to the core's time plus 32. -/
def State.loadTime (s : State) (core key : Nat) : State :=
  if keySpace key > 1 then s
  else
    let (w, l) := s.lineTimes.get (lineOf key) (0, 0)
    let t := timeMax (s.core core).ltime w
    let l := if timeBefore l t then (t + 32) % 2 ^ 48 else l
    { s.modCore core fun k => { k with ltime := t } with lineTimes := s.lineTimes.set (lineOf key) (w, l) }

/-- The L2 of a core's die holds a copy of the lines that a load read through a cached region, to the end of their leases (R83, R143). -/
def State.cacheLines (s : State) (core : Nat) (t : Target) (keys : List Nat) : State :=
  if t.ms || decide (2 < t.cls) then s
  else s.modDie (dieOf core) fun d =>
    { d with l2 := keys.foldl (fun (l : Tbl Nat) k => if keySpace k > 1 then l else l.set (lineOf k) (s.lineTimes.get (lineOf k) (0, 0)).2) d.l2 }

/-- A store's time: one past the lease, or the writer's time if that is later; both times of the line and the writer's take it. -/
def State.storeTime (s : State) (core key : Nat) : State :=
  if keySpace key > 1 then s
  else
    let (_, l) := s.lineTimes.get (lineOf key) (0, 0)
    let t := timeMax ((l + 1) % 2 ^ 48) (s.core core).ltime
    { s.modCore core fun k => { k with ltime := t } with lineTimes := s.lineTimes.set (lineOf key) (t, t) }

end Sys2Proof.Machine
end

