-- ==== Sys2Proof/Machine/Flits.lean ====
section
/-! DEFINITION. Flits of the fabric (15, R334): the header's fields, and the sending of messages. -/
namespace Sys2Proof.Machine

/-- The fields of a header that a sender chooses. -/
structure FlitTo where
  dstmod : Nat
  dstdie : Nat
  dstcl : Nat
  dstcore : Nat
  space : Nat
  op : Nat
  kind : Nat
  ctx : Nat
  srcdie : Nat
  deriving DecidableEq, Repr

/-- The 128-bit header (R334). -/
def FlitTo.header (f : FlitTo) (srcmod msgid seq addr len : Nat) (last : Bool) : BitVec 128 :=
  BitVec.ofNat 8 msgid ++ BitVec.ofNat 2 f.dstcore ++ BitVec.ofNat 4 f.dstcl ++ BitVec.ofNat 2 f.space ++ BitVec.ofNat 48 addr
    ++ (0 : BitVec 1) ++ BitVec.ofNat 2 f.op ++ BitVec.ofBool last ++ BitVec.ofNat 8 len ++ (0 : BitVec 1)
    ++ BitVec.ofNat 3 f.srcdie ++ BitVec.ofNat 16 seq ++ BitVec.ofNat 4 f.ctx ++ BitVec.ofNat 3 f.kind
    ++ BitVec.ofNat 3 f.dstdie ++ BitVec.ofNat 11 srcmod ++ BitVec.ofNat 11 f.dstmod

/-- The receiving port drops the flit: reserved KIND, LEN outside 1 to 224, or a nonzero reserved bit (R334). -/
def flitBad (f : Flit) : Bool :=
  decide (flitFld f 25 3 > 5 ∨ flitFld f 52 8 < 1 ∨ flitFld f 52 8 > 224) || flitFld f 63 1 != 0

/-- The valid payload bytes. -/
def flitData (f : Flit) : List Byte := (f.payload ++ List.replicate 224 0).take (flitFld f 52 8)

/-- One message of flits, each an address and payload; the last carries LASTF, the first what the target must know beside them (R334). SEQ and
MSGID count by context and destination module. -/
def State.sendNoted (s : State) (f : FlitTo) (parts : List (Nat × List Byte)) (note : Option PutNote) : State :=
  let k := f.ctx * 2048 + f.dstmod
  let (seq, msg) := s.hub.flitseq.get k (0, 0)
  let n := parts.length
  let flits := parts.zipIdx.map fun p =>
    (⟨f.header s.hub.module msg ((seq + p.2) % 65536) p.1.1 p.1.2.length (p.2 + 1 == n), p.1.2, if p.2 = 0 then note else none⟩ : Flit)
  { s with
    flitsOut := s.flitsOut ++ flits
    hub := { s.hub with flitseq := s.hub.flitseq.set k ((seq + n) % 65536, (msg + 1) % 256) } }

/-- A message whose target needs nothing beside its flits. -/
def State.sendMessage (s : State) (f : FlitTo) (parts : List (Nat × List Byte)) : State := s.sendNoted f parts none

/-- The destination of a class 4 access (R81, R82). -/
def Target.flitTo (t : Target) (kind srcdie : Nat) : FlitTo := ⟨entFld t.ent 117 11, 0, 0, 0, 0, 0, kind, entFld t.ent 113 4, srcdie⟩

/-- The SEQ that the next flit of a context to a module takes. -/
def State.nextSeq (s : State) (f : FlitTo) : Nat := (s.hub.flitseq.get (f.ctx * 2048 + f.dstmod) (0, 0)).1

/-- A remote load of n bytes is sent; its count travels in two payload bytes (R334). -/
def State.remoteLoad (s : State) (t : Target) (va : Word) (n : Nat) (dest : List SReg) (size : Nat)
    (lane : Option (Nat × List (Nat × Nat))) (o : Org) (own : List (Nat × Byte)) : State :=
  let f := t.flitTo 0 (dieOf (o.core.getD 0))
  { s.sendMessage f [(t.addr % 2 ^ 48, leBytes 2 n)] with
    remotes := s.remotes ++ [⟨s.nextSeq f, f.dstmod, f.ctx, dest, size, n, lane, 0, va, o, own, none⟩] }

/-- A remote store is sent; its acknowledgement is awaited (R334). -/
def State.remoteStore (s : State) (t : Target) (va : Word) (bs : List Byte) (o : Org) : State :=
  let f := t.flitTo 1 (dieOf (o.core.getD 0))
  { s.sendMessage f [(t.addr % 2 ^ 48, bs)] with
    remotes := s.remotes ++ [⟨s.nextSeq f, f.dstmod, f.ctx, [], 0, bs.length, none, 1, va, o, [], none⟩] }

/-- A load of the host from another module is sent: n bytes at place at_ of what the host reads, at a virtual address (R328). -/
def State.hostLoad (s : State) (t : Target) (va : Word) (n at_ : Nat) (o : Org) (rmw : Option (AOp × Nat × Nat)) : State :=
  let f := t.flitTo 0 0
  { s.sendMessage f [(t.addr % 2 ^ 48, leBytes 2 n)] with
    remotes := s.remotes ++ [⟨s.nextSeq f, f.dstmod, f.ctx, [], at_, n, none, 5, va, o, [], rmw⟩] }

/-! Bytes of other modules that an engine's command reads or writes (R82). -/

/-- The module, the context and the virtual address that a key of another module's memory stands for. -/
def farPlace (key : Nat) : Nat × Nat × Nat :=
  let off := key % 2 ^ 80
  (off / 2 ^ 48 % 2 ^ 11, off / 2 ^ 44 % 16, off % 2 ^ 44)

/-- Keys of another module's memory in runs of neighbours, at most 224 to a run. -/
def farRuns (l : List Nat) : List (Nat × Nat) :=
  match l with
  | [] => []
  | k :: l =>
    match farRuns l with
    | (a, n) :: r => if a = k + 1 ∧ n < 224 then (k, n + 1) :: r else (k, 1) :: (a, n) :: r
    | [] => [(k, 1)]

/-- The bytes of other modules among those that a command reads and that have not come yet. -/
def State.farNeeds (s : State) (name : Nat) (keys : List Nat) : List Nat :=
  (keys.filter fun k => keySpace k == 8 && !(s.far.get name []).contains k).eraseDups

/-- A command's accesses of a kind to other modules that are under way: 3 loads, 4 stores. -/
def State.farOut (s : State) (name kind : Nat) : Bool := s.remotes.any fun r => r.kind == kind && r.size == name

/-- One access of a command to another module sent, and its answer awaited under the command's name: kind 3 a load, 4 a store. -/
def State.sendFar (s : State) (o : Org) (name kind : Nat) (r : Nat × Nat) (payload : List Byte) : State :=
  let (m, c, va) := farPlace r.1
  let f : FlitTo := ⟨m, 0, 0, 0, 0, 0, kind - 3, c, dieOf (o.core.getD 0)⟩
  { s.sendMessage f [(va, payload)] with
    remotes := s.remotes ++ [⟨s.nextSeq f, m, c, [], name, r.2, none, kind, BitVec.ofNat 64 va, o, [], none⟩] }

/-- A command asks other modules for bytes that it reads, once (R82, R334). -/
def State.askFar (s : State) (o : Org) (name : Nat) (keys : List Nat) : State :=
  if s.farOut name 3 then s
  else (farRuns (s.farNeeds name keys)).foldl (fun (s : State) r => s.sendFar o name 3 r (leBytes 2 r.2)) s

/-- The bytes that a command wrote for other modules are sent (R82, R334); what it had read is let go. -/
def State.flushFar (s : State) (o : Org) (name : Nat) (keys : List Nat) : State :=
  let s := { s with far := s.far.del name }
  (farRuns (keys.filter fun k => keySpace k == 8).eraseDups).foldl (fun (s : State) r => s.sendFar o name 4 r (s.get r.1 r.2)) s

end Sys2Proof.Machine
end

