-- ==== Sys2Proof/Machine/Scalar.lean ====
section
/-! DEFINITION. Scalar loads and stores (09, R206, R207; 07, R140 to R144; 20, R380, R392). -/
namespace Sys2Proof.Machine

/-- An out-of-map access as R379 reports it: kind, reason, path, step and first element or lane. -/
def mapFault (l : Loc) (kind reason path step elem : Nat) (a : Word) : FaultInfo :=
  ⟨0x10, l, leBytes 1 kind ++ leBytes 1 reason ++ leBytes 1 path ++ leBytes 1 step ++ leBytes 4 elem, some a⟩

/-- Consumption of a poisoned granule at severity 1 (R384): the consumer and the physical address. -/
def State.consume (s : State) (c : Nat) (l : Loc) (consumer key : Nat) : State :=
  s.strike c { mkRec 0x17 1 l (leBytes 1 consumer) (some (BitVec.ofNat 64 key)) (some (s.orgOf c)) with phys := true }

/-- Bytes of a size code: b, bn, h, hn, w, wn, d, q (R168). -/
def sizeBytes (n : Nat) : Nat := match n with | 0 => 1 | 1 => 1 | 2 => 2 | 3 => 2 | 4 => 4 | 5 => 4 | 6 => 8 | _ => 16

/-- A loaded value of a size code, extended (R168, R206). -/
def extendLoad (size : Nat) (v : Nat) : Word :=
  if size % 2 = 0 then BitVec.ofInt 64 (signedOf (8 * sizeBytes size) v) else BitVec.ofNat 64 v

/-- The registers that the bytes of a load go to: two of 64 bits, or one by the size code (R206). -/
def loadValues (dest : List SReg) (size : Nat) (bs : List Byte) : List (SReg × Word) :=
  match dest with
  | [d, e] => [(d, BitVec.ofNat 64 (leNat (bs.take 8))), (e, BitVec.ofNat 64 (leNat (bs.drop 8)))]
  | [d] => [(d, extendLoad size (leNat bs))]
  | _ => []

/-- The key of each byte of a scalar access, or its fault (R206, R380). -/
def State.scalarKeys (s : State) (sp : Space) (ea : Word) (n : Nat) (acc : Acc) : Except FaultInfo (List Nat) :=
  let fault (r : Nat) (a : Word) : FaultInfo := mapFault (locCore 0 s.iss.core 0xFF) (if acc = .write then 1 else 0) r 0 0 0 a
  match s.spanKeys s.iss.core s.iss.src.ctxid sp ea n acc with
  | .ok ks => .ok ks
  | .error (r, a) => .error (fault r a)

/-- The target of n bytes at a G address, if the first and the last lie in class 4. -/
def State.remoteAt (s : State) (sp : Space) (ea : Word) (n : Nat) (acc : Acc) : Option Target :=
  if sp ≠ .g then none
  else match s.translate s.iss.src.ctxid ea acc, s.translate s.iss.src.ctxid (ea + BitVec.ofNat 64 (n - 1)) acc with
    | .ok t, .ok u => if t.cls = 4 ∧ u.cls = 4 then some t else none
    | _, _ => none

/-- Loaded values written by the issuing core. -/
def State.wrAll (s : State) (l : List (SReg × Word)) : State := l.foldl (fun (s : State) p => s.wr p.1 p.2) s

/-- What holds or ends a scalar access that reads, by its opcode and address: a locked bank, a parked line, a damaged byte; none where it goes on
(R157, R384, R387). -/
def State.readStop (s : State) (op : Nat) (sp : Space) (ea : Word) (ks : List Nat) : Option State :=
  let c := s.iss.core
  if s.behindParked ks then s.waitBehind op (spanned ea ks)
  else if sp == .c && ks.any fun k => s.bankLocked c (k % 2 ^ 22) then some s.hold
  else (s.loadHurt c ks).map fun k => (s.consume c (locCore 0 c 0xFF) 1 k).faulted

/-- Bytes read by the issuing core, with the marks of the read: logical times and exposure. -/
def State.noteLoad (s : State) (ks : List Nat) : State :=
  ks.foldl (fun s k => (s.loadTime s.iss.core k).noteRd s.iss.core k 1) s

/-- A load has all its bytes: the value of a C, K or D load lands at once, that of a G load when it returns (R206). -/
def State.loadDone (s : State) (sp : Space) (dest : List SReg) (size : Nat) (bs : List Byte) : State :=
  if sp = .g then { s with rets := s.rets ++ [⟨s.iss.core, loadValues dest size bs⟩] } else s.wrAll (loadValues dest size bs)

/-- An action of the bundle in issue that is still to come. -/
def State.defer (s : State) (a : LateAct) : State :=
  { s with lates := match s.lates.find? fun l => l.iss.core == s.iss.core with
      | some _ => s.lates.map fun l => if l.iss.core = s.iss.core then { l with todo := l.todo ++ [a] } else l
      | none => s.lates ++ [⟨s.iss, [a]⟩] }

/-- The opcode of a scalar load by its destination registers: LD or LDP (R172). -/
def loadOp (dest : List SReg) : Nat := if dest.length = 2 then 0x62 else 0x60

/-- The bytes of an access before the boundary of a 32-byte sector (R144). -/
def firstHalf (ea : Word) (n : Nat) : Nat := min n (32 - ea.toNat % 32)

/-- A scalar load into registers (R206): out-of-map faults, what stops it, then its bytes, carried entries among them formed where their tags
demand it (R125); a load that crosses a sector boundary reads the second half afterwards (R144). -/
def State.scalarLoad (s : State) (sp : Space) (ea : Word) (n : Nat) (dest : List SReg) (size : Nat) : State :=
  let c := s.iss.core
  match s.scalarKeys sp ea n .read with
  | .error f => s.takeFault f
  | .ok ks =>
    match s.remoteAt sp ea n .read with
    | some t => s.remoteLoad t ea n dest size none s.iss.org (s.ownBytes c ks)
    | none =>
      let h := firstHalf ea n
      match s.readStop (loadOp dest) sp ea (ks.take h) with
      | some t => t
      | none =>
        let s := s.reform (ks.take h)
        let bs := (ks.take h).map (s.loadByte c)
        let s := s.noteLoad (ks.take h)
        let s := match s.translate s.iss.src.ctxid ea .read with | .ok t => if sp = Space.g then s.cacheLines c t ks else s | .error _ => s
        if h = n then s.loadDone sp dest size bs
        else s.defer (.load sp.code (ea + BitVec.ofNat 64 h) (ks.drop h) bs dest size)

/-- The pieces of bytes by 32-byte sector: each store takes one gate entry for each sector it touches (R41). -/
def sectors (ea : Nat) (bs : List Byte) : List (Nat × List Byte) :=
  let n1 := min bs.length (32 - ea % 32)
  let first := (ea, bs.take n1)
  if n1 < bs.length then [first, (ea + n1, bs.drop n1)] else [first]

/-- Room in the store gate: the entries of the phase and those still draining share its 2,048 entries (R41, R42). -/
def Core.gateFree (k : Core) : Nat := 2048 - (k.gate ++ k.releasing).countP fun e => !e.joined

/-- A gate entry of the issuing task for one sector's bytes. -/
def State.gateEntry (s : State) (p : Nat × List Byte) : Option GateEnt :=
  match s.translate s.iss.src.ctxid (BitVec.ofNat 64 p.1) .write with
  | .ok t => some ⟨BitVec.ofNat 64 p.1, t, p.2, false, s.iss.org⟩
  | .error _ => none

/-- A G store enters the gate, one entry a sector; without room it waits for a release under way, else it overflows (R392). -/
def State.gateStore (s : State) (l : Loc) (ea : Word) (bs : List Byte) : State :=
  let c := s.iss.core
  let k := s.core c
  let pieces := sectors ea.toNat bs
  if pieces.length ≤ k.gateFree then
    s.modCore c fun k => { k with gate := k.gate ++ pieces.filterMap s.gateEntry }
  else if !k.releasing.isEmpty then s.hold
  else
    (s.strike c (mkRec 0x15 1 l (leBytes 2 pieces.length ++ leBytes 2 k.gateFree) (some ea) (some s.iss.org))).faulted

/-- An ungated store of a core to the C, K or D space: exposure is noted, a write to the K or D space makes the phase
irrevocable (R369). -/
def State.chipStore (s : State) (sp : Space) (ks : List Nat) (bs : List Byte) : State :=
  let c := s.iss.core
  let s := (ks.zip bs).foldl (fun s p => (s.noteWr c p.1 1).put p.1 [p.2]) s
  if sp = .c then s else s.irrevocable c

/-- A scalar store (R206, R207). -/
def State.scalarStore (s : State) (sp : Space) (ea : Word) (bs : List Byte) : State :=
  let c := s.iss.core
  match s.scalarKeys sp ea bs.length .write with
  | .error f => s.takeFault f
  | .ok ks =>
    if s.copyOutReads c ks || (sp == .c && ks.any fun k => s.bankLocked c (k % 2 ^ 22)) then s.hold
    else if sp = .g then s.gateStore (locCore 0 c 0xFF) ea bs
    else
      let h := firstHalf ea bs.length
      let s := s.chipStore sp (ks.take h) (bs.take h)
      if h = bs.length then s else s.defer (.store sp.code (ks.drop h) (bs.drop h))

/-- LD (R206). -/
def execLd (g : Guard) (d base : SReg) (size : BitVec 3) (space : BitVec 2) (off : BitVec 32) (s : State) : Out :=
  s.under g (.next (s.scalarLoad (cmSpace space.toNat) (s.rd base + off32 off) (sizeBytes size.toNat) [d] size.toNat))

/-- ST (R206). -/
def execSt (g : Guard) (v base : SReg) (size : BitVec 3) (space : BitVec 2) (off : BitVec 32) (s : State) : Out :=
  s.under g (.next (s.scalarStore (cmSpace space.toNat) (s.rd base + off32 off) (leBytes (sizeBytes size.toNat) (s.rd v).toNat)))

/-- LDP: bytes 7:0 to d, bytes 15:8 to d + 1 (R206). -/
def execLdp (g : Guard) (d base : SReg) (space : BitVec 2) (off : BitVec 32) (s : State) : Out :=
  s.under g (.next (s.scalarLoad (cmSpace space.toNat) (s.rd base + off32 off) 16 [d, d + 1] 7))

/-- STP: a register and the next (R206). -/
def execStp (g : Guard) (v base : SReg) (space : BitVec 2) (off : BitVec 32) (s : State) : Out :=
  s.under g (.next (s.scalarStore (cmSpace space.toNat) (s.rd base + off32 off)
    (leBytes 8 (s.rd v).toNat ++ leBytes 8 (s.rd (v + 1)).toNat)))

/-- LOAD_RETURN: the n-th value on its way lands in its registers (R50, R200). -/
def execLoadReturn (n : Nat) (s : State) : Out :=
  match takeAt s.rets n with
  | none => .next s
  | some (r, rest) =>
    .next ({ s with rets := rest }.modCore r.core fun k =>
      { k with regs := r.writes.foldl (fun (g : Regs) (p : SReg × Word) => g.setS p.1.toNat p.2) k.regs })

end Sys2Proof.Machine
end

