-- ==== Sys2Proof/Machine/Launch.lean ====
section
/-! DEFINITION. Continuations, cancel applications and ready notices at the home slices (02, R28 to R32; 19, R372; 20, R390). -/
namespace Sys2Proof.Machine

/-- The detail bytes of a continuation launch fault (R379). -/
def launchDetail (origin reason count : Nat) (w : Word) : List Byte :=
  leBytes 1 origin ++ leBytes 1 reason ++ leBytes 4 count ++ leBytes 8 w.toNat

/-- The unit that sends a continuation (R356, R390): the slice of an atomic's line, the PCI Express port or a fabric port for an answer, the
sequencer, the copy engine, the routing engine or the array for a command, else the scheduler. -/
def sendingLoc (via : Nat × Nat) (o : Org) : Loc :=
  let c := o.core.getD 0
  match via.1 with
  | 0 => locCore 0 c 0xFF
  | 2 => arrayLoc c
  | 7 => locCore 7 c 0xFF
  | 12 => locDie 12 (dieOf c)
  | 13 => locSlice via.2
  | 16 => locDie 16 8
  | 17 => portLoc via.2 0
  | _ => locDie 8 (dieOf c)

/-- The unit that sends the continuations of an origin, where that alone says it (R390). -/
def originUnit (origin : Nat) : Nat :=
  match origin with | 1 => 7 | 2 => 0 | 3 => 0 | 4 => 0 | 7 => 16 | 8 => 12 | _ => 8

/-- A continuation that cannot land (R390): the record is posted; the issuer is cancelled unless the word is a successor word, a
cancel application or a port write. -/
def State.launchFault (s : State) (l : Loc) (origin reason count : Nat) (w : Word) (va : Word) (o : Org) : State :=
  let s := s.post (mkRec 0x12 2 l (launchDetail origin reason count w) (some va) (some o))
  if origin = 5 ∨ origin = 6 ∨ origin = 7 then s else s.cancelTask o

/-- A record of a reserved STATE found at its home slice (R390, R391): reason 5, nothing written. -/
def State.recordFault (s : State) (key : Nat) (va : Word) (o : Org) (origin : Nat) (state : Nat) : State :=
  let s := s.post (mkRec 0x13 2 (locSlice key) (leBytes 1 5 ++ leBytes 1 state) (some va) (some o))
  if origin = 5 ∨ origin = 6 ∨ origin = 7 then s else s.cancelTask o

/-- The dies that a DIEMASK permits (R23). -/
def permittedDies (mask : Nat) : List Nat := (List.range 8).filter fun d => mask = 0 || mask.testBit d

/-- PickDie over the last broadcasts (R30, R36): the lowest occupancy, the lowest die on a tie; full dies are not chosen. -/
def State.pickDie (s : State) (mask : Nat) : Option Nat :=
  (permittedDies mask).foldl (fun best d =>
    if (s.die d).occ = 0xFFFFFFFF then best
    else match best with
      | none => some d
      | some b => if (s.die d).occ < (s.die b).occ then some d else best) none

/-- SendReadyNotice (R28, R30). -/
def State.sendNotice (s : State) (ctx : Nat) (va : Word) : State :=
  let mask := s.recNum ctx va 0x18 1
  { s with notices := s.notices ++ [⟨va, ctx, s.pickDie mask, mask⟩] }

/-- The STATE byte of a record (R23). -/
def State.recState (s : State) (ctx : Nat) (va : Word) : Nat := s.recNum ctx va 0x0C 1

/-- The COUNT of a record as its 32 bits, and the CANCEL bit. -/
def State.recCount (s : State) (ctx : Nat) (va : Word) : Nat := s.recNum ctx va 0x08 4
/-- See `State.recCount`. -/
def State.recCancel (s : State) (ctx : Nat) (va : Word) : Bool := (s.recNum ctx va 0x1B 1).testBit 0

/-- The record is completed as cancelled without being dispatched, and passes cancel on (R372); damaged successor words are reported and not
sent (R384; DEDUCED, log 50). -/
def State.completeCancelled (s : State) (ctx : Nat) (va : Word) (o : Org) : State :=
  let s := s.recPut ctx va 0x0C [5]
  let key := (s.recKey ctx va).getD 0 + 0x60
  if s.damaged key 32 then
    s.post { mkRec 0x17 2 (locSlice key) (leBytes 1 6) (some (BitVec.ofNat 64 key)) (some { o with bundle := none }) with phys := true }
  else
  s.sendSuccs true { o with core := o.core, task := some va, bundle := none, ctx := ctx } ctx va 0

/-- A record that has reached COUNT 0 while PENDING: ready, or completed as cancelled (R28, R372). -/
def State.recReady (s : State) (ctx : Nat) (va : Word) (o : Org) : State :=
  if s.recCancel ctx va then s.completeCancelled ctx va o
  else (s.recPut ctx va 0x0C [1]).sendNotice ctx va

/-- Where the record of a continuation lies: its key in a memory-side region, or the reason of R379: 0 out of map, 1 not MS. R28, R82 and R390
do not say which permission its Translate asks for: the model asks for RD (DESIGN CHOICE, log 45). -/
def State.contKey (s : State) (ctx : Nat) (va : Word) : Except Nat Nat :=
  match s.translate ctx va .read with
  | .error _ => .error 0
  | .ok t => if t.ms then .ok t.key else .error 1

/-- A COUNT less an amount, as a signed number (R28). -/
def countLess (count amount : Nat) : Int := signedOf 32 count - amount

/-- The fields of a record that its home slice reads, COUNT to the flags, are damaged (R384). -/
def State.recordHurt (s : State) (key : Nat) : Bool := s.damaged (key + 8) 20

/-- Damage consumed at a record's home slice: nothing is written, and the issuing task fails as R384 says; for a successor word, a cancel
application, a trap or a port write there is the record alone, as for the failures of R390 (DEDUCED, log 50). -/
def State.recordConsume (s : State) (key origin : Nat) (o : Org) : State :=
  let r := { mkRec 0x17 1 (locSlice key) (leBytes 1 6) (some (BitVec.ofNat 64 (key + 8))) (some o) with phys := true }
  if origin = 5 ∨ origin = 6 ∨ origin = 7 then s.post { r with sev := 2 }
  else s.cmdFail (decide ((s.core (o.core.getD 0)).shadow.num ≤ o.num)) o r

/-- ApplyContinuation at the record's home slice (R28, R384, R390). -/
def State.applyWord (s : State) (origin : Nat) (l : Loc) (w v : Word) (o : Org) : State :=
  let va := contRecord w
  let kind := contKind w
  if kind = 0 then s
  else match s.contKey o.ctx va with
    | .error r => s.launchFault l origin r 0 w va o
    | .ok key =>
      let st := s.recState o.ctx va
      let count := s.recCount o.ctx va
      if s.recordHurt key then s.recordConsume key origin o
      else if st > 5 then s.recordFault key va o origin st
      else if kind = 3 then s.recPut o.ctx va (0x20 + 8 * contArgix w) (leBytes 8 v.toNat)
      else if countLess count (contAmount w) < 0 then
        (s.recFlag o.ctx va 0 true).launchFault (locSlice key) origin 2 count w va o
      else
        let s := if kind = 2 then s.recPut o.ctx va (0x20 + 8 * contArgix w) (leBytes 8 v.toNat) else s
        let s := s.recPut o.ctx va 0x08 (leBytes 4 (count - contAmount w))
        if count = contAmount w ∧ st = 0 then s.recReady o.ctx va o else s

/-- TSPAWN at the record's home slice (R211). -/
def State.applySpawn (s : State) (va : Word) (o : Org) : State :=
  match s.contKey o.ctx va with
  | .error r => s.launchFault (sendingLoc (0, 0) o) 3 r 0 0 va o
  | .ok key =>
    let st := s.recState o.ctx va
    let count := s.recCount o.ctx va
    if s.recordHurt key then s.recordConsume key 3 o
    else if st > 5 then s.recordFault key va o 3 st
    else if st = 0 ∧ count = 0 then s.recReady o.ctx va o
    else s.post (mkRec 0x14 0 (locSlice key) (leBytes 1 0 ++ leBytes 1 st ++ leBytes 4 count) (some va) (some o))

/-- TARM at the record's home slice (R32, R212). -/
def State.applyArm (s : State) (va c : Word) (o : Org) : State :=
  match s.contKey o.ctx va with
  | .error r => s.launchFault (sendingLoc (0, 0) o) 4 r 0 0 va o
  | .ok key =>
    let st := s.recState o.ctx va
    if s.recordHurt key then s.recordConsume key 4 o
    else if st > 5 then s.recordFault key va o 4 st
    else if (st = 4 ∨ st = 5) ∧ c.toNat % 2 ^ 32 < 2 ^ 31 then
      let s := s.recPut o.ctx va 0x08 (leBytes 4 c.toNat)
      (((s.recFlag o.ctx va 0 false).recFlag o.ctx va 1 false).recFlag o.ctx va 3 false).recPut o.ctx va 0x0C [0]
    else s.post (mkRec 0x14 0 (locSlice key) (leBytes 1 1 ++ leBytes 1 st ++ leBytes 4 (s.recCount o.ctx va)) (some va) (some o))

/-- The record that a register names: bits 6:0 of a TSPAWN or TARM address are ignored (DEDUCED, log 23). -/
def recordOf (a : Word) : Word := a &&& ~~~127

/-- A send that has reached its record's home slice. -/
def State.applySend (s : State) (c : Cont) : State :=
  match c.send with
  | .tdec w v => s.applyWord c.origin (sendingLoc c.via c.org) w v c.org
  | .tspawn a => s.applySpawn (recordOf a) c.org
  | .tarm a v => s.applyArm (recordOf a) v c.org
  | .publish _ _ => s

/-- A continuation on its way from a unit (R28, R152). -/
def State.sendVia (s : State) (origin : Nat) (via : Nat × Nat) (w v : Word) (o : Org) : State :=
  if contKind w = 0 then s else { s with conts := s.conts ++ [⟨.tdec w v, origin, o, none, via⟩] }

/-- A continuation on its way from the unit of its origin. -/
def State.sendCont (s : State) (origin : Nat) (w v : Word) (o : Org) : State := s.sendVia origin (originUnit origin, 0) w v o

/-! The outbound queues of the home slices (R155, R156, R36). -/

/-- The number of a key's home slice, by stack × 12 + slice. -/
def sliceNo (key : Nat) : Nat := keyStack key * 12 + keySlice key

/-- The home slice of a record, where it has one. -/
def State.recSlice (s : State) (ctx : Nat) (va : Word) : Option Nat := (s.recKey ctx va).map sliceNo

/-- The continuation of an atomic enters the outbound queue of the slice that performed it (R155); that of an AtomicOp or of an atomic of
another module is applied by the hub or its port (R160). -/
def State.sendAtomicCont (s : State) (t : Target) (w v : Word) (o : Org) : State :=
  let via := match t.cls with | 3 => (16, 0) | 4 => (17, (Config.freeByte s.steps 3).toNat % 32) | _ => (13, t.key)
  if contKind w = 0 then s else { s with conts := s.conts ++ [⟨.tdec w v, 0, o, if t.cls < 2 then some (sliceNo t.key) else none, via⟩] }

/-- The outbound queue of a slice is full: its 64 entries are continuations not yet sent and ready notices that no die takes (R36, R155). -/
def State.outboundFull (s : State) (n : Nat) : Bool :=
  decide (64 ≤ s.conts.countP (fun c => c.slice == some n)
    + s.notices.countP fun x => x.die.isNone && s.recSlice x.ctx x.record == some n)

/-- The oldest continuation of a slice's queue leaves it. -/
def freeFirst (n : Nat) (l : List Cont) : List Cont :=
  match l with
  | [] => []
  | c :: l => if c.slice = some n then { c with slice := none } :: l else c :: freeFirst n l

/-- The outbound queue of a slice sends one entry (R155). -/
def State.sendOutbound (s : State) (n : Nat) : State := { s with conts := freeFirst n s.conts }

/-- Another successor word or cancel application of the same task, sent earlier to the same slice, is on its way: words to one slice are
applied in the order sent (R35). -/
def State.wordBefore (s : State) (l : List Cont) (c : Cont) : Bool :=
  let slice (c : Cont) : Option Nat := match c.send with | .tdec w _ => s.recSlice c.org.ctx (contRecord w) | _ => none
  (c.origin == 5 || c.origin == 6) && l.any fun d => d.origin == c.origin && d.org == c.org && slice d == slice c

/-- ApplyCancel at the record's home slice (R372). -/
def State.cancelWord (s : State) (w : Word) (o : Org) : State :=
  let va := contRecord w
  let kind := contKind w
  if kind = 0 then s
  else match s.contKey o.ctx va with
    | .error r => s.launchFault (sendingLoc (8, 0) o) 6 r 0 w va o
    | .ok key =>
      let st := s.recState o.ctx va
      let count := s.recCount o.ctx va
      if s.recordHurt key then s.recordConsume key 6 o
      else if st > 5 then s.recordFault key va o 6 st
      else
        let s := s.recFlag o.ctx va 0 true
        if kind = 3 then s
        else if countLess count (contAmount w) < 0 then s.launchFault (locSlice key) 6 2 count w va o
        else
          let s := s.recPut o.ctx va 0x08 (leBytes 4 (count - contAmount w))
          if count = contAmount w ∧ st = 0 then s.completeCancelled o.ctx va o else s

/-- A launch of a routing pass waits for the pass's writes in other modules (R299). -/
def State.launchHeld (s : State) (c : Cont) : Bool := c.origin == 8 && s.remotes.any fun r => r.kind == 4 && r.org == c.org

/-- The record that a word, spawn or re-arming goes to. -/
def Cont.record (c : Cont) : Word := match c.send with | .tdec w _ => contRecord w | .tspawn a => recordOf a | .tarm a _ => recordOf a | .publish _ _ => 0

/-- The line of the record has requests parked at it, which go first (R387). -/
def State.recordParked (s : State) (c : Cont) : Bool :=
  match s.recKey c.org.ctx c.record with | some key => s.behindParked [key] | none => false

/-- APPLY_CONTINUATION: the n-th word, spawn or re-arming on its way is applied, once it has left its outbound queue, none of its task's
successor words to the same slice is before it and nothing is parked at the record's line (R28, R35, R152, R155, R211, R212, R299, R387). -/
def execApplyContinuation (n : Nat) (s : State) : Out :=
  match takeAt s.conts n with
  | none => .next s
  | some (c, rest) => .next (if c.slice.isSome || s.launchHeld c || s.wordBefore (s.conts.take n) c || s.recordParked c then s else { s with conts := rest }.applySend c)

/-- APPLY_CANCEL: the n-th cancel application on its way is applied (R372, R387). -/
def execApplyCancel (n : Nat) (s : State) : Out :=
  match takeAt s.cancels n with
  | none => .next s
  | some (c, rest) => .next (if s.wordBefore (s.cancels.take n) c || s.recordParked c then s
      else match c.send with | .tdec w _ => { s with cancels := rest }.cancelWord w c.org | _ => { s with cancels := rest })

end Sys2Proof.Machine
end

