-- ==== Sys2Proof/Machine/Atomics.lean ====
section
/-! DEFINITION. Atomics and FRED (09, R208 to R210; 07, R155 to R160; 20, R387 to R389). -/
namespace Sys2Proof.Machine

/-- The value that AmoOp writes (R208): op codes of R168: add, and, or, xor, min, max, minn, maxn, swp. -/
def amoValue (op w x y : Nat) : Nat :=
  match op with
  | 0 => (x + y) % 2 ^ (8 * w)
  | 1 => Nat.land x y
  | 2 => Nat.lor x y
  | 3 => Nat.xor x y
  | 4 => if signedOf (8 * w) y < signedOf (8 * w) x then y else x
  | 5 => if signedOf (8 * w) x < signedOf (8 * w) y then y else x
  | 6 => if y < x then y else x
  | 7 => if x < y then y else x
  | _ => y

/-- What an atomic writes, if it writes, and whether its continuation is applied (R208). -/
def AOp.effect (o : AOp) (w old b c : Nat) : Option Nat × Bool :=
  match o with
  | .amo op => (some (amoValue op w old b), true)
  | .cas => (if old = b then some c else none, false)
  | .casc => (if old = b then some c else none, decide (old = b))
  | .amoct op cc => (some (amoValue op w old b), condHolds cc (8 * w) (amoValue op w old b) c)
  | .fred _ _ => (none, false)

/-- The atomic has an AtomicOp of the host link (R160). -/
def AOp.hostForm (o : AOp) : Bool := match o with | .amo op => op == 0 || op == 8 | .cas | .casc => true | _ => false

/-- Why a region does not permit an atomic (R379, code 0x0011); none where it does. -/
def atomicReason (t : Target) (o : AOp) : Option Nat :=
  match t.cls with
  | 0 | 1 => if t.ms then none else some 0
  | 2 => some 0
  | 3 => if !t.sw then some 1 else if o.hostForm then none else some 2
  | _ => none

/-- An operation that cannot be run again has been performed (R369). -/
def State.sealPhase (s : State) (o : Org) : State :=
  match o.core with
  | some c => if s.running o then s.irrevocable c else s
  | none => s

/-- A value returns to where it is awaited: scalar registers through LOAD_RETURN, lanes through TABLE_ACCESS_COMPLETE, the host. -/
def State.giveBack (s : State) (r : Req) (v : Nat) : State :=
  match r.dest with
  | .sreg c d => { s with rets := s.rets ++ [⟨c, [(d, BitVec.ofNat 64 v)]⟩] }
  | .lane c g l => s.modCore c fun k =>
      { k with vpend := k.vpend.map fun p => if p.group = g then { p with vals := p.vals.set l (BitVec.ofNat 32 v) } else p }
  | .none => if r.org.core = none then s.modHub fun h => { h with pcieRead := leBytes r.w v } else s

/-- An atomic other than FRED performed on its bytes: one read, one write, the continuation, the old value returned (R208). -/
def State.performAtomic (s : State) (r : Req) : State :=
  let s := s.reform ((List.range r.w).map (r.tgt.key + ·))
  let old := s.num r.tgt.key r.w
  let (new, fire) := r.op.effect r.w old r.b r.c
  let s := match r.org.core with | some c => s.storeTime c r.tgt.key | none => s
  let s := match new with
    | some v => s.putTarget r.org.ctx r.va r.tgt (leBytes r.w v)
    | none => s
  let s := if fire then s.sendAtomicCont r.tgt r.k (BitVec.ofNat 64 old) r.org else s
  (s.sealPhase r.org).giveBack r old

/-- The operation of FRED on FP32 values, rounded once under RNE (R159, R210): 0 add, 4 min, 5 max. -/
def fredValue (op x y : Nat) : Nat :=
  let a := decodeF 0 x
  let b := decodeF 0 y
  roundF 0 .rne false (if op = 0 then a.add .rne b else if op = 4 then a.min2 b else a.max2 b)

/-- The shadows of a slice after a FRED's element stands first; only 256 lines of a slice keep shadows (R159; DEDUCED, log 8). -/
def touchShadow (l : List Shadow) (x : Shadow) : List Shadow :=
  let sameSlice (y : Shadow) : Bool := keyStack y.key == keyStack x.key && keySlice y.key == keySlice x.key
  let rest := l.filter fun y => y.key != x.key
  let line := rest.filter fun y => lineOf y.key == lineOf x.key
  let others := rest.filter fun y => lineOf y.key != lineOf x.key
  let lines := ((others.filter sameSlice).map fun y => lineOf y.key).eraseDups.take 255
  x :: line ++ others.filter fun y => !sameSlice y || lines.contains (lineOf y.key)

/-- FredApply (R159). Memory always holds the rounded value (DEDUCED, log 8). -/
def State.performFred (s : State) (r : Req) (op fmt : Nat) : State :=
  let key := r.tgt.key
  let s := s.reform ((List.range r.w).map (key + ·))
  let mem := s.num key r.w
  let cur := match s.shadows.find? fun x => x.key == key && x.fmt == fmt with
    | some x => x.val.toNat
    | none => roundF 0 .rne false (decodeF fmt mem)
  let new := fredValue op cur (r.b % 2 ^ 32)
  let kept := s.shadows
  let s := match r.org.core with | some c => s.storeTime c key | none => s
  let s := s.putTarget r.org.ctx r.va r.tgt (leBytes r.w (roundF fmt .rne true (decodeF 0 new)))
  let s := if fmt = 0 then s
    else { s with shadows := touchShadow (keepShadows kept key r.w) ⟨key, fmt, BitVec.ofNat 32 new⟩ }
  (s.sendAtomicCont r.tgt r.k (BitVec.ofNat 64 (r.b % 2 ^ 32)) r.org).sealPhase r.org

/-- A request performed at its slice. -/
def State.performReq (s : State) (r : Req) : State :=
  match r.op with
  | .fred op fmt => s.performFred r op fmt
  | _ => s.performAtomic r

/-- The opcode byte of a request's instruction (R172, R176). -/
def Req.opcode (r : Req) : Nat :=
  if r.vector then (match r.op with | .cas => 0x07 | _ => 0x06)
  else match r.op with | .amo _ => 0x80 | .cas => 0x81 | .casc => 0x82 | .amoct _ _ => 0x83 | .fred _ _ => 0x84

/-- A refused atomic (R389): code 0x0011 with its reason. -/
def Req.refusal (r : Req) (l : Loc) (reason : Nat) : FaultInfo :=
  ⟨0x11, l, leBytes 1 r.vector.toNat ++ leBytes 1 reason ++ leBytes 1 r.opcode, some r.va⟩

/-- The line of a request holds poison (R387). -/
def State.lineBad (s : State) (key : Nat) : Bool := s.damaged (lineOf key * 128) 128

/-- A request discarded from the fault queue (R388): its issuing task is cancelled, its register is never written. -/
def State.discardReq (s : State) (r : Req) (entry ticks : Nat) : State :=
  let s := s.post (mkRec 0x19 2 (locSlice r.tgt.key) (leBytes 2 entry ++ leBytes 1 r.opcode ++ leBytes 1 0 ++ leBytes 4 ticks)
    (some r.va) (some r.org))
  if r.org.core = none then s else s.cancelTask r.org

/-- A request arrives at its slice (R158, R387): it is parked at a damaged line or behind one parked there, else performed
(DEDUCED, log 24). -/
def State.arriveReq (s : State) (r : Req) : State :=
  let key := r.tgt.key
  if s.lineBad key || s.behindParked [key] then
    let n := s.freeEntry key
    if n ≥ 16 ∨ (s.die (keyDie key)).atomwait = 0 then s.discardReq r n 0
    else
      { s with parked := s.parked ++ [(⟨r, s.frame, n⟩ : Parked)] }.post
        (mkRec 0x18 0 (locSlice key) (leBytes 2 n ++ leBytes 1 r.opcode) (some r.va) (some r.org))
  else s.performReq r

/-- A request to a remote module is performed there, or refused by its map: free (R389; DESIGN CHOICE, log 18). -/
def State.remoteReq (s : State) (r : Req) : State :=
  if Config.freeBit s.steps 0 then s.lateFault r.org (r.refusal ⟨17, dieOf (r.org.core.getD 0), 0, 0, 0xFF⟩ 3)
  else s.performAtomic r

/-- The n-th request, if it is the oldest of its core and of the kind given. -/
def State.readyReq (s : State) (n : Nat) (fred : Bool) : Option (Req × List Req) :=
  match takeAt s.reqs n with
  | none => none
  | some (r, rest) =>
    let isFred := match r.op with | .fred _ _ => true | _ => false
    if isFred = fred ∧ !(s.reqs.take n).any (fun q => q.org.core == r.org.core) then some (r, rest) else none

/-- The slice holds a request at its input: it carries a continuation and the outbound queue is full (R156). -/
def State.heldAtSlice (s : State) (r : Req) : Bool := decide (r.tgt.cls < 2) && decide (contKind r.k ≠ 0) && s.outboundFull (sliceNo r.tgt.key)

/-- ATOMIC_AT_HOME_SLICE: the n-th request on its way is performed or parked (R158, R387), unless it is held at the slice (R156). -/
def execAtomicAtHomeSlice (n : Nat) (s : State) : Out :=
  match s.readyReq n false with
  | none => .next s
  | some (r, rest) =>
    .next (if s.heldAtSlice r then s else if r.tgt.cls = 4 then { s with reqs := rest }.remoteReq r else { s with reqs := rest }.arriveReq r)

/-- FRED_APPLY: the n-th request, a FRED, is accepted by its slice (R159). -/
def execFredApply (n : Nat) (s : State) : Out :=
  match s.readyReq n true with
  | none => .next s
  | some (r, rest) =>
    let t := { s with reqs := rest }
    .next (if s.heldAtSlice r then s else if r.tgt.cls = 4 then (if Config.freeBit s.steps 0 then t.remoteReq r else t.performReq r) else t.arriveReq r)

/-- A load or store that waits is discarded: its issuing task is cancelled, and the store, with what is joined to it, leaves the release (R388). -/
def State.dropWait (s : State) (w : Waiting) : State :=
  let s := if w.store then s.modCore w.core fun k => { k with releasing := (k.releasing.drop 1).dropWhile (·.joined) } else s
  s.discardWait w (s.frame - w.tick)

/-- Parked requests of one line replay in order (R388). -/
def State.replay (s : State) (l : List Parked) : State := l.foldl (fun s p => s.performReq p.req) s

/-- LINE_REPAIR: firmware rewrites a line, its poison clears and its parked requests replay in order (R388). Loads and stores that waited behind
them go on (DEDUCED, log 54). -/
def execLineRepair (key : Nat) (bytes : List Byte) (s : State) : Out :=
  let base := lineOf key * 128
  if bytes.length ≠ 128 ∨ keySpace key ≠ 0 then .next s
  else
    let mine := s.parked.filter fun p => lineOf p.req.tgt.key == lineOf key
    let rest := s.parked.filter fun p => lineOf p.req.tgt.key != lineOf key
    .next (({ s with parked := rest, behind := s.behind.filter fun w => lineOf w.key != lineOf key }.putE base bytes).replay mine)

/-- ATOMWAIT_EXPIRY: a request parked for longer than ATOMWAIT and every request behind it are discarded (R388). -/
def execAtomwaitExpiry (n : Nat) (s : State) : Out :=
  match takeAt s.parked n with
  | none => .next s
  | some (p, _) =>
    let key := p.req.tgt.key
    if s.frame < p.tick + (s.die (keyDie key)).atomwait then .next s
    else
      let mine := s.parked.filter fun q => lineOf q.req.tgt.key == lineOf key
      let rest := s.parked.filter fun q => lineOf q.req.tgt.key != lineOf key
      let late := s.behind.filter fun w => lineOf w.key == lineOf key
      let t := { s with parked := rest, behind := s.behind.filter fun w => lineOf w.key != lineOf key }
      .next (late.foldl State.dropWait (mine.foldl (fun (s : State) q => s.discardReq q.req q.entry (s.frame - q.tick)) t))

/-- The lowest logical time of any core (R143). -/
def State.lowestTime (s : State) : Nat :=
  (allCores.map fun c => (s.core c).ltime).foldl (fun a t => if timeBefore t a then t else a) (s.core 0).ltime

/-- The line times of a key that lie behind the floor are raised to it (R143). -/
def State.sweepLine (s : State) (p : Nat × Nat × Nat) : Nat × Nat × Nat := (p.1, timeMax p.2.1 s.lfloor, timeMax p.2.2 s.lfloor)

/-- Copies whose leases lie behind the floor are dropped (R143). -/
def State.dropCopies (s : State) : State :=
  { s with dies := s.dies.map fun p => (p.1, { p.2 with l2 := p.2.l2.filter fun q => !timeBefore q.2 s.lfloor }) }

/-- Every owner has swept its line times since the floor stood 2^38 units lower (R143). -/
def State.sweepDue (s : State) : State :=
  if (s.lfloor + 2 ^ 48 - s.hub.swept) % 2 ^ 48 < 2 ^ 38 then s
  else { s.modHub (fun h => { h with swept := s.lfloor }) with lineTimes := s.lineTimes.map s.sweepLine }

/-- FLOOR_BROADCAST: the hub sends the lowest logical time of any core to every L2 and home slice, which drop the copies behind it and
sweep their line times once for every 2^38 units (R143). -/
def execFloorBroadcast (s : State) : Out := .next ({ s with lfloor := s.lowestTime }.dropCopies.sweepDue)

/-- LINE_TIME_SWEEP: the owners of a die raise the times of their lines that lie behind the floor (R143). -/
def execLineTimeSweep (owner : Nat) (s : State) : Out :=
  .next { s with lineTimes := s.lineTimes.map fun p => if keyDie (p.1 * 128) = owner then s.sweepLine p else p }

/-- A misaligned access of a control-slot instruction (R412). -/
def State.alignFault (s : State) (op lg : Nat) (a : Word) : State :=
  s.takeFault ⟨2, locCore 0 s.iss.core 0xFF, leBytes 1 1 ++ leBytes 1 op ++ leBytes 2 0 ++ leBytes 1 lg, some a⟩

/-- A refused continuation word of an issue slot (R408). -/
def State.wordFault (s : State) (slot : Nat) (w : Word) (reason : Nat) : State :=
  s.takeFault ⟨6, locCore 0 s.iss.core 0xFF, leBytes 8 w.toNat ++ leBytes 1 reason ++ leBytes 1 slot, none⟩

/-- log2 of an access size. -/
def lg2 (n : Nat) : Nat := n.log2

/-- An atomic at issue (R208, R389): the word, the alignment, the translation, the region; then it is on its way, to the host for
class 3. -/
def State.issueAtomic (s : State) (op : AOp) (a : Word) (w b c : Nat) (k : Word) (dest : Dest) : State :=
  let r (t : Target) : Req := ⟨op, a, t, w, b, c, k, dest, s.iss.org, false⟩
  let code := (r ⟨0, 0, 0, 0⟩).opcode
  match contBad k with
  | some e => s.wordFault 1 k e
  | none =>
    if a.toNat % w ≠ 0 then s.alignFault code (lg2 w) a
    else match s.translate s.iss.src.ctxid a .atomic with
      | .error e => s.takeFault (mapFault (locCore 0 s.iss.core 0xFF) 2 e 0 0 0 a)
      | .ok t =>
        match atomicReason t op with
        | some e => s.takeFault ((r t).refusal (locCore 0 s.iss.core 0xFF) e)
        | none =>
          if t.cls = 3 then { s with hostOut := s.hostOut ++ [HostOp.atomic (r t)] }.sealPhase s.iss.org
          else { s with reqs := s.reqs ++ [r t] }

/-- The width of an atomic: 4 or 8 bytes (R172). -/
def atomicBytes (w : BitVec 1) : Nat := if w = 1 then 8 else 4

/-- The low bytes of a register (R208). -/
def State.rdLow (s : State) (r : SReg) (w : Nat) : Nat := (s.rd r).toNat % 2 ^ (8 * w)

/-- AMO (R208). -/
def execAmo (g : Guard) (d addr b k : SReg) (op : BitVec 4) (w : BitVec 1) (s : State) : Out :=
  let n := atomicBytes w
  s.under g (.next (s.issueAtomic (.amo op.toNat) (s.rd addr) n (s.rdLow b n) 0 (s.rd k) (.sreg s.iss.core d)))

/-- CAS (R208). -/
def execCas (g : Guard) (d addr b c : SReg) (w : BitVec 1) (s : State) : Out :=
  let n := atomicBytes w
  s.under g (.next (s.issueAtomic .cas (s.rd addr) n (s.rdLow b n) (s.rdLow c n) 0 (.sreg s.iss.core d)))

/-- CASC (R208). -/
def execCasc (g : Guard) (d addr b c k : SReg) (w : BitVec 1) (s : State) : Out :=
  let n := atomicBytes w
  s.under g (.next (s.issueAtomic .casc (s.rd addr) n (s.rdLow b n) (s.rdLow c n) (s.rd k) (.sreg s.iss.core d)))

/-- AMOCT (R208). -/
def execAmoct (g : Guard) (d addr b c k : SReg) (op : BitVec 4) (cc : BitVec 3) (w : BitVec 1) (s : State) : Out :=
  let n := atomicBytes w
  s.under g (.next (s.issueAtomic (.amoct op.toNat cc.toNat) (s.rd addr) n (s.rdLow b n) (s.rdLow c n) (s.rd k)
    (.sreg s.iss.core d)))

/-- FRED: the element size is its format's; the operand is FP32; nothing returns (R210). -/
def execFred (g : Guard) (addr b k : SReg) (op : BitVec 4) (fmt : BitVec 3) (s : State) : Out :=
  s.under g (.next (s.issueAtomic (.fred op.toNat fmt.toNat) (s.rd addr) (fredBytes fmt.toNat) (s.rd b).toNat 0 (s.rd k) .none))

end Sys2Proof.Machine
end

