-- ==== Sys2Proof/Machine/Phase.lean ====
section
/-! DEFINITION. Phases: formation buffers, the store gate's release, FREEZE and what it commits (02, R41, R42; 06, R123;
12, R274, R276; 20, R393). -/
namespace Sys2Proof.Machine

/-! Formation buffers (R123). -/

/-- Row n of a buffer's tile: the row that arrived, else the bytes where the bank holds it, else zero. -/
def State.formRow (s : State) (c : Nat) (b : FormBuf) (n : Nat) : List Nat :=
  match b.rows.find n with
  | some r => r
  | none =>
    let w := 4 * elemBits b.fmt
    let off : Int := (b.firstOff : Int) + ((n : Int) - b.firstRow) * w
    let base : Int := (b.bank * 2 ^ 18 : Nat)
    if off < base ∨ base + 2 ^ 18 < off + w then List.replicate 32 0
    else (List.range 32).map fun j => s.num (cKey c (off.toNat + j * (elemBits b.fmt / 8))) (elemBits b.fmt / 8)

/-- The buffer's entry formed and written with flags zero. -/
def State.closeForm (s : State) (c : Nat) (b : FormBuf) : State :=
  let tile := (List.range 32).map fun n => (s.formRow c b n).map fun e => rimeValue b.fmt e 0x7F
  (s.noteWr c (cKey c b.entry) 256).putRime (cKey c b.entry) ⟨formRime tile, false, 0⟩

/-- Every open buffer of a core is closed. -/
def State.closeForms (s : State) (c : Nat) : State :=
  ((s.core c).forming.foldl (fun s b => s.closeForm c b) s).modCore c fun k => { k with forming := [] }

/-! What is still outstanding. -/

/-- A TOKX of a core is at the governor. -/
def State.tokxOut (s : State) (c : Nat) : Bool :=
  s.hub.transfers.any fun t => match t.dest with | some (k, _) => k == c | none => false

/-- An AtomicOp of a core is on its way to the host or back. -/
def State.hostAtomicOut (s : State) (c : Nat) : Bool :=
  s.hostOut.any fun o => match o with | .atomic r => r.org.core == some c | _ => false

/-- The last bundle of a core has still to do a part of what it does on the core path (R140, R144). -/
def State.lateOut (s : State) (c : Nat) : Bool := s.lates.any fun l => l.iss.core == c

/-- A request of a core is on its way or parked. -/
def State.atomicOut (s : State) (c : Nat) : Bool :=
  s.reqs.any (fun r => r.org.core == some c) || s.parked.any fun p => p.req.org.core == some c

/-- Some result of a core's bundles has still to land, or some atomic to be performed (R42 step 1). -/
def State.resultsOut (s : State) (c : Nat) : Bool :=
  s.rets.any (fun r => r.core == c) || s.atomicOut c || s.hostAtomicOut c || s.tokxOut c || s.lateOut c || s.hub.hubcsr.any (fun a => a.core == c)
    || s.remotes.any (fun r => r.kind == 0 && r.org.core == some c) || !(s.core c).vpend.isEmpty

/-- The last freeze's stores are still being released (R42). -/
def Core.releasingOut (k : Core) : Bool := k.committing || !k.releasing.isEmpty

/-- A store that the last freeze released has still to take its place in the memory order (R140). -/
def State.storesOut (s : State) (c : Nat) : Bool := !(s.core c).releasing.isEmpty || s.upds.any fun u => u.core == some c

/-- A write of a core is still on its way to the host or another module. -/
def State.farWritesOut (s : State) (c : Nat) : Bool :=
  s.remotes.any (fun r => r.kind == 1 && r.org.core == some c)
    || s.hostOut.any fun o => match o with
      | .write _ _ _ g => g.core == some c
      | .publish _ _ _ _ _ g => g.core == some c
      | .atomic r => r.org.core == some c

/-- Every write of the core's task is performed, in every path (R35 step 2). -/
def State.writesDone (s : State) (c : Nat) : Bool :=
  let k := s.core c
  !k.releasingOut && k.xq.isEmpty && k.slotq.isEmpty && k.arrayq.isEmpty && k.drains.isEmpty
    && !s.upds.any (fun u => u.core == some c) && !s.farWritesOut c && !s.resultsOut c

/-! The store gate's release (R42, R140). -/

/-- A host-bound write that is dropped (R393): the issuer is cancelled and its later PUBLISHes are withheld. -/
def State.dropHostWrite (s : State) (kind : Nat) (va : Word) (o : Org) : State :=
  let s := match o.core with
    | some c => if s.running o || ((s.core c).task.isNone && o.task == some (s.core c).taskrec) then s.modCore c fun k => { k with withheld := true } else s
    | none => s
  s.lateFault o ⟨0x1A, locDie 16 8, leBytes 1 kind, some va⟩

/-- A released store takes its place in the memory order (R140, R161, R162, R127). -/
def State.releaseStore (s : State) (c : Nat) (e : GateEnt) (atOnce : Bool) : State :=
  match e.tgt.cls with
  | 3 =>
    if s.hub.pcieUp then { s with hostOut := s.hostOut ++ [.write e.va e.tgt.addr e.bytes e.org] }
    else s.dropHostWrite 4 e.va e.org
  | 4 => s.remoteStore e.tgt e.va e.bytes e.org
  | _ =>
    let s := s.storeTime c e.tgt.key
    if e.tgt.rc && !atOnce then { s with upds := s.upds ++ [⟨e.va, e.tgt, e.bytes, e.org.ctx, some c, e.org.num, e.joined⟩] }
    else s.putTarget e.org.ctx e.va e.tgt e.bytes

/-- The core's next released store may be performed: no update of the core is on its way, and no request is parked at its line. -/
def State.canRelease (s : State) (c : Nat) : Bool :=
  !s.upds.any (fun u => u.core == some c)
    && (s.core c).releasing.all fun e => !s.behindParked [e.tgt.key]

/-! Fences (R149 to R151). -/

/-- The path bit of an X command (R147). -/
def xPath (i : Instr) : Nat :=
  match i with
  | .xcoll _ _ _ _ => 3
  | .xroute _ _ _ | .xrsnap _ _ | .xexpa _ _ | .xexpr _ _ => 4
  | .xtbl _ | .xfmt _ _ _ => 5
  | _ => 1

/-- The path bit of an M command that moves data (R147). -/
def mPath (i : Instr) : Option Nat :=
  match i with
  | .mmah _ | .mdrainh _ => some 2
  | .mlds _ | .msts _ _ _ _ _ _ | .mdrain _ => some 1
  | _ => none

/-- The M commands of a core that are outstanding. -/
def Core.mcmds (k : Core) : List MCmd := k.slotq ++ k.arrayq ++ k.drains.map (·.cmd)

/-- The name of an outstanding X command: its task's dispatch, its core and its SEQ, refetched commands apart (R272, R274). -/
def XCmd.name (x : XCmd) : Nat :=
  (x.org.serial * 2 ^ 17 + (if x.refetch then 65536 + x.seq else x.seq)) * 512 + x.org.core.getD 0

/-- The name of an outstanding M command: its number and its core. -/
def MCmd.name (m : MCmd) : Nat := m.seq * 512 + m.org.core.getD 0

/-- The name under which an X command reads and writes other modules (R82). -/
def XCmd.farName (x : XCmd) : Nat := 3 * x.name

/-- See `XCmd.farName`: an M command. -/
def MCmd.farName (m : MCmd) : Nat := 3 * m.name + 1

/-- A copy-out that its phase has not committed: its accesses are issued at the freeze (R276; DEDUCED, log 25). -/
def XCmd.future (x : XCmd) : Bool := x.cout && x.cur

/-- A fence issued now (R149). Copy-outs that no freeze has committed are not covered. -/
def Core.fenceOf (k : Core) (before after : BitVec 6) (system : Bool) : FenceSt where
  num := k.issued
  before := before.getLsbD 0
  after := after
  system := system
  xseqs := (k.xq.filter fun x => before.getLsbD (xPath x.instr) && !x.future).map XCmd.name
  mats := (k.mcmds.filter fun m => match mPath m.instr with | some p => before.getLsbD p | none => false).map MCmd.name

/-- An operation on the core path that a core issued before a bundle. -/
def Org.before (o : Org) (c n : Nat) : Bool := o.core == some c && decide (o.num < n)

/-- A core-path access issued before a bundle is still to be performed (R149): a released store, an atomic, a partial write, what is on its way
to the host, a load of another module; at system scope a store to another module too. -/
def State.accessOut (s : State) (c n : Nat) (system : Bool) : Bool :=
  (s.core c).releasing.any (fun e => decide (e.org.num < n)) || s.reqs.any (fun r => r.org.before c n)
    || s.parked.any (fun p => p.req.org.before c n) || s.upds.any (fun u => u.core == some c && decide (u.num < n))
    || s.hostOut.any (fun o => match o with
      | .write _ _ _ g => g.before c n
      | .publish _ _ _ _ _ _ => false
      | .atomic r => r.org.before c n)
    || s.remotes.any fun r => r.org.before c n && (r.kind == 0 || (system && r.kind == 1))

/-- The guarantee of a fence is met (R149): what issued before it is performed. A store still held in the gate is covered from its release on
(R150; for FENCE DEDUCED, log 46). -/
def State.fenceMet (s : State) (c : Nat) (f : FenceSt) : Bool :=
  !(f.before && s.accessOut c f.num f.system)
    && !((s.core c).xq.any fun x => f.xseqs.contains x.name) && !((s.core c).mcmds.any fun m => f.mats.contains m.name)

/-- Some fence of the core still holds a path. -/
def State.fenceHolds (s : State) (c : Nat) (path : Nat) : Bool :=
  (s.core c).fences.any fun f => f.after.getLsbD path && !s.fenceMet c f

/-- A fence issued before a bundle still holds the core path: a released store of that bundle waits (R150). -/
def State.releaseWaits (s : State) (c n : Nat) : Bool :=
  (s.core c).fences.any fun f => f.after.getLsbD 0 && decide (f.num ≤ n) && !s.fenceMet c f

/-- A fence that holds nothing any more: it is met, and no store before it is still in the gate. -/
def State.fenceDone (s : State) (c : Nat) (f : FenceSt) : Bool :=
  s.fenceMet c f && !(f.before && (s.core c).gate.any fun e => decide (e.org.num < f.num))

/-- A fence is outstanding from here on; those that hold nothing any more are forgotten. -/
def State.addFence (s : State) (f : FenceSt) : State :=
  s.modCore s.iss.core fun k => { k with fences := k.fences.filter (fun g => !s.fenceDone s.iss.core g) ++ [f] }

/-- FENCE (R151, R215): core path before, core path after, system scope. -/
def execFence (g : Guard) (s : State) : Out := s.under g (.next (s.addFence ((s.core s.iss.core).fenceOf 1 1 true)))

/-- XFENCE (R149, R215): masks of 0 make it a no-operation. -/
def execXfence (g : Guard) (before after : BitVec 6) (scope : BitVec 3) (s : State) : Out :=
  s.under g (.next (if before = 0 ∨ after = 0 then s
    else s.addFence ((s.core s.iss.core).fenceOf before after (scope == 4))))

/-! The release itself. -/

/-- The opcode byte in the record of a store that waits behind a parked request: the gate does not keep it, so it is free (DESIGN CHOICE, log 54). -/
def State.storeOp (s : State) : Nat := (Config.freeByte s.steps 7).toNat

/-- The oldest released store of a core comes to a line with parked requests (R387); discarded, it leaves the release with what is joined to it. -/
def State.storeWaits (s : State) (c : Nat) (e : GateEnt) (rest : List GateEnt) : State :=
  if s.behind.any fun w => w.core == c && w.store then s
  else match s.queueUp ⟨c, e.tgt.key, e.va, s.storeOp, 0, 0, true, e.org⟩ with
    | (true, t) => t.modCore c fun k => { k with releasing := rest }
    | (false, t) => t

/-- The oldest released store of a core is performed, with what is joined to it, once no fence before it holds it and no request is parked at
its line. -/
def State.drainOne (s : State) (c : Nat) : State :=
  match (s.core c).releasing with
  | [] => s
  | e :: rest =>
    let more := rest.takeWhile fun x => x.joined
    if s.upds.any (fun u => u.core == some c) || s.releaseWaits c e.org.num then s
    else if s.behindParked ((e :: more).map (·.tgt.key)) then s.storeWaits c e (rest.drop more.length)
    else
      more.foldl (fun s x => s.releaseStore c x false)
        ((s.modCore c fun k => { k with releasing := rest.drop more.length }).releaseStore c e false)

/-- The cores of the task that a core runs or ran. -/
def State.taskCores (s : State) (c : Nat) (o : Org) : List Nat := c :: (s.coresOf o.serial).filter (· != c)

/-- The X commands that a publication waits for (R161): those of its core's committed phases, and those of the task's other cores. -/
def State.xBefore (s : State) (c : Nat) (o : Org) : List Nat :=
  (s.taskCores c o).flatMap fun d => ((s.core d).xq.filter fun x => if d = c then !x.cur else !x.future).map XCmd.name

/-- See `State.xBefore`: the M commands. -/
def State.mBefore (s : State) (c : Nat) (o : Org) : List Nat :=
  (s.taskCores c o).flatMap fun d => ((s.core d).mcmds.filter fun m => d != c || !m.cur).map MCmd.name

/-- A held send is sent (R153, R161, R393). -/
def State.sendHeld (s : State) (c : Nat) (o : Org) (x : Send) : State :=
  match x with
  | .tdec w v => s.sendCont 2 w v o
  | .tspawn _ => { s with conts := s.conts ++ [⟨x, 3, o, none, (0, 0)⟩] }
  | .tarm _ _ => { s with conts := s.conts ++ [⟨x, 4, o, none, (0, 0)⟩] }
  | .publish a v =>
    if (s.core c).withheld then s.dropHostWrite 5 a o
    else match s.translate o.ctx a .write with
      | .ok t => if s.hub.pcieUp then { s with hostOut := s.hostOut ++ [.publish a t.addr v (s.xBefore c o) (s.mBefore c o) o] } else s.dropHostWrite 4 a o
      | .error _ => s

/-- Copy-outs of the committed phases start (R42 step 4, R276). -/
def Core.startCopyOuts (k : Core) : Core :=
  { k with xq := k.xq.map fun x => if x.cout && !x.cur then { x with started := true } else x }

/-- The phase's commands are committed: its copy-outs take their places behind the commands issued so far (R42 step 4, R276). -/
def Core.commitX (k : Core) : Core :=
  { k with
    xq := k.xq.zipIdx.map fun p => { p.1 with cur := false, ord := if p.1.future then k.mseq + p.2 else p.1.ord }
    mseq := k.mseq + k.xq.length }

/-- Whose the released stores and sends of a core are: those of a task that has been cancelled stay its own (R371). -/
def State.releaseOrg (s : State) (c : Nat) : Org :=
  if (s.core c).task.isNone then { s.orgOf c with task := some (s.core c).taskrec } else s.orgOf c

/-- The background work of a freeze is done: stores, sends, copy-outs (R42 steps 3 to 5, R153). -/
def State.finishRelease (s : State) (c : Nat) : State :=
  let o := s.releaseOrg c
  let k := s.core c
  let s := s.modCore c fun k => { k with releasing := [], sending := [], committing := false }
  let s := k.releasing.foldl (fun s e => s.releaseStore c e true) s
  let s := k.sending.foldl (fun s x => s.sendHeld c o x) s
  s.modCore c Core.startCopyOuts

/-- The sends of a freeze may go (R153, R161): the fences of its phase that hold the core path are met, and the released stores of the task's
other cores are performed where a version is to be published. -/
def State.canSend (s : State) (c : Nat) : Bool :=
  !((s.core c).fences.any fun f => f.after.getLsbD 0 && decide (f.num < (s.core c).shadow.num) && !s.fenceMet c f)
    && (!((s.core c).sending.any fun x => match x with | .publish _ _ => true | _ => false)
      || (s.taskCores c (s.releaseOrg c)).all fun d => d == c || !s.storesOut d)

/-- GATE_RELEASE_COMPLETE: the release of a freeze completes (R42). -/
def execGateReleaseComplete (core : Nat) (s : State) : Out :=
  .next (if (s.core core).committing && s.canRelease core && s.canSend core then s.finishRelease core else s)

/-- Two partial writes have bytes in common. -/
def Upd.meets (u v : Upd) : Bool := decide (u.tgt.key < v.tgt.key + v.bytes.length) && decide (v.tgt.key < u.tgt.key + u.bytes.length)

/-- INCREMENTAL_UPDATE: the n-th partial write on its way is performed, with what is joined to it; updates to one entry, and writes of one byte, keep their order of
arrival (R127, R128, R145). -/
def execIncrementalUpdate (n : Nat) (s : State) : Out :=
  let keys (u : Upd) : List Nat := (s.changesOf [u]).groups.map (·.1)
  match takeAt s.upds n with
  | none => .next s
  | some (u, rest) =>
    let more := (rest.drop n).takeWhile (·.joined)
    .next (if u.joined || (s.upds.take n).any (fun v => (u :: more).any fun w => v.meets w || (keys v).any (keys w).contains) then s
      else { s with upds := s.upds.take n ++ (rest.drop n).drop more.length }.performUpds (u :: more))

/-! FREEZE (R42, R214). -/

/-- Key ranges of a sorted list of keys, neighbours joined. -/
def joinKeys (l : List Nat) : List (Nat × Nat) :=
  (l.foldl (fun (acc : List (Nat × Nat)) k =>
    match acc with
    | (a, n) :: rest => if a + n = k then (a, n + 1) :: rest else (k, 1) :: acc
    | [] => [(k, 1)]) [])

/-- The bytes that a refetch set writes (R369). -/
def State.refetchBytes (s : State) (c : Nat) (l : List (Nat × BufEnt)) : List (Nat × Nat) :=
  (refetchCmds (s.core c) (s.orgOf c) l).flatMap fun x =>
    match s.readRec c x.org.ctx x.dr with
    | none => []
    | some b =>
      let d := { x with drec := b }.dst
      let list := if d.r.idxfmt = 0 then [] else (s.listKeys c x.org.ctx d.r d.y0).toOption.elim [] s.listVals
      joinKeys (s.blockKeys { d with list := list } .write)

/-- The live entries of the buffer table that a set names (R274). -/
def Core.bufSet (k : Core) (set : Nat) : List (Nat × BufEnt) := k.bufs.filter fun p => set.testBit p.1

/-- The core's registers as a freeze shadows them (R42 step 2). -/
def Core.shadowOf (k : Core) (pc : Word) (refetch : List (Nat × BufEnt)) (planes : BitVec 8) : FreezeShadow :=
  ⟨k.regs, k.csrs, k.lfsr, pc, refetch, planes, k.issued⟩

/-- The task of a core yields at this freeze (R44): a request stands. -/
def State.yields (s : State) (c : Nat) : Bool := (s.core c).yieldReq.isSome && (s.core c).task.isSome

/-- The steps of R42 that a freeze takes at once: buffers close, latches empty, the shadow is taken, the gate's stores and the held
sends are committed, consumed buffers are freed. The next bundle's address, the operand and the plane mask are given. -/
def State.commitPhase (s : State) (c : Nat) (pc : Word) (a : Word) (planes : BitVec 8) : State :=
  let s := s.closeForms c
  let refetch := (s.core c).bufSet (a.toNat % 65536)
  let exempt := s.refetchBytes c refetch
  s.modCore c fun k =>
    { k.commitX with
      latches := k.emptied
      shadow := { k.shadowOf pc refetch planes with num := k.issued + (s.iss.st == .ok).toNat }
      releasing := k.gate
      gate := []
      sending := k.held
      held := []
      committing := true
      bufs := k.bufs.filter fun p => !(a.toNat / 65536 % 65536).testBit p.1
      slotq := k.slotq.map fun m => { m with cur := false }
      arrayq := k.arrayq.map fun m => { m with cur := false }
      drains := k.drains.map fun d => { d with cmd := { d.cmd with cur := false } }
      phase := { Phase.fresh with exempt := exempt } }

/-- A freeze may take effect: every result has landed, the last release is complete, and the slot and array queues are empty (R42,
R257). -/
def State.canFreeze (s : State) (c : Nat) : Bool :=
  !s.resultsOut c && !(s.core c).releasingOut && (s.core c).slotq.isEmpty && (s.core c).arrayq.isEmpty

/-- A freeze: the phase commits, and a task asked to yield starts its save (R42, R44). -/
def State.freeze (s : State) (c : Nat) (pc : Word) (a : Word) (planes : BitVec 8) : State :=
  let y := s.yields c
  (s.commitPhase c pc a planes).modCore c fun k => { k with hold := if y then .saving else .none }

/-- FREEZE: at once where nothing is outstanding, else when it is not (R214). -/
def execFreeze (g : Guard) (a : SReg) (planes : BitVec 8) (s : State) : Out :=
  let c := s.iss.core
  s.under g (.next (
    if s.canFreeze c then s.freeze c s.iss.npc (s.rd a) planes
    else s.modCore c fun k => { k with hold := .freezing (s.rd a) planes }))

/-! Sends held for the commit (R153, R211, R212, R218). -/

/-- A send held until the phase commits. -/
def State.holdSend (s : State) (x : Send) : State := s.modCore s.iss.core fun k => { k with held := k.held ++ [x] }

/-- TDEC: a refused word faults at issue, KIND 0 sends nothing (R211, R412). -/
def execTdec (g : Guard) (a b : SReg) (s : State) : Out :=
  s.under g (.next (match contBad (s.rd a) with
    | some r => s.wordFault 1 (s.rd a) r
    | none => if contKind (s.rd a) = 0 then s else s.holdSend (.tdec (s.rd a) (s.rd b))))

/-- TSPAWN (R211). -/
def execTspawn (g : Guard) (a : SReg) (s : State) : Out := s.under g (.next (s.holdSend (.tspawn (s.rd a))))

/-- TARM (R212). -/
def execTarm (g : Guard) (a b : SReg) (s : State) : Out := s.under g (.next (s.holdSend (.tarm (s.rd a) (s.rd b))))

/-- PUBLISH: the address is checked at issue (R218, R412). -/
def execPublish (g : Guard) (a b : SReg) (s : State) : Out :=
  let bad (r : Nat) : State := s.takeFault (mapFault (locCore 0 s.iss.core 0xFF) 1 r 0 0 0 (s.rd a))
  s.under g (.next (
    if (s.rd a).toNat % 8 ≠ 0 then s.alignFault 0xA9 3 (s.rd a)
    else match s.translate s.iss.src.ctxid (s.rd a) .write with
      | .error r => bad r
      | .ok t => if t.cls = 3 then s.holdSend (.publish (s.rd a) (s.rd b)) else bad 2))

end Sys2Proof.Machine
end

