-- ==== Sys2Proof/Machine/Task.lean ====
section
/-! DEFINITION. The end of tasks, gangs, switch groups and yields (02, R34, R35, R44, R45; 03, R60, R61; 09, R213, R216, R217;
19, R376; 22, R414). -/
namespace Sys2Proof.Machine

/-! Freed cores. -/

/-- A core returned to the scheduler (R35 step 7): nothing of the task is left in it. -/
def State.freeCore (s : State) (c : Nat) : State :=
  ((s.unask c).dropLease c).modCore c fun k =>
    { k.dropPhase with task := none, lastCtx := some k.ctxid, hold := .none, fences := [], swapTick := none, yieldReq := none,
                       claim := none, phase := Phase.fresh, withheld := false }

/-- The slots claimed by a core pass to its gang (R34). -/
def State.claimToGang (s : State) (c serial : Nat) : State :=
  s.modCluster (clusterOf c) fun k =>
    { k with slots := k.slots.map fun p => if p.2.owner = .core c then (p.1, { p.2 with owner := .gang serial }) else p }

/-- Steps 3 to 7 of R35 for the core that ends the task, by what the record held at dispatch (R25). -/
def State.retire (s : State) (c : Nat) (b : Binding) (v : Word) : State :=
  let k := s.core c
  let s := ((s.dropLease c).freeSlots (clusterOf c) (.core c)).freeSlots (clusterOf c) (.gang b.serial)
  let s := if b.deadline ≠ 0 ∧ s.frame > b.deadline then
      (s.recFlag k.ctxid b.record 3 true).modHub fun h => { h with slips := h.slips.set k.eacct (min (h.slips.get k.eacct 0 + 1) (2 ^ 32 - 1)) }
    else s
  let s := s.recPut k.ctxid b.record 0x0C [4]
  let s := s.sendWords false (s.orgOf c) b.succs v
  s.freeCore c

/-- The queue entry of a yielded task: its original readiness time and the priority it had at dispatch (R36, R37), and the members of a
gang that have ended. -/
def Binding.queued (b : Binding) (ended : Nat) (value0 : Option Word) : QEnt :=
  ⟨b.record, b.ctx, b.ready, b.prio, b.eprio, b.stage, b.gang, b.clmask, b.wide, b.coolcls, b.release, none, false, true, ended, value0⟩

/-- The yield of a task none of whose members runs any more (R44): the record is marked, what the gang holds is released, and the task is
queued again on its die. -/
def State.requeue (s : State) (c : Nat) (b : Binding) (x : SaveSt) : State :=
  let s := ((s.recFlag b.ctx b.record 1 true).recPut b.ctx b.record 0x0C [3]).freeSlots (clusterOf c) (.gang b.serial)
  s.modDie (dieOf c) fun d => { d with
    saves := d.saves.filter fun y => y.serial != b.serial
    queue := d.queue ++ [b.queued (if b.gang then 15 - x.mask else 0) (x.value0.or b.value0)] }

/-- The yield of a gang under way (R44). -/
def State.saveOf (s : State) (c serial : Nat) : Option SaveSt := (s.die (dieOf c)).saves.find? fun x => x.serial == serial

/-- The retirement of a core in TDONE goes on once its writes are performed: a member of a gang ends its part, member 0 waits for
the others (R34, R35). The last member to end retires a gang whose member 0 ended before a yield. Where the others have yielded the gang
is queued again without the members that have ended (DESIGN CHOICE, log 39). -/
def State.retireStep (s : State) (c : Nat) (v : Word) : State :=
  match (s.core c).task with
  | none => s
  | some b =>
    let last := decide ((s.coresOf b.serial).length = 1)
    if !s.writesDone c then s
    else if !b.gang then s.retire c b v
    else
      match last, s.saveOf c b.serial with
      | true, some x =>
        ((s.claimToGang c b.serial).freeCore c).requeue c b { x with value0 := if b.member = 0 then some v else x.value0 }
      | true, none => if b.member = 0 then s.retire c b v else match b.value0 with
        | some v => s.retire c b v
        | none => (s.claimToGang c b.serial).freeCore c
      | false, _ => if b.member = 0 then s else (s.claimToGang c b.serial).freeCore c

/-- TDONE: ends the last phase as a freeze, at once where nothing is outstanding; the retirement follows (R213, R35). -/
def execTdone (g : Guard) (a : SReg) (s : State) : Out :=
  let c := s.iss.core
  s.under g (.next (
    if s.canFreeze c then (s.commitPhase c s.iss.npc 0 0).modCore c fun k => { k with hold := .retiring (s.rd a) }
    else s.modCore c fun k => { k with hold := .ending (s.rd a) }))

/-! The gang barrier (R216). -/

/-- The members of a gang are all in GSYNC with their slot commands complete and their atomics performed. -/
def State.barrierMet (s : State) (l : List Nat) : Bool :=
  l.length == 4 && l.all fun c => (s.core c).hold == .gsync && (s.core c).slotq.isEmpty && !s.atomicOut c

/-- The barrier opens for every member; a phase that has passed one cannot be run again (R369). -/
def State.openBarrier (s : State) (c : Nat) : State :=
  match (s.core c).task with
  | none => s
  | some b =>
    let l := s.coresOf b.serial
    if s.barrierMet l then l.foldl (fun s c => (s.irrevocable c).modCore c fun k => { k with hold := .synced }) s else s

/-- GSYNC: at once in a single task; in a gang the member arrives and the bundle is held until the barrier opens (R216). -/
def execGsync (g : Guard) (s : State) : Out :=
  let c := s.iss.core
  s.under g (.next (
    match (s.core c).task, (s.core c).hold with
    | some b, .synced => if b.gang then s.modCore c fun k => { k with hold := .none } else s
    | some b, _ => if b.gang then ((s.modCore c fun k => { k with hold := .gsync }).openBarrier c).hold else s
    | none, _ => s))

/-! Switch groups (R60, R61, R376, R414). -/

/-- The banks of a core swapped: latches empty, those that a capture is pending for too (R56), one swap more, the phase cannot be run again
(R61, R369). -/
def State.swapBanks (s : State) (c : Nat) : State :=
  (s.irrevocable c).modCore c fun k =>
    { k with active := 1 - k.active, latches := k.emptied, vpend := k.vpend.map fun v => { v with latch := none }, swaps := (k.swaps + 1) % 256,
             shadowSt := .complete, hold := .swapped, swapTick := none }

/-- A switch-group fault of the issuing bundle (R408, R414). -/
def State.swapFault (s : State) (why g : Nat) : State :=
  s.takeFault ⟨8, locCore 0 s.iss.core 0xFF, leBytes 1 why ++ leBytes 1 g, none⟩

/-- TSWAP (R61, R217, R414): the bundle is held until the fills before it are complete and the banks have swapped. -/
def execTswap (g : Guard) (n : BitVec 6) (s : State) : Out :=
  let c := s.iss.core
  let k := s.core c
  let sg := k.csrs.swgroup.toNat
  s.under g (.next (
    let s := s.modCore c fun k => { k with hold := if k.hold = .filling then .none else k.hold }
    if k.hold = .swapped then s.modCore c fun k => { k with hold := .none }
    else if n ≠ 0 ∧ (n.toNat ≠ sg % 64 ∨ sg / 2 ^ 16 % 1024 = 0) then s.swapFault 2 n.toNat
    else if k.xq.any XCmd.filling then (s.modCore c fun k => { k with hold := .filling }).hold
    else if k.shadowSt = .failed then
      (if n = 0 then s else s.abortSwitch c n.toNat false).swapFault 1 n.toNat
    else if n = 0 then (s.swapBanks c).hold
    else
      ((s.modHub fun h => { h with swmsgs := h.swmsgs ++ [⟨c, k.ctxid, n.toNat, sg / 2 ^ 16 % 1024, false, false⟩] }).modCore c
        fun k => { k with hold := .swap n.toNat }).hold))

/-- Switch-group faults decided at the hub (R414): the stalled members, with why, are cancelled, and none of them sends an abort of its own,
whichever of them is cancelled first. -/
def State.hubSwapFaults (s : State) (g : Nat) (l : List (Nat × Nat)) : State :=
  let l := l.filter fun p => (s.core p.1).hold == .swap g
  let os := l.map fun p => (p, { s.orgOf p.1 with bundle := some (s.core p.1).pc })
  let s := l.foldl (fun (s : State) p => s.modCore p.1 fun k => { k with hold := .none, swapTick := none }) s
  os.foldl (fun (s : State) p => s.lateFault p.2 ⟨8, locCore 0 p.1.1 0xFF, leBytes 1 p.1.2 ++ leBytes 1 g, none⟩) s

/-- The round of a switch group at the hub. -/
def State.round (s : State) (ctx g : Nat) : SwRound := s.hub.switch.get (ctx * 64 + g) ⟨0, 0, false, []⟩

/-- The round stands aborted: every waiting member takes the fault, a member with a reason of its own that one (R376, R414). Once arrivals
and aborts reach SIZE the counter is 0 again. -/
def State.abortRound (s : State) (ctx g : Nat) (r : SwRound) (own : List (Nat × Nat)) : State :=
  let s := s.modHub fun h => { h with
    swmsgs := h.swmsgs.filter fun m => !(m.ctx == ctx && m.g == g && m.abort && m.counted)
    switch := if r.size ≤ r.count then h.switch.del (ctx * 64 + g) else h.switch.set (ctx * 64 + g) { r with aborted := true, members := [] } }
  s.hubSwapFaults g (own ++ r.members.map fun c => (c, 4))

/-- An arrival reaches the hub (R61, R414). -/
def State.arrive (s : State) (m : SwMsg) : State :=
  let r := s.round m.ctx m.g
  let r := { r with count := r.count + 1, size := if r.count = 0 then m.size else r.size }
  if r.aborted then s.abortRound m.ctx m.g r [(m.core, 4)]
  else if m.size ≠ r.size then s.abortRound m.ctx m.g r [(m.core, 3)]
  else
    let r := { r with members := m.core :: r.members }
    if r.count < r.size then s.modHub fun h => { h with switch := h.switch.set (m.ctx * 64 + m.g) r }
    else
      let s := s.modHub fun h =>
        { h with switch := h.switch.del (m.ctx * 64 + m.g), swmsgs := h.swmsgs.filter fun x => !(x.ctx == m.ctx && x.g == m.g && x.abort && x.counted) }
      r.members.foldl (fun s c => s.modCore c fun k => { k with swapTick := some (s.frame + 2) }) s

/-- An abort reaches the hub (R376): it counts unless the core's arrival has been counted already. -/
def State.abort (s : State) (m : SwMsg) : State :=
  let r := s.round m.ctx m.g
  s.abortRound m.ctx m.g
    { r with count := if m.counted then r.count else r.count + 1
             size := if r.count = 0 then m.size else r.size
             members := r.members.filter (· != m.core) } []

/-- SWITCH_ARRIVAL: the n-th message on its way to the hub, an arrival (R61). -/
def execSwitchArrival (n : Nat) (s : State) : Out :=
  match takeAt s.hub.swmsgs n with
  | none => .next s
  | some (m, rest) => .next (if m.abort then s else (s.modHub fun h => { h with swmsgs := rest }).arrive m)

/-- SWITCH_ABORT: the n-th message on its way to the hub, an abort (R376). -/
def execSwitchAbort (n : Nat) (s : State) : Out :=
  match takeAt s.hub.swmsgs n with
  | none => .next s
  | some (m, rest) => .next (if m.abort then (s.modHub fun h => { h with swmsgs := rest }).abort m else s)

/-- SWAP_TICK: a member swaps once its tick has started (R61). -/
def execSwapTick (core : Nat) (s : State) : Out :=
  match (s.core core).swapTick, (s.core core).hold with
  | some t, .swap _ => .next (if t ≤ s.frame then s.swapBanks core else s)
  | _, _ => .next s

/-! Yields (R44, R45). -/

/-- The margin store's 4 KiB (R131). -/
def Plane.marginBytes (p : Plane) : List Byte :=
  (List.range 256).flatMap (fun i => leBytes 4 (laneOf p.mrow i).toNat) ++ (List.range 256).flatMap (fun i => leBytes 4 (laneOf p.mcol i).toNat)
    ++ leBytes 4 p.corner.toNat ++ leBytes 4 p.ksteps ++ leBytes 4 (p.nocheck.toNat + 2 * p.unver.toNat) ++ List.replicate 2036 0

/-- The elements of a plane row by row. -/
def Plane.elemBytes (p : Plane) : List Byte :=
  (List.range 256).flatMap fun i => (List.range 256).flatMap fun j => leBytes 4 (laneOf (p.rows.getD i []) j).toNat

/-- The task-writable registers as a save area holds them (R71). -/
def Csrs.words (k : Csrs) : List Word :=
  [k.ovfptr, k.rimectl, k.rimetol, k.rimeinj, k.lfsrseed, k.swgroup, k.nancnt, k.corrcnt, k.sampcnt]

/-- An entry of the refetch area (R275). -/
def BufEnt.bytes (b : BufEnt) : List Byte :=
  leBytes 8 b.word.toNat ++ (List.range 4).flatMap (fun n => leBytes 8 (b.vals.getD n 0).toNat) ++ List.replicate 24 0

/-- Reserved bytes are written as zero. -/
def zeroBytes (n : Nat) : List Byte := List.replicate n 0

/-- One group's part of a save area (R45): v, q, b and 64 reserved bytes. -/
def Regs.groupBytes (r : Regs) (g : Nat) : List Byte :=
  (List.range 64).flatMap (fun n => (List.range 32).flatMap fun l => leBytes 4 (laneOf (r.getV g n) l).toNat)
    ++ (List.range 8).flatMap (fun n => leBytes 4 (r.getQ g n).toNat) ++ (List.range 8).flatMap (fun n => leBytes 4 (r.getB g n).toNat)
    ++ zeroBytes 64

/-- The pieces of a member's save area: offset and bytes (R45, R275). -/
def State.saveArea (s : State) (c : Nat) (spill : Nat) : List (Nat × List Byte) :=
  let k := s.core c
  let r := k.shadow.regs
  let img (n : Nat) : Nat := ((k.banks.getD n Bank.clear).img).toNat
  let head := leBytes 8 k.shadow.pc.toNat ++ leBytes 8 (img k.active) ++ leBytes 8 (img (1 - k.active)) ++ leBytes 8 s.frame
    ++ leBytes 1 k.shadow.planes.toNat ++ zeroBytes 31
  let pred := (List.range 8).foldl (fun a n => a + (r.getP n).toNat * 2 ^ n) 0
  let planes := (List.range 8).filter fun n => k.shadow.planes.getLsbD n
  let refetch := (List.range 16).flatMap fun n => match k.shadow.refetch.find? (fun p => p.1 == n) with
    | some p => p.2.bytes
    | none => zeroBytes 64
  [(0, head), (0x40, (List.range 64).flatMap fun n => leBytes 8 (r.getS n).toNat), (0x240, leBytes 1 pred),
   (0x248, (List.range 4).flatMap fun n => leBytes 8 (r.getLc n).toNat),
   (0x280, ((List.range 16).flatMap fun n => leBytes 8 (k.csrs.words.getD n 0).toNat)),
   (0x300, (List.range 16).flatMap fun n => leBytes 16 (k.fmts.get n 0).toNat)]
    ++ (List.range 16).map (fun g => (0x400 + g * 0x2080, r.groupBytes g))
    ++ planes.flatMap (fun n => [(0x21000 + n * 0x41000, (k.planes.get n Plane.zero).elemBytes),
        (0x21000 + n * 0x41000 + 0x40000, (k.planes.get n Plane.zero).marginBytes)])
    ++ (List.range 16).map (fun g => (0x229000 + g * spill * 4096, s.get (cKey c (g * 2 ^ 18 + 2 ^ 18 - spill * 4096)) (spill * 4096)))
    ++ [(0x229000 + spill * 0x10000, refetch)]

/-- The offsets in a save area of the sectors of saved planes and carve-outs that are damaged (R383). A plane's sectors are numbered as its bytes
lie in the area. -/
def State.savedHurt (s : State) (c : Nat) (spill : Nat) : List Nat :=
  let k := s.core c
  ((List.range 8).filter fun n => k.shadow.planes.getLsbD n).flatMap (fun n =>
      (k.planes.get n Plane.zero).poison.map fun x => 0x21000 + n * 0x41000 + 32 * x)
    ++ (List.range 16).flatMap fun g => ((List.range (spill * 128)).filter fun i =>
        s.damaged (cKey c (g * 2 ^ 18 + 2 ^ 18 - spill * 4096 + 32 * i)) 1).map fun i => 0x229000 + g * spill * 4096 + 32 * i

/-- Damage moves into a save area with the bytes that it lies in, and is reported (R383). -/
def State.hurtArea (s : State) (c ctx base : Nat) (l : List Nat) : State :=
  l.foldl (fun (s : State) off =>
    match s.spanKeys 0 ctx .g (BitVec.ofNat 64 (base + off)) 1 .write with
    | .ok [k] => (s.poisonRange k 1).post
        { mkRec 0x16 0 (locCore 7 c 0xFF) (leBytes 1 0) (some (BitVec.ofNat 64 k)) (some (s.orgOf c)) with phys := true }
    | _ => s) s

/-- The save area of a member (R45). -/
def Binding.area (b : Binding) : Nat := b.saveptr.toNat + b.member * (0x230000 + b.spill * 0x10000)

/-- The keys of the pieces of a save area, or the first fault. -/
def State.areaKeys (s : State) (ctx base : Nat) (acc : Acc) (l : List (Nat × List Byte)) : Except (Nat × Word) (List (Nat × Byte)) :=
  match l with
  | [] => .ok []
  | (off, bs) :: l =>
    match s.spanKeys 0 ctx .g (BitVec.ofNat 64 (base + off)) bs.length acc, s.areaKeys ctx base acc l with
    | .error e, _ => .error e
    | .ok _, .error e => .error e
    | .ok ks, .ok r => .ok (ks.zip bs ++ r)

/-- The save of a member is complete (R44): its core is freed, and kept for the task that waits; the task is queued again once no member
runs. -/
def State.memberSaved (s : State) (c : Nat) (b : Binding) : State :=
  let w := (s.core c).yieldReq.bind (·.waiter)
  let last := decide ((s.coresOf b.serial).length = 1)
  let old := (s.saveOf c b.serial).getD ⟨b.serial, 0, none⟩
  let x := { old with mask := old.mask ||| 2 ^ b.member }
  let s := (((s.freeSlots (clusterOf c) (.core c)).freeCore c).reserveFor c w)
  if last then s.requeue c b x
  else s.modDie (dieOf c) fun d => { d with saves := x :: d.saves.filter fun y => y.serial != b.serial }

/-- The save of a member may be written: the release is complete and the core's commands are done (R44; DEDUCED, log 26). -/
def State.canSave (s : State) (c : Nat) : Bool :=
  let k := s.core c
  !k.releasingOut && k.xq.isEmpty && k.mcmds.isEmpty

/-- The yield of a task is given up, and with it what stands reserved for the task that asked (R381). -/
def State.dropYield (s : State) (c : Nat) (b : Binding) : State :=
  let s := match (s.core c).yieldReq.bind (·.waiter) with
    | some (r, x) => s.modDie (dieOf c) fun d => { d with
        resv := d.resv.filter fun v => !(v.record == r && v.ctx == x)
        queue := d.queue.map fun (q : QEnt) => if q.record = r ∧ q.ctx = x then { q with asked := false } else q }
    | none => s
  (s.coresOf b.serial).foldl (fun (s : State) m => s.modCore m fun k => { k with yieldReq := none }) s

/-- The save of a core is written whole, damage included, or found out of map (R44, R45, R381, R383). -/
def State.save (s : State) (c : Nat) (b : Binding) : State :=
  match s.areaKeys b.ctx b.area .write (s.saveArea c b.spill) with
  | .error (r, a) => (s.dropYield c b).lateFault (s.orgOf c) (mapFault (locCore 7 c 0xFF) 1 r 1 3 0 a)
  | .ok kb => ((s.putKeys kb).hurtArea c b.ctx b.area (s.savedHurt c b.spill)).memberSaved c b

/-- SAVE_COMPLETE (R44). -/
def execSaveComplete (core : Nat) (s : State) : Out :=
  match (s.core core).task, (s.core core).hold with
  | some b, .saving => .next (if s.canSave core then s.save core b else s)
  | _, _ => .next s

/-- What holds a core between bundles goes on (R34, R35, R42, R216). -/
def State.poll (s : State) (c : Nat) : State :=
  let k := s.core c
  match k.hold with
  | .freezing a p => if s.canFreeze c then s.freeze c k.pc a p else s
  | .ending v => if s.canFreeze c then (s.commitPhase c k.pc 0 0).modCore c fun k => { k with hold := .retiring v } else s
  | .retiring v => s.retireStep c v
  | .gsync => s.openBarrier c
  | _ => s

end Sys2Proof.Machine
end

