-- ==== Sys2Proof/Machine/System.lean ====
section
/-! DEFINITION. Control and status registers, TRAP, ICINV, SRFENCE, EREAD and TOKX (03, R66 to R71; 09, R219 to R225;
18, R358, R362; 22, R413, R418, R419). -/
namespace Sys2Proof.Machine

/-! Values of registers. -/

/-- A zone of the coolant allocation table; the zones of a disabled cluster stand at position 0 (R317). -/
def State.zone (s : State) (z : Nat) : Zone :=
  let off := z < 256 ∧ !s.enabled (z / 32) (z % 32 / 2)
  s.hub.zones.get z (if off then { Zone.reset with max := 0, min := 0, grant := 0, valve := 0, counts := 0 } else Zone.reset)

/-- The state with a zone changed. -/
def State.modZone (s : State) (z : Nat) (f : Zone → Zone) : State :=
  s.modHub fun h => { h with zones := h.zones.set z (f (s.zone z)) }

/-- The zone of a core (R316). -/
def zoneOf (c : Nat) : Nat := dieOf c * 32 + 2 * (clusterOf c % 16) + memberOf c / 2

/-- A word from fields: value and low bit. -/
def packed (l : List (Nat × Nat)) : Word := BitVec.ofNat 64 (l.foldl (fun a p => a + p.1 * 2 ^ p.2) 0)

/-- SHADOW of TBLST (R69). -/
def ShadowSt.code : ShadowSt → Nat | .unused => 0 | .filling => 1 | .complete => 2 | .failed => 3

/-- TBLST (R69). -/
def Core.tblst (k : Core) : Word := packed [(k.waitpeer, 40), (k.swaps, 32), (k.reject, 16), (k.shadowSt.code, 2), (k.active, 0)]

/-- The lease of a core's cluster is its own (R251). -/
def State.holds (s : State) (c : Nat) : Bool := (s.cluster (clusterOf c)).lease.holder == some (memberOf c)

/-- LEASEST (R253). -/
def State.leasest (s : State) (c : Nat) : Word :=
  let k := s.core c
  let l := (s.cluster (clusterOf c)).lease
  let held := s.holds c
  let st := if k.suspended then 3 else if held then 2 else if k.leaseReq ≠ 0 then 1 else 0
  packed [(if held then l.cycles else 0, 32), (if held then l.count else 0, 16), (k.grants, 8), (k.arrayq.length, 2), (st, 0)]

/-- SLOTBASE (R255): the claim's count and base. -/
def Core.slotbase (k : Core) : Word :=
  match k.claim with
  | some (base, count) => packed [(count, 16), (1, 9), (base, 0)]
  | none => 0

/-- A cluster acts at the throttled rate: by firmware, by the governor, or for one of its zones (R323, R422, R425, R427). -/
def State.throttled (s : State) (k : Nat) : Bool :=
  let z (n : Nat) : Bool := let z := s.zone (k / 16 * 32 + 2 * (k % 16) + n); z.hot || z.low || z.tripped || z.evac.isSome
  (s.die (k / 16)).thr.getLsbD (k % 16) || s.hub.throttled.contains k || z 0 || z 1

/-- CLKSTEP (R314). -/
def State.clkstep (s : State) (c : Nat) : Word :=
  let d := s.die (dieOf c)
  let thr := s.throttled (clusterOf c)
  match d.pending.head? with
  | some (n, t) => packed [(t % 2 ^ 40, 16), (thr.toNat, 13), (1, 12), (n, 8), (d.step, 0)]
  | none => packed [(thr.toNat, 13), (d.step, 0)]

/-- The flow that a zone grants to a task of a context (R319). -/
def Zone.grantTo (z : Zone) (ctx grant : Nat) : Nat := if z.shared || z.owner == ctx then grant else 0

/-- COOLCLS (R321). -/
def State.coolclsWord (s : State) (c : Nat) : Word :=
  let z := s.zone (zoneOf c)
  packed [(zoneOf c, 10), (z.valve, 6), (z.grantTo (s.core c).ctxid z.grant, 2), ((s.core c).coolcls, 0)]

/-- TOKBAL (R311). -/
def State.tokbal (s : State) : Word := packed [(min s.hub.power 8191, 32), (s.hub.floor, 16), (s.hub.balance, 0)]

/-- The bank of a unit of a core (R362). -/
def coreBank (u c : Nat) : Nat := bankKey (locCore u c 0)

/-- Word 0 of an error bank (R362). -/
def ErrBank.status (b : ErrBank) : Word :=
  packed [(b.valid.toNat, 63), (b.ue.toNat, 62), (b.ovf.toNat, 61), (b.ueovf, 32), (b.cecnt, 0)]

/-- Word n of an error bank. -/
def ErrBank.word (b : ErrBank) (n : Nat) : Word :=
  if n = 0 then b.status
  else match b.kept with
    | some r => BitVec.ofNat 64 (leNat ((r.bytes.drop (8 * (n - 1))).take 8))
    | none => 0

/-- ERRFLAGS (R358). -/
def Ring.flags (r : Ring) : Word := packed [(r.lost, 32), (r.bad.toNat, 1), (r.ovf.toNat, 0)]

/-- A register held at the hub: the error ring of the context, the trap registers (R358, R418). -/
def hubHeld (n : Nat) : Bool := decide (0x070 ≤ n ∧ n ≤ 0x074) || decide (0x8A0 ≤ n ∧ n ≤ 0x8AF)

/-- A register held at the hub, as a core of a context reads it. -/
def State.hubGet (s : State) (ctx n : Nat) : Word :=
  let r := (s.ctx ctx).ring
  match n with
  | 0x070 => BitVec.ofNat 64 (r.base * 64)
  | 0x071 => BitVec.ofNat 64 r.size
  | 0x072 => BitVec.ofNat 64 r.head
  | 0x073 => BitVec.ofNat 64 r.tail
  | 0x074 => r.flags
  | n => (s.ctx (n - 0x8A0)).traprec

/-- The number is one that R66 lists. -/
def listed (n : Nat) : Bool :=
  decide (n ≤ 0x005) || n == 0x010 || n == 0x011 || decide (0x020 ≤ n ∧ n ≤ 0x022) || decide (0x030 ≤ n ∧ n ≤ 0x035)
    || n == 0x040 || n == 0x041 || n == 0x050 || n == 0x051 || n == 0x060 || decide (0x070 ≤ n ∧ n ≤ 0x074)
    || decide (0x080 ≤ n ∧ n ≤ 0x084)

/-- The listed registers that take writes (R66); RIMEINJ needs the test permission beside. -/
def writable (n : Nat) : Bool :=
  n == 0x022 || decide (0x030 ≤ n ∧ n ≤ 0x035) || n == 0x051 || n == 0x060 || n == 0x070 || n == 0x071 || n == 0x073 || n == 0x074

/-- A register of a core (R66) or of its die, its units' banks among them; unlisted numbers read zero (R413). -/
def State.csrGet (s : State) (c n : Nat) : Word :=
  let k := s.core c
  let d := s.die (dieOf c)
  match n with
  | 0x000 => k.taskrec
  | 0x001 => BitVec.ofNat 64 k.ctxid
  | 0x002 => k.tilec
  | 0x003 => BitVec.ofNat 64 k.stage
  | 0x004 => packed [(s.hub.module, 16), (c, 0)]
  | 0x005 => s.grade
  | 0x010 => BitVec.ofNat 64 s.frame
  | 0x011 => BitVec.ofNat 64 d.cycle
  | 0x020 => BitVec.ofNat 64 k.spillbase
  | 0x021 => BitVec.ofNat 64 k.spillsize
  | 0x022 => k.csrs.ovfptr
  | 0x030 => k.csrs.nancnt
  | 0x031 => k.csrs.corrcnt
  | 0x032 => k.csrs.rimectl
  | 0x033 => k.csrs.rimetol
  | 0x034 => k.csrs.rimeinj
  | 0x035 => k.csrs.sampcnt
  | 0x040 => s.leasest c
  | 0x041 => k.slotbase
  | 0x050 => k.tblst
  | 0x051 => k.csrs.swgroup
  | 0x060 => k.csrs.lfsrseed
  | 0x080 => BitVec.ofNat 64 k.eacct
  | 0x081 => s.clkstep c
  | 0x082 => s.tokbal
  | 0x083 => s.coolclsWord c
  | 0x084 => BitVec.ofNat 64 (s.hub.slips.get k.eacct 0)
  | 0x880 => BitVec.ofNat 64 d.prewait
  | 0x881 => BitVec.ofNat 64 d.phasemax
  | 0x882 => BitVec.ofNat 64 d.forcewait
  | 0x883 => BitVec.ofNat 64 d.atomwait
  | 0x891 => BitVec.ofNat 64 d.cgroup
  | n =>
    if hubHeld n then s.hubGet k.ctxid n
    else if 0x900 ≤ n ∧ n < 0x980 ∧ n % 16 ≤ 8 then (s.hub.banks.get (coreBank (n / 16 % 16) c) ErrBank.empty).word (n % 16)
    else 0

/-! Writes. -/

/-- The value that a CSR instruction writes: 1 CSRW, 2 CSRS, 3 CSRC (R219). -/
def csrNew (op : Nat) (old a : Word) : Word := match op with | 1 => a | 2 => old ||| a | _ => old &&& ~~~a

/-- A write-one-to-clear bit is cleared: by CSRW and CSRS with a one there, never by CSRC (R219). -/
def clears (op : Nat) (a : Word) (bit : Nat) : Bool := decide (op ≤ 2) && a.getLsbD bit

/-- Seeds of a core's generators (R108). -/
def seeds (seed : Word) : Tbl (List Lane) :=
  (List.range 16).map fun g => (g, lanes fun l => BitVec.ofNat 32 (lfsrSeed (seed.toNat % 2 ^ 32) g l))

/-- A write of RIMEINJ: a reserved TARGET or a CHUNK above 32 leaves ARM clear (R138). -/
def rimeinjValue (v : Word) : Word :=
  let v := v &&& 0xFFFF_FFFF_FFE0_0000
  if v.toNat / 2 ^ 60 % 8 > 3 ∨ v.toNat / 2 ^ 21 % 64 > 32 then v &&& 0x7FFF_FFFF_FFFF_FFFF else v

/-- The ring registers cleared by an accepted write of ERRBASE or ERRSIZE (R358). -/
def Ring.cleared (r : Ring) : Ring := { r with head := 0, tail := 0, lost := 0, bad := false, ovf := false, seqctr := 0 }

/-- A write of ERRBASE (R358). -/
def State.setErrbase (s : State) (ctx : Nat) (v : Word) : State :=
  s.modRing ctx fun r => { r.cleared with base := v.toNat / 64 % 2 ^ 42 }

/-- A write of ERRSIZE: 0 or a power of two from 4 to 1,048,576; others are ignored (R358). -/
def State.setErrsize (s : State) (ctx : Nat) (v : Word) : State :=
  let n := v.toNat % 2 ^ 21
  if n = 0 ∨ (4 ≤ n ∧ n ≤ 1048576 ∧ 2 ^ n.log2 = n) then s.modRing ctx fun r => { r.cleared with size := n } else s

/-- A write of ERRTAIL: taken only within the ring (R358). -/
def State.setErrtail (s : State) (ctx : Nat) (v : Word) : State :=
  let n := v.toNat % 2 ^ 32
  s.modRing ctx fun r => if (r.head + 2 ^ 32 - n) % 2 ^ 32 ≤ r.size then { r with tail := n } else r

/-- A write of ERRFLAGS: LOST, and OVF where it is cleared (R358). -/
def State.setErrflags (s : State) (ctx : Nat) (v : Word) (clear : Bool) : State :=
  s.modRing ctx fun r => { r with lost := v.toNat / 2 ^ 32 % 65536, ovf := r.ovf && !clear }

/-- The writable bits of a trap register (R418). -/
def traprecMask : Word := 0x0000_FFFF_FFFF_FFB1

/-- A write of a register held at the hub (R358, R418). -/
def State.hubSet (s : State) (ctx n op : Nat) (a : Word) : State :=
  let v := csrNew op (s.hubGet ctx n) a
  match n with
  | 0x070 => s.setErrbase ctx v
  | 0x071 => s.setErrsize ctx v
  | 0x072 => s
  | 0x073 => s.setErrtail ctx v
  | 0x074 => s.setErrflags ctx v (clears op a 0)
  | n => s.modCtx (n - 0x8A0) fun x => { x with traprec := v &&& traprecMask }

/-- A write of word 0 of an error bank (R362). -/
def ErrBank.write (b : ErrBank) (op : Nat) (a : Word) : ErrBank :=
  let v := csrNew op b.status a
  let b := { b with ueovf := v.toNat / 2 ^ 32 % 65536, cecnt := v.toNat % 2 ^ 32 }
  if clears op a 63 then { b with valid := false, ue := false, ovf := false } else b

/-- What a write leaves in a task-writable register: reserved fields take none (R7, R71). A SIZE of SWGROUP above 512, which no rule gives
a fate, is kept as written (DESIGN CHOICE, log 41). -/
def csrKept (n : Nat) (v : Word) : Word :=
  match n with
  | 0x022 => v
  | 0x032 => v &&& 0x0000_FFFF_0000_0007
  | 0x033 => v &&& 0x1F
  | 0x034 => rimeinjValue v
  | 0x051 => v &&& 0x03FF_003F
  | _ => v &&& 0xFFFF_FFFF

/-- A task-writable register of a core written (R66, R71). -/
def Core.setCsr (k : Core) (n : Nat) (v : Word) : Core :=
  let u := k.csrs
  let w := csrKept n v
  match n with
  | 0x022 => { k with csrs := { u with ovfptr := w } }
  | 0x030 => { k with csrs := { u with nancnt := w } }
  | 0x031 => { k with csrs := { u with corrcnt := w } }
  | 0x032 => { k with csrs := { u with rimectl := w } }
  | 0x033 => { k with csrs := { u with rimetol := w } }
  | 0x034 => { k with csrs := { u with rimeinj := w } }
  | 0x035 => { k with csrs := { u with sampcnt := w } }
  | 0x051 => { k with csrs := { u with swgroup := w } }
  | 0x060 => { k with csrs := { u with lfsrseed := w }, lfsr := seeds v }
  | _ => k

/-- A write of LFSRSEED in the bundle in issue is noted (R108). -/
def State.noteSeed (s : State) (n : Nat) : State := if n = 0x060 then { s with iss := { s.iss with seeded := true } } else s

/-- Word 0 of the bank of a unit written (R362). -/
def State.writeBank (s : State) (bank op : Nat) (a : Word) : State :=
  s.modHub fun h => { h with banks := h.banks.set bank ((h.banks.get bank ErrBank.empty).write op a) }

/-- A register written by a CSR instruction of a core, or by firmware, which reaches the trap registers too (R66, R418); what takes no write
is unchanged. -/
def State.csrSet (s : State) (c n op : Nat) (a : Word) : State :=
  let v := csrNew op (s.csrGet c n) a
  let low := v.toNat % 2 ^ 32
  match n with
  | 0x880 => s.modDie (dieOf c) fun d => { d with prewait := low }
  | 0x881 => s.modDie (dieOf c) fun d => { d with phasemax := low }
  | 0x882 => s.modDie (dieOf c) fun d => { d with forcewait := low }
  | 0x883 => s.modDie (dieOf c) fun d => { d with atomwait := low }
  | 0x891 => s.modDie (dieOf c) fun d => { d with cgroup := v.toNat % 65536 }
  | n =>
    if 0x900 ≤ n ∧ n < 0x980 then
      if n % 16 = 0 then s.writeBank (coreBank (n / 16 % 16) c) op a else s
    else if 0x8A0 ≤ n ∧ n ≤ 0x8AF then s.hubSet (s.core c).ctxid n op a
    else (s.modCore c fun k => k.setCsr n v).noteSeed n

/-- A privilege fault (R408, R413): 0 CSR access, 1 TOKX, 2 RIMEINJ without the test permission. -/
def State.privFault (s : State) (why op n : Nat) : State :=
  s.takeFault ⟨3, locCore 0 s.iss.core 0xFF, leBytes 1 why ++ leBytes 1 op ++ leBytes 2 n, none⟩

/-- What a CSR instruction may not do (R413): none, or the DETAIL byte 0. -/
def csrBad (ctx n : Nat) (op : Nat) (a : Word) (test : Bool) : Option Nat :=
  let writes := op = 1 ∨ (op ≠ 0 ∧ a ≠ 0)
  if ctx ≠ 0 ∧ (n ≥ 0x800 ∨ !listed n) then some 0
  else if n = 0x034 ∧ writes ∧ !test then some 2
  else if ctx ≠ 0 ∧ writes ∧ !writable n then some 0
  else none

/-- The V entries and matrix-slot commands before a bundle have all been counted (R101, R137, R402). -/
def Core.counted (k : Core) : Bool := k.vpend.isEmpty && k.slotq.isEmpty && k.arrayq.isEmpty

/-- The register waits for counts (R101, R137), or for the V entries before it (R108). -/
def csrWaits (k : Core) (n : Nat) (writes : Bool) : Bool :=
  ((n == 0x030 || n == 0x031 || n == 0x032 || n == 0x035) && !k.counted) || (n == 0x060 && writes && !k.vpend.isEmpty)

/-- A CSR instruction (R219, R220, R358, R413): 0 CSRR, 1 CSRW, 2 CSRS, 3 CSRC. The old value lands at issue, or with the hub's
answer where the hub holds the register. Every CSRS and CSRC of LFSRSEED seeds the generators, one that sets or clears nothing too (R108). -/
def State.csrAccess (s : State) (op : Nat) (d : SReg) (a : Word) (n : Nat) : State :=
  let c := s.iss.core
  let k := s.core c
  match csrBad k.ctxid n op a (s.ctx k.ctxid).test with
  | some why => s.privFault why (0xC0 + op) n
  | none =>
    let writes := op = 1 ∨ (op ≠ 0 ∧ (a ≠ 0 ∨ n = 0x060))
    if hubHeld n then
      if s.hub.hubcsr.any (fun x => x.core == c) then s.hold
      else s.modHub fun h => { h with hubcsr := h.hubcsr ++ [⟨c, n, if writes then op else 0, a, d, k.ctxid⟩] }
    else if csrWaits k n writes then s.hold
    else
      let old := s.csrGet c n
      (if writes then s.csrSet c n op a else s).wr d old

/-- CSRR (R219). -/
def execCsrr (g : Guard) (d : SReg) (csr : BitVec 12) (s : State) : Out := s.under g (.next (s.csrAccess 0 d 0 csr.toNat))

/-- CSRW (R219). -/
def execCsrw (g : Guard) (d a : SReg) (csr : BitVec 12) (s : State) : Out := s.under g (.next (s.csrAccess 1 d (s.rd a) csr.toNat))

/-- CSRS (R219). -/
def execCsrs (g : Guard) (d a : SReg) (csr : BitVec 12) (s : State) : Out := s.under g (.next (s.csrAccess 2 d (s.rd a) csr.toNat))

/-- CSRC (R219). -/
def execCsrc (g : Guard) (d a : SReg) (csr : BitVec 12) (s : State) : Out := s.under g (.next (s.csrAccess 3 d (s.rd a) csr.toNat))

/-! The effects of single registers, as the table lists them. -/

/-- NANCNT_ACCESS: an access of NANCNT by the issuing core, held until every count before it is made (R101). -/
def execNancntAccess (op : BitVec 2) (d : SReg) (v : Word) (s : State) : Out := .next (s.csrAccess op.toNat d v 0x030)

/-- LFSRSEED_WRITE: the seed is written and every lane's generator seeded from it (R108, R110). -/
def execLfsrseedWrite (v : Word) (s : State) : Out :=
  let c := s.iss.core
  .next (if (s.core c).vpend.isEmpty then s.csrSet c 0x060 1 v else s.hold)

/-- RIMEINJ_WRITE: an injection is set up, with the test permission (R138, R413). -/
def execRimeinjWrite (v : Word) (s : State) : Out :=
  let c := s.iss.core
  .next (if (s.ctx (s.core c).ctxid).test then s.csrSet c 0x034 1 v else s.privFault 2 0xC1 0x034)

/-- SWGROUP_WRITE: the core's membership is set (R60, R70). -/
def execSwgroupWrite (v : Word) (s : State) : Out := .next (s.csrSet s.iss.core 0x051 1 v)

/-- ERRBASE_WRITE: the hub applies it between two records (R358). -/
def execErrbaseWrite (ctx : Nat) (v : Word) (s : State) : Out := .next (s.setErrbase ctx v)

/-- ERRSIZE_WRITE (R358). -/
def execErrsizeWrite (ctx : Nat) (v : Word) (s : State) : Out := .next (s.setErrsize ctx v)

/-- ERRTAIL_WRITE (R358). -/
def execErrtailWrite (ctx : Nat) (v : Word) (s : State) : Out := .next (s.setErrtail ctx v)

/-- ERRFLAGS_WRITE (R358). -/
def execErrflagsWrite (ctx : Nat) (v : Word) (s : State) : Out := .next (s.setErrflags ctx v (v.getLsbD 0))

/-- HUB_CSR_ANSWER: the hub performs a core's access and its old value lands (R358). -/
def execHubCsrAnswer (core : Nat) (s : State) : Out :=
  match s.hub.hubcsr.find? fun a => a.core == core with
  | none => .next s
  | some a =>
    let old := s.hubGet a.ctx a.csr
    let s := s.modHub fun h => { h with hubcsr := h.hubcsr.filter fun x => x.core != core }
    let s := if a.op = 0 then s else s.hubSet a.ctx a.csr a.op a.v
    .next (s.modCore core fun k => { k with regs := k.regs.setS a.d.toNat old })

/-- The number of a bank of a unit from 8 to 20. -/
def outerBank (n : Nat) : Bool := decide (8 ≤ n / 2 ^ 20 ∧ n / 2 ^ 20 ≤ 20)

/-- ERROR_BANK_WRITE: word 0 of a bank is written: of a unit of the issuing core, numbers 0 to 7; or, by firmware through the controller, of a
unit from 8 to 20, by the number of its bank (R362). -/
def execErrorBankWrite (unit : Nat) (v : Word) (s : State) : Out :=
  .next (if unit < 8 then s.csrSet s.iss.core (0x900 + 16 * unit) 1 v else if outerBank unit then s.writeBank unit 1 v else s)

/-- REGISTER_WRITE: a register of the issuing core or its die is written (R7, R66, R135, R136). -/
def execRegisterWrite (csr : BitVec 12) (v : Word) (s : State) : Out := .next (s.csrSet s.iss.core csr.toNat 1 v)

/-! TRAP, cache maintenance, energy and tokens. -/

/-- TRAP (R221, R405, R419): the results of earlier bundles land, the task is cancelled, its record posted, then the handler record is decremented with the trap word. -/
def State.trap (s : State) (v : Word) (code : Nat) : State :=
  let o := s.iss.org
  let s := (s.landRets s.iss.core).cancelTask o
  let seq := (s.ctx o.ctx).ring.seqctr
  let s := s.post (mkRec 7 2 (locCore 0 s.iss.core 0xFF) (leBytes 8 v.toNat ++ leBytes 4 code) none (some o))
  let t := (s.ctx o.ctx).traprec
  let w : Word := packed [(1, 56), (2, 52), (t.toNat / 16 % 4, 48)] ||| (t &&& 0x0000_FFFF_FFFF_FF80)
  (if t.getLsbD 0 then s.sendCont 5 w (packed [(code, 36), (seq, 0)]) { o with bundle := none } else s).faulted

/-- TRAP (R221). -/
def execTrap (g : Guard) (a : SReg) (code : BitVec 28) (s : State) : Out := s.under g (.next (s.trap (s.rd a) code.toNat))

/-- The cores of an ICINV scope: core, cluster, die, module (R222). -/
def icScope (c : Nat) (scope : Nat) : Nat → Bool
  | k => match scope with | 0 => k == c | 1 => clusterOf k == clusterOf c | 2 => dieOf k == dieOf c | _ => true

/-- ICINV: the instruction caches of the scope are emptied (R65, R222). -/
def execIcinv (g : Guard) (scope : BitVec 2) (s : State) : Out :=
  let clear (p : Nat × Core) : Nat × Core := if icScope s.iss.core scope.toNat p.1 then (p.1, { p.2 with icache := [] }) else p
  s.under g (.next { s with cores := s.cores.map clear })

/-- SRFENCE: the shape-record cache is emptied (R223). -/
def execSrfence (g : Guard) (s : State) : Out := s.under g (.next (s.modCore s.iss.core fun k => { k with srcache := [] }))

/-- An energy counter by selector (R224). -/
def State.energyAt (s : State) (sel : Nat) : Word :=
  let e := s.hub.energy
  BitVec.ofNat 64 (if sel < 256 then e.accounts.get sel 0
    else if sel < 0x108 then e.dies.get (sel - 0x100) 0
    else if sel = 0x108 then e.hub else e.total)

/-- EREAD: the counter at one instant, interlocked (R224). -/
def execEread (g : Guard) (d : SReg) (sel : BitVec 12) (s : State) : Out :=
  s.under g (.next { s with rets := s.rets ++ [⟨s.iss.core, [(d, s.energyAt sel.toNat)]⟩] })

/-- A result of TOKX that needs no peer. -/
def State.tokxResult (s : State) (d : SReg) (v : Nat) : State :=
  { s with rets := s.rets ++ [⟨s.iss.core, [(d, BitVec.ofNat 64 v)]⟩] }

/-- The governor gives tokens to a peer (R310): refused, or the balance lowered and the grant sent. -/
def State.giveTokens (s : State) (peer tokens : Nat) (dest : Option (Nat × SReg)) : Except Nat State :=
  let h := s.hub
  if tokens > h.balance - h.floor then .error 1
  else if !s.reaches peer || h.transfers.any (fun t => t.peer == peer) then .error 2
  else .ok { s with
    mgmtOut := s.mgmtOut ++ [(peer, .grant h.module h.xfernum tokens)]
    hub := { h with balance := h.balance - tokens, xfernum := (h.xfernum + 1) % 2 ^ 32,
                    transfers := h.transfers ++ [⟨peer, h.xfernum, tokens, s.frame, dest⟩] } }

/-- A TOKX waits for its turn at the governor: another awaits its peer's answer, or has come before it (R310). -/
def State.tokWaits (s : State) (core : Nat) : Bool :=
  s.hub.transfers.any (fun t => t.dest.isSome) || (match s.hub.tokq with | [] => false | c :: _ => c != core)

/-- A TOKX stands in the governor's queue, once. -/
def State.tokJoin (s : State) (core : Nat) : State :=
  if s.hub.tokq.contains core then s else s.modHub fun h => { h with tokq := h.tokq ++ [core] }

/-- A TOKX leaves the governor's queue. -/
def State.tokLeave (s : State) (core : Nat) : State := s.modHub fun h => { h with tokq := h.tokq.filter (· != core) }

/-- TOKX on a descriptor's 16 bytes (R225, R310). An address that is not a multiple of 16 makes the descriptor a bad one, result 4: R225 gives
it no fate of its own (DESIGN CHOICE, log 47). -/
def State.tokx (s : State) (d : SReg) (a : Word) (b : List Byte) : State :=
  let peer := leNat (b.take 2)
  let tokens := leNat ((b.drop 4).take 4)
  let zero := leNat ((b.drop 2).take 2) = 0 ∧ leNat ((b.drop 8).take 8) = 0
  if a.toNat % 16 ≠ 0 ∨ peer > 2047 ∨ peer = s.hub.module ∨ tokens < 1 ∨ tokens > 6400 ∨ ¬zero then s.tokxResult d 4
  else if s.tokWaits s.iss.core then (s.tokJoin s.iss.core).hold
  else match (s.tokLeave s.iss.core).giveTokens peer tokens (some (s.iss.core, d)) with
    | .error r => (s.tokLeave s.iss.core).tokxResult d r
    | .ok s => s

/-- TOKX: context 0 only; the descriptor is read at issue (R225, R413). -/
def execTokx (g : Guard) (d a : SReg) (s : State) : Out :=
  s.under g (.next (
    if s.iss.src.ctxid ≠ 0 then s.privFault 1 0xC8 0
    else match s.spanKeys s.iss.core 0 .g (s.rd a) 16 .read with
      | .error (r, x) => s.takeFault (mapFault (locCore 0 s.iss.core 0xFF) 0 r 0 0 0 x)
      | .ok ks =>
        if s.farNeeds (coreFar s.iss.core) ks ≠ [] then (s.askFar s.iss.org (coreFar s.iss.core) ks).hold
        else match s.readStop 0xC8 .g (s.rd a) ks with
          | some t => t
          | none =>
            let s := (s.reform ks).noteLoad ks
            s.tokx d (s.rd a) (ks.map (s.loadByte s.iss.core))))

end Sys2Proof.Machine
end

