-- ==== Sys2Proof/Machine/Tables.lean ====
section
/-! DEFINITION. Table images and fills of a bank (03, R55, R57 to R59; 22, R411). -/
namespace Sys2Proof.Machine

/-- The fields of an image header (R58). -/
structure ImageHead where
  magic : Nat
  version : Nat
  tcount : Nat
  first : Nat
  n : Nat
  gmap : List Nat
  deriving DecidableEq, Repr

/-- The header that 64 bytes hold (R58). -/
def ImageHead.parse (b : List Byte) : ImageHead :=
  ⟨byteNum b 0 4, byteNum b 4 2, byteNum b 6 2, byteNum b 8 2, byteNum b 10 2, (List.range 16).map fun g => byteNum b (16 + g) 1⟩

/-- The first check that a header fails (R59, R417): 0 MAGIC, 1 VERSION, 2 TCOUNT, 3 FIRST or N, 4 GMAP. -/
def ImageHead.bad (h : ImageHead) : Option Nat :=
  if h.magic ≠ 0x4B544249 then some 0
  else if h.version ≠ 1 then some 1
  else if h.tcount < 1 ∨ h.tcount > 16 then some 2
  else if h.first > 1023 ∨ h.n < 1 ∨ h.n > 1024 ∨ h.first + h.n > 1024 then some 3
  else if h.gmap.any fun g => decide (g ≥ h.tcount) && g != 0xFF then some 4
  else none

/-- C of R58: N rounded up to a multiple of 16. -/
def ImageHead.c (h : ImageHead) : Nat := (h.n + 15) / 16 * 16

/-- The bytes of the image (R287). -/
def ImageHead.size (h : ImageHead) : Nat := 0x40 + h.c + h.tcount * h.n * 16

/-- VNOP declared at a class, every other field zero (R411). -/
def vnopAt (cls : BitVec 3) : Quad := cls.zeroExtend 128 <<< 115

/-- What a fill writes for an entry of an image at an index of a class, and whether it rejects it (R411). -/
def acceptEntry (w : Quad) (cls : Nat) : Quad × Bool :=
  let e := entryFields w
  let op := (w.extractLsb' 118 10).toNat
  if (ofTableOp op e).isSome && e.cls.toNat == cls && classOk op e && rowOk op e then (w, false)
  else (vnopAt (BitVec.ofNat 3 cls), true)

/-- The writes of a fill into one group (R58): index, entry, rejected. -/
def groupFill (h : ImageHead) (b : List Byte) (g : Nat) : List (Nat × Quad × Bool) :=
  (List.range h.n).map fun j =>
    let cls := byteNum b (0x40 + j) 1
    let t := h.gmap.getD g 0xFF
    if t = 0xFF then (g * 1024 + h.first + j, vnopAt (BitVec.ofNat 3 cls), false)
    else (g * 1024 + h.first + j, acceptEntry (BitVec.ofNat 128 (byteNum b (0x40 + h.c + (t * h.n + j) * 16) 16)) cls)

/-- A CLASS byte has bits 7:3 nonzero (R59). -/
def classBad (h : ImageHead) (b : List Byte) : Bool := (List.range h.n).any fun j => decide (byteNum b (0x40 + j) 1 > 7)

/-- A bank filled from an image (R58): the class column, then every group's entries; with the number of rejections. -/
def Bank.fill (k : Bank) (img : Word) (b : List Byte) : Bank × Nat :=
  let h := ImageHead.parse b
  let writes := (List.range 16).flatMap fun g => groupFill h b g
  ({ entries := writes.foldl (fun (t : Tbl Quad) w => t.set w.1 w.2.1) k.entries
     cls := (List.range h.n).foldl (fun (t : Tbl (BitVec 3)) j => t.set (h.first + j) (BitVec.ofNat 3 (byteNum b (0x40 + j) 1))) k.cls
     img := img },
   writes.countP fun w => w.2.2)

/-- A cleared bank filled from the image at an address, as a resume fills it; cleared where the address is 0 or the image does not
pass (R46). -/
def State.refill (s : State) (ctx : Nat) (img : Word) : Bank :=
  let get (n : Nat) : Option (List Byte) := (s.spanKeys 0 ctx .g img n .read).toOption.map fun ks => ks.map (Memory.read s.mem)
  if img = 0 then Bank.clear
  else match get 64 with
    | none => Bank.clear
    | some hb =>
      let h := ImageHead.parse hb
      if h.bad.isSome then Bank.clear
      else match get h.size with
        | none => Bank.clear
        | some b => if classBad h b then Bank.clear else (Bank.clear.fill img b).1

end Sys2Proof.Machine
end

