-- ==== Sys2Proof/Machine/Sched.lean ====
section
/-! DEFINITION. The task schedulers: queues, placement, dispatch and resume, pre-emption, the hang watchdog (02, R30, R33, R36 to
R40, R43, R46; 19, R374, R375; 20, R391). -/
namespace Sys2Proof.Machine

/-! Order and eligibility. -/

/-- Effective priority of a queued task (R37): its own, raised by one for every full 65,536 ticks since readiness, up to 3, never
below what it has kept. -/
def QEnt.eprio (q : QEnt) (frame : Nat) : Nat := max q.kept (min 3 (q.prio + (frame - q.ready) / 65536))

/-- A task stands before another (R38): higher effective priority, lower stage, earlier readiness. -/
def QEnt.before (frame : Nat) (p q : QEnt) : Bool :=
  let a := p.eprio frame
  let b := q.eprio frame
  decide (b < a) || (a == b && (decide (p.stage < q.stage) || (p.stage == q.stage && decide (p.ready < q.ready))))

/-- A task put in its place in a list in the order of R38; tasks that R38 does not tell apart keep the order of the queue (DESIGN CHOICE,
log 40). -/
def insertQ (frame : Nat) (q : QEnt) (l : List QEnt) : List QEnt :=
  match l with
  | [] => [q]
  | p :: l => if q.before frame p then q :: p :: l else p :: insertQ frame q l

/-- A queue in the order of R38. -/
def sortQ (frame : Nat) (l : List QEnt) : List QEnt := l.foldl (fun acc q => insertQ frame q acc) []

/-- The position that a coolant class demands (R320). -/
def demand (cls : Nat) : Nat := match cls with | 0 => 0 | 1 => 4 | 2 => 8 | _ => 15

/-- The cores of a cluster of a die. -/
def clusterCores (d cl : Nat) : List Nat := (List.range 4).map fun i => d * 64 + cl * 4 + i

/-- Placement on a cluster is stopped: it is being vacated, or a zone of it evacuated (R424, R425). -/
def State.stopped (s : State) (d cl : Nat) : Bool :=
  let z (n : Nat) : Bool := (s.zone (d * 32 + 2 * cl + n)).evac.isSome
  (match (s.cluster (d * 16 + cl)).vacate with | some (_, cause) => decide (cause < 2) | none => false) || z 0 || z 1

/-- A core meets every condition of R38 for a task but being free. -/
def State.eligible (s : State) (q : QEnt) (c : Nat) : Bool :=
  let d := dieOf c
  let cl := clusterOf c % 16
  let z := s.zone (zoneOf c)
  decide (q.release ≤ s.frame) && !(s.ctx q.ctx).frozen && s.enabled d cl && (q.clmask == 0 || q.clmask.testBit cl)
    && !s.hub.fenced && !s.stopped d cl && !(s.die d).off.getLsbD cl && (!q.wide || (s.die d).wide.getLsbD cl)
    && (q.coolcls == 0 || decide (demand q.coolcls ≤ z.grantTo q.ctx z.counts))

/-- A core runs nothing, and no release of a cancelled task's earlier freeze is under way in it (R42, R371; DEDUCED, log 26). -/
def State.isFree (s : State) (c : Nat) : Bool := (s.core c).task.isNone && !(s.core c).releasingOut

/-- The reservation of a die that covers a core (R40). -/
def Die.resvOf (d : Die) (c : Nat) : Option Resv :=
  d.resv.find? fun r => r.cluster == clusterOf c % 16 && (match r.core with | some k => k == c | none => true)

/-- A reserved core is placed only with its task, or one of higher effective priority (R40). -/
def State.unreserved (s : State) (q : QEnt) (c : Nat) : Bool :=
  let d := s.die (dieOf c)
  match d.resvOf c with
  | none => true
  | some r =>
    (r.record == q.record && r.ctx == q.ctx)
      || (match d.queue.find? (fun p => p.record == r.record && p.ctx == r.ctx) with
          | some p => decide (p.eprio s.frame < q.eprio s.frame)
          | none => true)

/-- The cluster reserved for a gang (R40). -/
def Die.resvFor (d : Die) (q : QEnt) : Option Nat :=
  (d.resv.find? fun r => r.core.isNone && r.record == q.record && r.ctx == q.ctx).map (·.cluster)

/-- A cluster can take a gang now: its four cores are eligible, free and not kept for another. -/
def State.gangFits (s : State) (die : Nat) (q : QEnt) (cl : Nat) : Bool :=
  (clusterCores die cl).all fun c => s.eligible q c && s.isFree c && s.unreserved q c

/-- Where a task is placed (R38): a single task on the eligible free core of lowest number, a gang on the cluster reserved for it, or
without one on the lowest that is wholly free. -/
def State.placement (s : State) (die : Nat) (q : QEnt) : Option (List Nat) :=
  if q.gang then
    match (s.die die).resvFor q with
    | some cl => if s.gangFits die q cl then some (clusterCores die cl) else none
    | none => ((List.range 16).find? fun cl => s.gangFits die q cl).map fun cl => clusterCores die cl
  else
    (((List.range 64).map (die * 64 + ·)).find? fun c => s.eligible q c && s.isFree c && s.unreserved q c).map fun c => [c]

/-! Dispatch (R33, R391). -/

/-- Memory without the bytes of a range. -/
def Memory.clear (m : Memory) (lo n : Nat) : Memory := m.filter fun p => !(decide (lo ≤ p.1) && decide (p.1 < lo + n))

/-- A range cleared, with its poison and rime flags. -/
def State.clearRange (s : State) (lo n : Nat) : State :=
  { s with
    mem := Memory.clear s.mem lo n
    poison := s.poison.filter fun g => !(decide (lo ≤ g * 32) && decide (g * 32 < lo + n))
    rflags := s.rflags.filter fun p => !(decide (lo ≤ p.1 * 256) && decide (p.1 * 256 < lo + n)) }

/-- The stores of a core cleared for a task of another context (R33, R57, R65, R119). -/
def State.clearCore (s : State) (c : Nat) : State :=
  ((s.clearRange (cKey c 0) (2 ^ 22)).clearRange (pKey c 0 0) (16 * 4096)).modCore c fun k =>
    { k with planes := [], banks := [Bank.clear, Bank.clear], active := 0, shadowSt := .complete, fmts := [], icache := [], srcache := [] }

/-- The cluster's stores cleared for a gang of another context (R33, R254). -/
def State.clearCluster (s : State) (k : Nat) : State :=
  (s.clearRange (kKey k 0) (2 ^ 22)).modCluster k fun x => { x with slots := [] }

/-- The fault that the scheduler finds in a record (R391): its reason. -/
def State.recBad (s : State) (ctx : Nat) (va : Word) : Option Nat :=
  let f (off n : Nat) : Nat := s.recNum ctx va off n
  let entry := BitVec.ofNat 64 (f 0 8)
  if f 0x1E 2 > 32 then some 1
  else if entry.toNat % 32 ≠ 0 ∨ !(s.translate ctx entry .fetch).toOption.isSome then some 2
  else if f 0x0D 1 > 3 ∨ f 0x0E 1 > 1 ∨ f 0x0F 1 > 15 ∨ f 0x1B 1 > 15 ∨ f 0x1C 1 > 3 ∨ f 0x58 8 ≠ 0 then some 3
  else if f 0x50 8 % 65536 ≠ 0 then some 4
  else if f 0x0C 1 > 5 then some 5
  else none

/-- The binding of a member at dispatch, with what the retirement takes from the record (R25). -/
def State.binding (s : State) (q : QEnt) (serial member : Nat) : Binding :=
  let f (off n : Nat) : Nat := s.recNum q.ctx q.record off n
  let t := (s.ctx q.ctx).traprec
  ⟨q.record, q.ctx, serial, member, q.gang, q.prio, q.eprio s.frame, q.stage, q.ready, BitVec.ofNat 64 (f 0x50 8), f 0x1E 2,
    t.getLsbD 0 && (t &&& 0x0000_FFFF_FFFF_FF80) == q.record, q.clmask, q.wide, q.coolcls, q.release, f 0x48 8, s.recSuccs q.ctx q.record, q.value0⟩

/-- The registers of a task at its start (R33). -/
def State.startRegs (s : State) (q : QEnt) (member : Nat) : Regs :=
  let f (off n : Nat) : Word := BitVec.ofNat 64 (s.recNum q.ctx q.record off n)
  [(1, f 0x20 8), (2, f 0x28 8), (3, f 0x30 8), (4, f 0x38 8), (5, f 0x10 8), (6, q.record),
   (7, BitVec.ofNat 64 (member * 256 + q.stage))].foldl (fun (r : Regs) (p : Nat × Word) => r.setS p.1 p.2) Regs.zero

/-- A core at the start of a task (R33, R42, R69, R71, R368): the first phase's shadow is the state at task start. The counters of TBLST start
from 0 at a resume too (DESIGN CHOICE, log 44). -/
def Core.begin (k : Core) (b : Binding) (regs : Regs) (pc tile : Word) (eacct : Nat) : Core :=
  let size := b.spill * 4096
  let k := { k with
    pc := pc
    regs := regs
    csrs := Csrs.zero
    latches := []
    lfsr := seeds 0
    banks := k.banks.map fun (x : Bank) => { x with img := 0 }
    waitpeer := 0
    swaps := 0
    reject := 0
    taskrec := b.record
    ctxid := b.ctx
    tilec := tile
    stage := b.stage
    eacct := eacct
    coolcls := b.coolcls
    spillbase := 2 ^ 18 - size
    spillsize := size }
  let k := { k with
    claim := none
    grants := 0
    leaseReq := 0
    suspended := false
    relsPend := false
    gate := []
    releasing := []
    held := []
    sending := []
    xseq := 0
    bufs := []
    vpend := []
    forming := []
    task := some b
    hold := .none
    swapTick := none
    yieldReq := none
    phase := Phase.fresh
    fences := []
    withheld := false
    committing := false }
  { k with shadow := k.shadowOf pc [] 0 }

/-- Bytes of a save area; none where the map no longer lets it be read, so that what they would hold is zero (DESIGN CHOICE, log 44). -/
def State.areaGet (s : State) (ctx base off n : Nat) : List Byte :=
  match s.spanKeys 0 ctx .g (BitVec.ofNat 64 (base + off)) n .read with
  | .ok ks => ks.map (Memory.read s.mem)
  | .error _ => []

/-- A list of 32-bit lanes of bytes. -/
def lanesOf (b : List Byte) (off n : Nat) : List Lane := (List.range n).map fun i => BitVec.ofNat 32 (byteNum b (off + 4 * i) 4)

/-- The registers that a save area holds (R45). -/
def State.savedRegs (s : State) (ctx base : Nat) : Regs :=
  let h := s.areaGet ctx base 0 0x400
  let r : Regs := (List.range 64).foldl (fun r n => r.setS n (BitVec.ofNat 64 (byteNum h (0x40 + 8 * n) 8))) Regs.zero
  let r := { r with p := BitVec.ofNat 8 (byteNum h 0x240 1) }
  let r := (List.range 4).foldl (fun r n => r.setLc n (BitVec.ofNat 32 (byteNum h (0x248 + 8 * n) 8))) r
  (List.range 16).foldl (fun r g =>
    let b := s.areaGet ctx base (0x400 + g * 0x2080) 0x2040
    let r := (List.range 64).foldl (fun r n => r.setV g n (lanesOf b (128 * n) 32)) r
    let r := (List.range 8).foldl (fun r n => r.setQ g n (BitVec.ofNat 32 (byteNum b (0x2000 + 4 * n) 4))) r
    (List.range 8).foldl (fun (r : Regs) n => { r with b := r.b.set (g * 8 + n) (BitVec.ofNat 32 (byteNum b (0x2020 + 4 * n) 4)) }) r) r

/-- The task-writable registers that a save area holds (R71), their reserved fields ignored (R7). -/
def csrsOf (h : List Byte) : Csrs :=
  let w (n : Nat) : Word := BitVec.ofNat 64 (byteNum h (0x280 + 8 * n) 8)
  ⟨w 0, csrKept 0x032 (w 1), csrKept 0x033 (w 2), csrKept 0x034 (w 3), csrKept 0x060 (w 4), csrKept 0x051 (w 5), csrKept 0x030 (w 6),
    csrKept 0x031 (w 7), csrKept 0x035 (w 8)⟩

/-- A plane from its bytes in a save area, with its damaged sectors (R45, R131, R383). -/
def planeOf (b : List Byte) (poison : List Nat) : Plane where
  rows := (List.range 256).map fun i => lanesOf b (1024 * i) 256
  mrow := lanesOf b 0x40000 256
  mcol := lanesOf b 0x40400 256
  corner := BitVec.ofNat 32 (byteNum b 0x40800 4)
  ksteps := byteNum b 0x40804 4
  nocheck := byteNum b 0x40808 4 % 2 == 1
  unver := byteNum b 0x40808 4 / 2 % 2 == 1
  poison := poison

/-- The refetch set of a save area (R275). -/
def refetchOf (b : List Byte) : List (Nat × BufEnt) :=
  (List.range 16).filterMap fun n =>
    if byteNum b (64 * n) 8 = 0 then none
    else some (n, ⟨BitVec.ofNat 64 (byteNum b (64 * n) 8), (List.range 4).map fun i => BitVec.ofNat 64 (byteNum b (64 * n + 8 + 8 * i) 8)⟩)

/-- The sectors of a range of a save area that are damaged, by number in the range. -/
def State.areaHurt (s : State) (ctx base off n : Nat) : List Nat :=
  if s.poison.isEmpty then []
  else (List.range ((n + 31) / 32)).filter fun i =>
    match s.spanKeys 0 ctx .g (BitVec.ofNat 64 (base + off + 32 * i)) 1 .read with | .ok ks => (s.hurtKey ks).isSome | .error _ => false

/-- What a resume takes into registers, formats, table banks or addresses from a save area is damaged (R384): planes and carve-outs keep
their damage instead (R383). -/
def State.resumeHurt (s : State) (ctx base spill : Nat) : Bool :=
  let bad (off n : Nat) : Bool := !(s.areaHurt ctx base off n).isEmpty
  let img (a : Nat) : Bool := decide (a ≠ 0) && match s.spanKeys 0 ctx .g (BitVec.ofNat 64 a) 64 .read with
    | .ok ks =>
      let h := ImageHead.parse (ks.map (Memory.read s.mem))
      (s.hurtKey ks).isSome || (h.bad.isNone && !(s.areaHurt ctx a 0 h.size).isEmpty)
    | .error _ => false
  let h := s.areaGet ctx base 0 0x400
  bad 0 0x400 || (List.range 16).any (fun g => bad (0x400 + g * 0x2080) 0x2040) || bad (0x229000 + spill * 0x10000) 1024
    || img (byteNum h 8 8) || img (byteNum h 16 8)

/-- A member resumed from its save area (R46): registers, formats, planes and spill carve-outs reloaded, unsaved planes zeroed, both
banks cleared and filled from their images, the refetch set reissued, its entries live (R274). -/
def State.resume (s : State) (c : Nat) (b : Binding) : State :=
  let base := b.area
  let h := s.areaGet b.ctx base 0 0x400
  let mask := byteNum h 0x20 1
  let pc := BitVec.ofNat 64 (byteNum h 0 8)
  let regs := s.savedRegs b.ctx base
  let refetch := refetchOf (s.areaGet b.ctx base (0x229000 + b.spill * 0x10000) 1024)
  let planes := (List.range 8).filterMap fun n =>
    if mask.testBit n then some (n, planeOf (s.areaGet b.ctx base (0x21000 + n * 0x41000) 0x41000)
      (s.areaHurt b.ctx base (0x21000 + n * 0x41000) 0x41000)) else none
  let b0 := s.refill b.ctx (BitVec.ofNat 64 (byteNum h 8 8))
  let b1 := s.refill b.ctx (BitVec.ofNat 64 (byteNum h 16 8))
  let fmts := (List.range 16).map fun n => (n, BitVec.ofNat 128 (byteNum h (0x300 + 16 * n) 16))
  let spill := (List.range 16).flatMap fun g =>
    ((List.range (b.spill * 4096)).map fun i => cKey c (g * 2 ^ 18 + 2 ^ 18 - b.spill * 4096) + i).zip
      (s.areaGet b.ctx base (0x229000 + g * b.spill * 4096) (b.spill * 4096))
  let hurt := (List.range 16).flatMap fun g => (s.areaHurt b.ctx base (0x229000 + g * b.spill * 4096) (b.spill * 4096)).map fun i =>
    cKey c (g * 2 ^ 18 + 2 ^ 18 - b.spill * 4096) + 32 * i
  let s := (hurt.foldl (fun (s : State) k => s.poisonRange k 32) (s.putKeys spill)).modCore c fun k =>
    let k := { k with
      pc := pc
      regs := regs
      csrs := csrsOf h
      lfsr := seeds (csrsOf h).lfsrseed
      planes := planes
      fmts := fmts
      banks := [b0, b1]
      active := 0
      shadowSt := .complete }
    { k with shadow := k.shadowOf pc refetch (BitVec.ofNat 8 mask) }
  let exempt := s.refetchBytes c refetch
  let o := s.orgOf c
  s.modCore c fun k =>
    { k with bufs := refetch, xq := refetchCmds k o refetch ++ k.xq, mseq := k.mseq + 16, phase := { k.phase with exempt := exempt } }

/-- One member's core bound to its task (R33, R46). -/
def State.bindCore (s : State) (q : QEnt) (serial : Nat) (p : Nat × Nat) : State :=
  let c := p.1
  let b := s.binding q serial p.2
  let other := match (s.core c).lastCtx with | some x => x != q.ctx | none => false
  let s := if other then (if q.gang then (s.clearCore c).clearCluster (clusterOf c) else s.clearCore c) else s
  let f (off n : Nat) : Nat := s.recNum q.ctx q.record off n
  let s := s.modCore c fun k => k.begin b (s.startRegs q p.2) (BitVec.ofNat 64 (f 0 8)) (BitVec.ofNat 64 (f 0x10 8)) (f 0x1D 1)
  if q.resume then s.resume c b else s

/-- The task leaves the queue, and a reservation of its own is consumed (R40). -/
def State.unqueue (s : State) (die : Nat) (q : QEnt) : State :=
  s.modDie die fun d => { d with
    queue := d.queue.filter fun p => !(p.record == q.record && p.ctx == q.ctx)
    resv := d.resv.filter fun r => !(r.record == q.record && r.ctx == q.ctx) }

/-- Damage in what a dispatch reads: the record, and the save areas of the members that resume (R384). -/
def State.dispatchHurt (s : State) (q : QEnt) : Bool :=
  let area := s.recNum q.ctx q.record 0x50 8
  let spill := s.recNum q.ctx q.record 0x1E 2
  !(s.areaHurt q.ctx q.record.toNat 0 128).isEmpty
    || (q.resume && ((List.range (if q.gang then 4 else 1)).filter fun i => !q.ended.testBit i).any fun i =>
      s.resumeHurt q.ctx (area + i * (0x230000 + spill * 0x10000)) spill)

/-- A task dispatched on its cores, or completed as cancelled where its record is at fault (R33, R391) or what the dispatch reads is damaged:
no phase of the task has begun that could be run again, so it counts as consumption that ends the task (R384; DEDUCED, log 50). -/
def State.dispatchTask (s : State) (die : Nat) (q : QEnt) (l : List Nat) : State :=
  let s := s.unqueue die q
  let o : Org := ⟨q.ctx, l.head?, some q.record, none, 0, 0⟩
  if s.dispatchHurt q then
    (s.post (mkRec 0x17 2 (locDie 8 die) (leBytes 1 1) none (some { o with core := none }))).completeCancelled q.ctx q.record o
  else match s.recBad q.ctx q.record with
  | some r =>
    (s.post (mkRec 0x13 2 (locDie 8 die) (leBytes 1 r ++ leBytes 1 (s.recState q.ctx q.record)) (some q.record)
      (some { o with core := none }))).completeCancelled q.ctx q.record o
  | none =>
    let serial := s.serials + 1
    let s := { s with serials := serial }
    let s := (l.zipIdx.filter fun p => !q.ended.testBit p.2).foldl (fun s p => s.bindCore q serial p) s
    let s := if q.resume then s.recFlag q.ctx q.record 1 false else s
    s.recPut q.ctx q.record 0x0C [2]

/-- The first task in order that has a place, with its cores (R38). -/
def State.nextPlace (s : State) (die : Nat) : Option (QEnt × List Nat) :=
  (sortQ s.frame (s.die die).queue).findSome? fun q => (s.placement die q).map fun l => (q, l)

/-- The task that is first for reservation (R40): the first that has an eligible cluster, if it is a gang without one and no whole eligible
cluster is free. -/
def State.toReserve (s : State) (die : Nat) : Option (QEnt × Nat) :=
  let fits (q : QEnt) (cl : Nat) : Bool :=
    if q.gang then (clusterCores die cl).all (s.eligible q) else (clusterCores die cl).any (s.eligible q)
  match (sortQ s.frame (s.die die).queue).find? (fun q => (List.range 16).any (fits q)) with
  | none => none
  | some q =>
    if !q.gang || ((s.die die).resvFor q).isSome || (s.die die).gangResvs ≥ 4 || (s.placement die q).isSome then none
    else
      let free (cl : Nat) : Nat := (clusterCores die cl).countP s.isFree
      ((List.range 16).filter (fits q)).foldl (fun (best : Option (QEnt × Nat)) cl =>
        match best with
        | none => some (q, cl)
        | some (_, b) => if free b < free cl then some (q, cl) else best) none

/-- The reservations that stand: those of queued tasks for which their core or cluster still meets the conditions of R38 (DEDUCED, log 40). -/
def State.standing (s : State) (die : Nat) : List Resv :=
  (s.die die).resv.filter fun r =>
    (s.die die).queue.any fun q => q.record == r.record && q.ctx == r.ctx
      && (match r.core with | some c => s.eligible q c | none => (clusterCores die r.cluster).all (s.eligible q))

/-- A reservation, where a gang is first for one, else one placement of a die (R38, R40). -/
def State.place (s : State) (die : Nat) : State :=
  let s := s.modDie die fun d => { d with resv := s.standing die }
  match s.toReserve die with
  | some (q, cl) => s.modDie die fun d => { d with resv := d.resv ++ [⟨cl, none, q.record, q.ctx⟩] }
  | none =>
    match s.nextPlace die with
    | some (q, l) => s.dispatchTask die q l
    | none => s

/-- DISPATCH (R38 to R40, R46). -/
def execDispatch (die : Nat) (s : State) : Out := .next (s.place die)

/-- PRIORITY_AGEING: every queued task keeps the effective priority that it has reached; placements follow (R37, R38). -/
def execPriorityAgeing (die : Nat) (s : State) : Out :=
  .next ((s.modDie die fun d => { d with queue := d.queue.map fun q => { q with kept := q.eprio s.frame } }).place die)

/-- RELEASE_REACHED: a task whose RELEASE tick FRAME has reached may be placed (R38). -/
def execReleaseReached (die : Nat) (s : State) : Out :=
  .next (if (s.die die).queue.any (fun q => decide (q.release ≤ s.frame)) then s.place die else s)

/-! Notices and broadcasts (R30, R36). -/

/-- The die's queues and its HBM area are full (R36). -/
def Die.full (d : Die) : Bool := decide (4096 + d.qovf ≤ d.queue.length)

/-- The queue entry of a record whose notice arrives (R36): ready at the later of now and RELEASE. -/
def State.queueEntry (s : State) (n : Notice) : QEnt :=
  let f (off k : Nat) : Nat := s.recNum n.ctx n.record off k
  ⟨n.record, n.ctx, max s.frame (f 0x40 8), f 0x0D 1 % 4, 0, f 0x0F 1 % 16, f 0x0E 1 % 2 == 1, f 0x19 2, (f 0x1B 1).testBit 2,
    f 0x1C 1 % 4, f 0x40 8, none, false, false, 0, none⟩

/-- READY_NOTICE: the n-th notice on its way arrives and is queued; at a full die it waits for a broadcast (R36). -/
def execReadyNotice (n : Nat) (s : State) : Out :=
  match takeAt s.notices n with
  | none => .next s
  | some (m, rest) =>
    match m.die with
    | none => .next s
    | some d =>
      if (s.ctx m.ctx).kill = .complete then .next { s with notices := rest }
      else if (s.die d).full then .next { s with notices := rest ++ [{ m with die := none }] }
      else .next ({ s with notices := rest }.modDie d fun x => { x with queue := x.queue ++ [s.queueEntry m] })

/-- The cores of a die that run tasks. -/
def State.runningOn (s : State) (die : Nat) : Nat := s.cores.countP fun p => dieOf p.1 == die && p.2.task.isSome

/-- OCCUPANCY_BROADCAST: the die's occupancy; notices that the die may take are offered again (R30, R36). -/
def execOccupancyBroadcast (die : Nat) (s : State) : Out :=
  let occ := if (s.die die).full then 0xFFFFFFFF else (s.die die).queue.length + s.runningOn die
  let s := s.modDie die fun d => { d with occ := occ }
  let offer (n : Notice) : Notice :=
    if n.die.isNone && (permittedDies n.mask).contains die then { n with die := s.pickDie n.mask } else n
  .next { s with notices := s.notices.map offer }

/-! Pre-emption and the watchdog (R43, R374, R375). -/

/-- A queued task is eligible where a task runs (R38, R43): for one of its cores, a gang for every core of its cluster. -/
def State.eligibleFor (s : State) (q : QEnt) (l : List Nat) : Bool :=
  match l with
  | [] => false
  | c :: _ => if q.gang then (clusterCores (dieOf c) (clusterOf c % 16)).all (s.eligible q) else l.any (s.eligible q)

/-- The running tasks of a die below a queued task, for which it is eligible (R43), each by the first of its cores. -/
def State.below (s : State) (die : Nat) (q : QEnt) : List (Nat × Binding) :=
  s.cores.filterMap fun p =>
    match p.2.task with
    | some b =>
      let l := s.coresOf b.serial
      if dieOf p.1 = die ∧ l.head? = some p.1 ∧ b.eprio < q.eprio s.frame ∧ s.eligibleFor q l then some (p.1, b) else none
    | none => none

/-- A queued task has waited under R43's condition: some running task stands below it, and it has no free eligible place. -/
def State.waiting (s : State) (die : Nat) (q : QEnt) : Bool := !(s.below die q).isEmpty && (s.placement die q).isNone

/-- The running task that is asked to yield (R43): lowest effective priority, then the most recently dispatched; SAVEPTR not 0. -/
def State.victim (s : State) (die : Nat) (q : QEnt) : Option Binding :=
  ((s.below die q).filter fun p => p.2.saveptr != 0 && (s.core p.1).yieldReq.isNone).foldl (fun (best : Option Binding) p =>
    match best with
    | none => some p.2
    | some b => if p.2.eprio < b.eprio ∨ (p.2.eprio = b.eprio ∧ b.serial < p.2.serial) then some p.2 else best) none

/-- The queued task whose wait has passed PREWAIT and that has not asked yet (R43). -/
def State.impatient (s : State) (die : Nat) : Option (QEnt × Binding) :=
  let d := s.die die
  if d.prewait = 0 then none
  else (sortQ s.frame d.queue).findSome? fun q =>
    match q.since with
    | some t => if s.frame > t + d.prewait ∧ !q.asked ∧ s.waiting die q then (s.victim die q).map fun b => (q, b) else none
    | none => none

/-- Every core of a task is asked to yield: for a queued task, or for none where its cluster is vacated (R43, R424). -/
def State.askYield (s : State) (serial : Nat) (w : Option (Word × Nat)) : State :=
  (s.coresOf serial).foldl (fun s c => s.modCore c fun k => { k with yieldReq := some ⟨s.frame, w⟩ }) s

/-- PREEMPTION_REQUEST (R43). -/
def execPreemptionRequest (die : Nat) (s : State) : Out :=
  match s.impatient die with
  | none => .next s
  | some (q, b) =>
    .next ((s.askYield b.serial (some (q.record, q.ctx))).modDie die fun d =>
      { d with queue := d.queue.map fun p => if p.record = q.record ∧ p.ctx = q.ctx then { p with asked := true } else p })

/-- A member is stalled where no yield is forced: in TSWAP or GSYNC (R375). -/
def Hold.stalled : Hold → Bool | .filling => true | .swap _ => true | .gsync => true | _ => false

/-- A core can be made to yield: its phase is revocable and has not ended, and no member of its task is stalled (R375). -/
def State.canForce (s : State) (c : Nat) : Bool :=
  let k := s.core c
  match k.task with
  | none => false
  | some b => !k.phase.irrevocable && (k.hold == .none || k.hold == .swapped || k.hold == .synced)
      && !(s.coresOf b.serial).any fun x => (s.core x).hold.stalled

/-- A forced yield (R375): the phase is taken back without a strike or a record, and the save starts as at the previous freeze. -/
def State.forceYield (s : State) (c : Nat) : State :=
  (s.undoPhase c).modCore c fun k => { k with xq := k.xq.filter fun x => !x.refetch, hold := .saving }

/-- FORCED_YIELD (R375). -/
def execForcedYield (core : Nat) (s : State) : Out :=
  let w := (s.die (dieOf core)).forcewait
  match (s.core core).yieldReq with
  | none => .next s
  | some y => .next (if w ≠ 0 ∧ y.waiter.isSome ∧ y.tick + w ≤ s.frame ∧ s.canForce core then s.forceYield core else s)

/-- HANG_WATCHDOG: a phase longer than PHASEMAX cancels its task (R374). -/
def execHangWatchdog (core : Nat) (s : State) : Out :=
  let m := (s.die (dieOf core)).phasemax
  let k := s.core core
  .next (if k.task.isSome ∧ m ≠ 0 ∧ k.phase.cycles > m then
    s.lateFault (s.orgOf core) ⟨0x22, locCore 0 core 0xFF, [], none⟩ else s)

end Sys2Proof.Machine
end

