-- ==== Sys2Proof/Machine/Cool.lean ====
section
/-! DEFINITION. The coolant controller: allocation table, valves, sensors, traps, vacating, evacuation, and cluster capabilities (14, R316
to R323; 23, R421 to R426, R433). -/
namespace Sys2Proof.Machine

/-! Zones. -/

/-- The zones of the module (R316). -/
def zones : List Nat := List.range 260

/-- The cluster, as die × 16 + cluster, over which a zone lies, where it is not of the hub (R316). -/
def zoneCluster (z : Nat) : Option Nat := if z < 256 then some (z / 32 * 16 + z % 32 / 2) else none

/-- The two cores of a zone. -/
def zoneCores (z : Nat) : List Nat := if z < 256 then [z / 32 * 64 + z % 32 * 2, z / 32 * 64 + z % 32 * 2 + 1] else []

/-- Some core of the zone runs a task. -/
def State.zoneBusy (s : State) (z : Nat) : Bool := (zoneCores z).any fun c => (s.core c).task.isSome

/-- The demand of the tasks that run on the zone's cores (R319, R320). -/
def State.zoneDemand (s : State) (z : Nat) : Nat :=
  (zoneCores z).foldl (fun m c => match (s.core c).task with | some b => max m (demand b.coolcls) | none => m) 0

/-- The zone stands at position 0: its cluster is disabled or fenced (R13, R317, R318). -/
def State.zoneShut (s : State) (z : Nat) : Bool :=
  (s.zone z).fenced || (match zoneCluster z with | some k => !s.enabled (k / 16) (k % 16) || (s.die (k / 16)).off.getLsbD (k % 16) | none => false)

/-- A valve is commanded to a position (R318). -/
def State.setValve (s : State) (z v : Nat) : State :=
  s.modZone z fun x => if x.valve = v then x else { x with valve := v, moved := s.frame }

/-- The sum of VALVE over all zones. -/
def State.flow (s : State) : Nat := (zones.map fun z => (s.zone z).valve).foldl (· + ·) 0

/-- A signed 16-bit reading of ZSENS0 (R322). -/
def Zone.temp (z : Zone) (n : Nat) : Int := signedOf 16 (z.zsens0.toNat / 2 ^ (16 * n))

/-- The zone temperature in 1/16 degree: the highest of its four sensors (R318). -/
def hottest (z : Zone) : Int := max (max (z.temp 0) (z.temp 1)) (max (z.temp 2) (z.temp 3))

/-! The allocation table (R317, R319). -/

/-- The zone has an evacuation under way (R426). -/
def Zone.evacuating (z : Zone) : Bool := z.evac.isSome

/-- The controller takes no write to the zone's entry: its cluster is disabled, or the zone is fenced (R317). -/
def State.zoneLocked (s : State) (z : Nat) : Bool :=
  (s.zone z).fenced || (match zoneCluster z with | some k => !s.enabled (k / 16) (k % 16) | none => false)

/-- A firmware write to an entry, or none where the controller refuses it (R317, R426). A lowered GRANT counts at once; a raised one only later
(R319). -/
def State.writeZone (s : State) (z : Nat) (e : Nat) : Option State :=
  let old := s.zone z
  let f (lo n : Nat) : Nat := e / 2 ^ lo % 2 ^ n
  let others := ((zones.filter (· != z)).map fun n => (s.zone n).grant).foldl (· + ·) 0
  if f 8 4 ≤ f 4 4 ∧ f 4 4 ≤ f 12 4 ∧ others + f 4 4 ≤ s.hub.flowcap ∧ !s.zoneLocked z ∧ !old.evacuating then
    some (s.modZone z fun x =>
      { x with
        shared := f 21 1 == 1
        owner := f 16 4
        max := f 12 4
        min := f 8 4
        grant := f 4 4
        counts := if f 4 4 < x.grant then f 4 4 else x.counts
        raised := if f 4 4 = x.grant then x.raised else none })
  else none

/-- COOLTHR written by firmware (R421). -/
def State.writeThr (s : State) (v : Word) : State :=
  let f (lo : Nat) : Nat := v.toNat / 2 ^ lo % 256
  s.modHub fun h => { h with coolthr := ⟨f 56, f 48, f 40, f 24, f 16, f 0⟩ }

/-- The position that R318 gives a zone at a setting but for its temperature: of one with a task GRANT, or what its tasks demand if a lowered grant
is less (R319); of an idle one a raised GRANT until that counts, else MIN. -/
def State.valveBase (s : State) (z : Nat) : Nat :=
  let x := s.zone z
  if s.zoneBusy z then max x.grant (s.zoneDemand z) else if x.counts < x.grant then x.grant else x.min

/-- The position that R318 gives a zone at a setting. A zone that is too hot rises whether or not a task runs on it, by one up to MAX, but at
once to what it is owed without its heat, so that a raised grant comes to count in the time of R319 (DEDUCED, log 51). -/
def State.valveFor (s : State) (z : Nat) : Nat :=
  let x := s.zone z
  if s.zoneShut z then 0
  else if x.purge ≠ .idle then x.valve
  else if s.hub.ttarget * 16 < hottest x then
    max (s.valveBase z) (min x.max (if s.flow < s.hub.flowcap then x.valve + 1 else x.valve))
  else s.valveBase z

/-- One valve set; from its first setting at or above a raised grant on, the time until that grant counts runs (R319). -/
def State.setZone (s : State) (z : Nat) : State :=
  let v := s.valveFor z
  (s.setValve z v).modZone z fun x =>
    if x.counts < x.grant ∧ x.grant ≤ v ∧ x.raised = none then { x with raised := some s.frame } else x

/-- VALVE_SETTING: once every 1,000 ticks (R318). -/
def execValveSetting (s : State) : Out :=
  if s.frame / 1000 ≤ s.hub.valveN then .next s
  else .next (zones.foldl State.setZone (s.modHub fun h => { h with valveN := s.frame / 1000 }))

/-- GRANT_COUNTS: a raised grant counts 5,000 ticks after the valve was first commanded to it (R319). -/
def execGrantCounts (zone : Nat) (s : State) : Out :=
  match (s.zone zone).raised with
  | none => .next s
  | some t => .next (if t + 5000 ≤ s.frame then s.modZone zone fun x => { x with counts := x.grant, raised := none } else s)

/-! Vacating a cluster (R424). -/

/-- The serial numbers of the tasks on a cluster that a cause concerns: under cause 2, capability lost, only those with WIDE. -/
def State.toVacate (s : State) (k cause : Nat) : List Nat :=
  ((clusterCores (k / 16) (k % 16)).filterMap fun c =>
    match (s.core c).task with | some b => if cause < 2 ∨ b.wide then some b.serial else none | none => none).eraseDups

/-- A cluster begins to be vacated: its tasks that can save are asked to yield. A vacating that concerns every task takes the place of one for a lost
capability. -/
def State.vacate (s : State) (k cause : Nat) : State :=
  let s := (s.toVacate k cause).foldl (fun (s : State) n =>
    if (s.coresOf n).any fun c => (s.core c).yieldReq.isSome || (match (s.core c).task with | some b => b.saveptr == 0 | none => true) then s
    else s.askYield n none) s
  s.modCluster k fun x => { x with vacate :=
    match x.vacate with
    | some (t, old) => if old = 2 ∧ cause < 2 then some (s.frame, cause) else some (t, old)
    | none => some (s.frame, cause) }

/-- The coolant controller's zone as a reporting unit, with a sensor (R356, R423). -/
def zoneLoc (z sensor : Nat) : Loc := ⟨18, 8, z / 256, z % 256, sensor⟩

/-- A running task is dealt with at the end of the wait: rolled back and made to yield, or cancelled (R424). -/
def State.evict (s : State) (cause n : Nat) : State :=
  let l := s.coresOf n
  let left := l.filter fun c => (s.core c).hold != .saving
  match left with
  | [] => s
  | c :: _ =>
    let able := left.all fun c =>
      let k := s.core c
      !k.phase.irrevocable && !k.hold.stalled && (match k.hold with | .retiring _ => false | _ => true)
        && (match k.task with | some b => b.saveptr != 0 | none => false)
    if able then
      left.foldl (fun (s : State) c => (s.forceYield c).modCore c fun k => { k with yieldReq := k.yieldReq.or (some ⟨s.frame, none⟩) }) s
    else s.lateFault (s.orgOf c) ⟨0x41, zoneLoc (zoneOf c) 0xFF, leBytes 1 cause, none⟩

/-- A cluster fenced for a zone (R422, R425 step 5). -/
def State.fenceCluster (s : State) (z k cause : Nat) : State :=
  let s := s.modDie (k / 16) fun d => { d with off := d.off ||| (1#16 <<< (k % 16)) }
  let shut (s : State) (z : Nat) : State := (s.setValve z 0).modZone z fun x => { x with evac := none, purge := .idle, tripped := false }
  let z0 := k / 16 * 32 + 2 * (k % 16)
  let s := shut (shut (s.modZone z fun x => { x with fenced := true }) z0) (z0 + 1)
  s.post (mkRec 0x41 0 (zoneLoc z 0xFF) (leBytes 1 cause) none none)

/-- The record of a fenced module (R365). -/
def fenceRec (l : Loc) : ErrRec := mkRec 0x51 4 l [] none none

/-- The module is fenced: every context stops without freezing (R365). -/
def State.closeModule (s : State) : State := s.modHub fun h => { h with fenced := true }

/-- The module fenced, and its record posted (R365, R422). -/
def State.fenceModule (s : State) (l : Loc) : State := if s.hub.fenced then s else (s.closeModule.post (fenceRec l)).signal 0

/-- The zone of a cluster that has tripped. -/
def State.trippedZone (s : State) (k : Nat) : Option Nat :=
  let z0 := k / 16 * 32 + 2 * (k % 16)
  if (s.zone z0).tripped then some z0 else if (s.zone (z0 + 1)).tripped then some (z0 + 1) else none

/-- VACATE_WAIT_EXPIRY: 50 ticks after a cluster began to be vacated, the tasks that still run are rolled back and made to yield, or
cancelled; once none runs the vacating ends, and after a trip the cluster is fenced (R422, R424). -/
def execVacateWaitExpiry (cluster : Nat) (s : State) : Out :=
  match (s.cluster cluster).vacate with
  | none => .next s
  | some (t, cause) =>
    if s.frame < t + 50 then .next s
    else
      let s := (s.toVacate cluster cause).foldl (State.evict · cause ·) s
      if !(s.toVacate cluster cause).isEmpty then .next s
      else
        let s := s.modCluster cluster fun x => { x with vacate := none }
        .next (match s.trippedZone cluster with | some z => s.fenceCluster z cluster 1 | none => s)

/-! Sensors and traps (R322, R421 to R423). -/

/-- The middle of three. -/
def middle (a b c : Int) : Int := max (min a b) (min (max a b) c)

/-- The sensors of a zone that a sample ignores: out of range, or far from the median of the other three (R422). -/
def ignored (t : Nat → Int) : List Nat :=
  let far (n a b c : Nat) : Bool :=
    let d := t n - middle (t a) (t b) (t c)
    decide (t n < -640 ∨ 2400 < t n ∨ 320 < d ∨ d < -320)
  ([(0, 1, 2, 3), (1, 0, 2, 3), (2, 0, 1, 3), (3, 0, 1, 2)].filter fun q => far q.1 q.2.1 q.2.2.1 q.2.2.2).map (·.1)

/-- A count of consecutive samples. -/
def Zone.count (z : Zone) (n : Nat) (hold : Bool) : Zone := { z with runs := z.runs.set n (if hold then z.runs.get n 0 + 1 else 0) }

/-- A trap of a zone (R423): reported again only after its condition was false for 10 samples. Answers its record, where it has one, among those of
the sample. -/
def State.trapAt (a : List ErrRec × State) (z key reason sensor : Nat) (reading : Int) (holds : Bool) : List ErrRec × State :=
  let (l, s) := a
  let old := (s.zone z).clear.get key 10
  let set (n : Nat) : State := s.modZone z fun x => { x with clear := x.clear.set key n }
  if !holds then (l, set (min 10 (old + 1)))
  else if old = 10 then
    (l ++ [mkRec 0x40 0 (zoneLoc z sensor) (leBytes 1 reason ++ leBytes 1 0 ++ leBytes 4 (toBits 32 reading)) none none], set 0)
  else (l, set 0)

/-- A void trap's evacuation starts (R425): placement stops, the cluster is throttled and vacated. -/
def State.startEvac (s : State) (z : Nat) : State :=
  let s := s.modZone z fun x => { x with evac := some s.frame, purge := .idle, pulses := 0 }
  match zoneCluster z with | some k => s.vacate k 0 | none => s

/-- The zone tripped (R422): the cluster is throttled and vacated, and fenced once vacant; on the hub die the module is fenced. -/
def State.trip (a : List ErrRec × State) (z : Nat) : List ErrRec × State :=
  let (l, s) := a
  match zoneCluster z with
  | none => if s.hub.fenced then (l, s) else (l ++ [fenceRec (zoneLoc z 0xFF)], s.closeModule)
  | some k => (l, if s.zoneShut z || (s.zone z).tripped then s else (s.modZone z fun x => { x with tripped := true }).vacate k 1)

/-- The sensor registers of a reading (R322). -/
def readingWords (r : ZoneReading) : Word × Word :=
  (packed ((List.range 4).map fun n => (toBits 16 (r.t.getD n 0), 16 * n)), packed [(r.void.toNat, 32), (r.press % 2 ^ 16, 16), (r.flow % 2 ^ 16, 0)])

/-- One zone sampled and tested (R322, R422), its records added to those of the sample. -/
def State.sampleZone (a : List ErrRec × State) (z : Nat) (r : ZoneReading) : List ErrRec × State :=
  let (l, s) := a
  let h := s.hub.coolthr
  let x := s.zone z
  let t (n : Nat) : Int := r.t.getD n 0
  let out := ignored t
  let used := [0, 1, 2, 3].filter fun n => !out.contains n
  let top := used.foldl (fun a n => if t a < t n then n else a) (used.headD 0)
  let any := !used.isEmpty
  let hot := any && decide ((h.thot * 16 : Int) ≤ t top)
  let cool := any && decide (t top < ((h.thot : Int) - 5) * 16)
  let tripped := decide (2 ≤ out.length) || (any && decide ((h.ttrip * 16 : Int) ≤ t top))
  let low := decide (1 ≤ x.valve ∧ x.moved + 5000 ≤ s.frame ∧ r.flow * 100 < h.flowlow * 64 * x.valve)
  let (w0, w1) := readingWords r
  let s := s.modZone z fun x =>
    (((({ x with zsens0 := w0, zsens1 := w1 }.count 0 hot).count 1 cool).count 2 low).count 5 r.void).count 6 (!r.void)
  let x := s.zone z
  let runs (n : Nat) : Nat := x.runs.get n 0
  let acts := !x.evacuating && !s.zoneShut z
  let isHot := decide (3 ≤ runs 0)
  let isLow := decide (10 ≤ runs 2)
  let isVoid := decide (max 1 h.voidn ≤ runs 5)
  let a := out.foldl (fun a n => State.trapAt a z (16 + n) 6 n (t n) true) (l, s)
  let a := used.foldl (fun a n => State.trapAt a z (16 + n) 6 n (t n) false) a
  let a := State.trapAt a z 0 0 top (t top) isHot
  let a := State.trapAt a z 1 1 top (t top) tripped
  let a := State.trapAt a z 2 2 4 r.flow isLow
  let a := State.trapAt a z 3 3 5 r.press (decide (r.press < 2 * h.pmin))
  let a := State.trapAt a z 4 4 5 r.press (decide (2 * h.pmax < r.press))
  let (l, s) := State.trapAt a z 5 5 6 1 isVoid
  let s := if isHot && acts then (s.setValve z x.max).modZone z fun y => { y with hot := true } else s
  let s := if 10 ≤ runs 1 then s.modZone z fun y => { y with hot := false } else s
  let s := if isLow && acts then (s.setValve z x.max).modZone z fun y => { y with low := y.low || decide (20 ≤ runs 2) } else s
  let s := if low then s else s.modZone z fun y => { y with low := false }
  let (l, s) := if tripped then State.trip (l, s) z else (l, s)
  (l, if isVoid && acts then s.startEvac z else s)

/-- SENSOR_SAMPLE: every 100 ticks both sensor registers of every zone are sampled and tested; the readings are the sensors' (R322,
R422), and their events posted in the order in which the controller's bank takes them (R363). -/
def execSensorSample (readings : List ZoneReading) (s : State) : Out :=
  if s.frame / 100 ≤ s.hub.sampleN then .next s
  else
    let (l, s) := (zones.zip readings).foldl (fun a q => State.sampleZone a q.1 q.2) ([], s.modHub fun h => { h with sampleN := s.frame / 100 })
    let t := s.postAll l
    .next (if l.any (·.sev == 4) then t.signal 0 else t)

/-! Purges (R425, R426). -/

/-- A purge of some zone is under way (R426). -/
def State.purging (s : State) : Bool := zones.any fun z => (s.zone z).purge != .idle

/-- The zone that is next to be purged: lowest trap tick, then lowest number (R426). -/
def State.nextPurge (s : State) : Option Nat :=
  zones.foldl (fun (a : Option Nat) z =>
    match (s.zone z).evac, a with
    | none, _ => a
    | some _, none => some z
    | some v, some b => match (s.zone b).evac with | some w => if v < w then some z else a | none => a) none

/-- A pulse begins: VALVE at 15; where FLOWCAP would be passed, valves raised for temperature return to their GRANT (R425, R426). -/
def State.pulse (s : State) (z : Nat) : State :=
  let s := (s.setValve z 15).modZone z fun x =>
    { x with purge := .pulse (s.frame + 200000), pulses := x.pulses + 1, runs := x.runs.set 6 0 }
  if s.flow ≤ s.hub.flowcap then s
  else zones.foldl (fun (s : State) n =>
    let x := s.zone n
    if n ≠ z ∧ x.grant < x.valve ∧ !x.hot ∧ x.purge = .idle then s.setValve n (max x.grant (s.zoneDemand n)) else s) s

/-- PURGE_START: the first pulse of an evacuation, after V + 50 and the cluster's vacancy (R425, R426). -/
def execPurgeStart (zone : Nat) (s : State) : Out :=
  match (s.zone zone).evac with
  | none => .next s
  | some v =>
    let vacant : Bool := match zoneCluster zone with
      | some k => (clusterCores (k / 16) (k % 16)).all fun c => (s.core c).task.isNone
      | none => true
    .next (if v + 50 < s.frame ∧ vacant = true ∧ !s.purging ∧ s.nextPurge = some zone then s.pulse zone else s)

/-- The end of an evacuation (R425 step 5): the zone returns, or the cluster, or the module, is fenced. -/
def State.endEvac (s : State) (z : Nat) (cleared : Bool) : State :=
  if cleared then
    (s.modZone z fun x => { x with evac := none, purge := .idle, pulses := 0 }).post
      (mkRec 0x40 0 (zoneLoc z 6) (leBytes 1 7 ++ leBytes 1 0 ++ leBytes 4 0) none none)
  else match zoneCluster z with
    | some k => s.fenceCluster z k 0
    | none => (s.modZone z fun x => { x with evac := none, purge := .idle }).fenceModule (zoneLoc z 6)

/-- PURGE_PULSE: a pulse of 200,000 ticks ends (R425 step 4). -/
def execPurgePulse (zone : Nat) (s : State) : Out :=
  let x := s.zone zone
  match x.purge with
  | .pulse t =>
    if s.frame < t then .next s
    else if 10 ≤ x.runs.get 6 0 then .next (s.endEvac zone true)
    else if 5 ≤ x.pulses then .next (s.endEvac zone false)
    else .next ((s.setValve zone 0).modZone zone fun x => { x with purge := .gap (s.frame + 5000) })
  | _ => .next s

/-- PURGE_GAP: after 5,000 ticks at VALVE 0 the next pulse begins (R425 step 4). -/
def execPurgeGap (zone : Nat) (s : State) : Out :=
  match (s.zone zone).purge with
  | .gap t => .next (if s.frame < t then s else s.pulse zone)
  | _ => .next s

/-! Cluster capabilities (R323, R433). -/

/-- CLCAP_WRITE: firmware writes the capabilities of a die's clusters. A cleared WIDE bit and a set OFF bit stay until module reset. -/
def execClcapWrite (die : Nat) (v : Word) (s : State) : Out :=
  let d := s.die die
  let thr : BitVec 16 := v.extractLsb' 48 16
  let off : BitVec 16 := v.extractLsb' 32 16 ||| d.off
  let wide : BitVec 16 := v.extractLsb' 0 16 &&& d.wide
  let s := s.modDie die fun d => { d with thr := thr, off := off, wide := wide }
  .next ((List.range 16).foldl (fun (s : State) c =>
    if off.getLsbD c && !d.off.getLsbD c then s.vacate (die * 16 + c) 1
    else if d.wide.getLsbD c && !wide.getLsbD c then s.vacate (die * 16 + c) 2
    else s) s)

end Sys2Proof.Machine
end

