-- ==== Sys2Proof/Machine/Power.lean ====
section
/-! DEFINITION. Energy, tokens and clock steps: the governor, token transfers, announcements and the energy counters (14, R305 to R314;
23, R427 to R429). -/
namespace Sys2Proof.Machine

/-- The governor as a reporting unit (R356). -/
def govLoc : Loc := locDie 19 8

/-- A management message is sent to a module (R334). -/
def State.tell (s : State) (peer : Nat) (m : Mgmt) : State := { s with mgmtOut := s.mgmtOut ++ [(peer, m)] }

/-- The number that stands for every live port (R430). -/
def everyPort : Nat := 2048

/-- The number that stands for the mailbox where a core takes a result (R330). -/
def mailboxCore : Nat := 512

/-! Clock steps (R312 to R314, R429). -/

/-- A pending change added: in increasing tick; of equal ticks the highest step wins (R313). -/
def addPending (n t : Nat) (l : List (Nat × Nat)) : List (Nat × Nat) :=
  match l with
  | [] => [(n, t)]
  | (m, u) :: l => if t < u then (n, t) :: (m, u) :: l else if t = u then (max m n, u) :: l else (m, u) :: addPending n t l

/-- A die is told to change its step at a tick; no step outside 0 to 15 is set (R309). -/
def State.planStep (s : State) (die n t : Nat) : State :=
  if n ≤ 15 then s.modDie die fun d => { d with pending := addPending n t d.pending } else s

/-- The dies of this module in a collective group. -/
def State.groupDies (s : State) (g : Nat) : List Nat := (List.range 8).filter fun d => g != 0 && (s.die d).cgroup == g

/-- The pair in force of a group (R429). -/
def State.pairOf (s : State) (g : Nat) : Nat × Nat := match s.hub.colls.find? fun c => c.group == g with | some c => (c.step, c.tick) | none => (0, 0)

/-- The pair in force of a group set. -/
def State.setPair (s : State) (g n t : Nat) : State := s.modHub fun h => { h with colls := ⟨g, n, t⟩ :: h.colls.filter fun c => c.group != g }

/-- A pair is older than another (R429). -/
def olderPair (a b : Nat × Nat) : Bool := decide (a.2 < b.2 ∨ (a.2 = b.2 ∧ a.1 < b.1))

/-- A pair adopted late by a die of a group: at the next tick, with a record (R429). -/
def State.adoptLate (s : State) (die g n t : Nat) : State :=
  ((s.planStep die n (s.frame + 1)).setPair g n t).post (mkRec 0x43 0 govLoc (leBytes 1 n ++ leBytes 8 t) none none)

/-- An announcement reaches a die (R313, R429). -/
def State.announced (s : State) (die n t : Nat) : State :=
  let g := (s.die die).cgroup
  if g = 0 ∨ 15 < n then s
  else if s.frame ≤ t then s.planStep die n t
  else s.adoptLate die g n t

/-- STEP_ANNOUNCEMENT: an announcement (step n, tick T) reaches a collective member (R313). -/
def execStepAnnouncement (die step tick : Nat) (s : State) : Out := .next (s.announced die step tick)

/-- STEP_CHANGE: the first pending change of a die whose tick has come (R312, R313). -/
def execStepChange (die : Nat) (s : State) : Out :=
  let d := s.die die
  match d.pending with
  | [] => .next s
  | (n, t) :: rest =>
    if s.frame < t then .next s
    else
      let s := s.modDie die fun d => { d with step := n, pending := rest }
      .next (if d.cgroup = 0 ∨ olderPair (n, t) (s.pairOf d.cgroup) then s else s.setPair d.cgroup n t)

/-- A member announces a pair to every member (R313). -/
def State.announce (s : State) (g n : Nat) : State :=
  let t := s.frame + 64
  ((s.groupDies g).foldl (fun (s : State) d => s.planStep d n t) s).tell everyPort (.announce g n t)

/-- A die steps to a step: alone at the next tick, or by an announcement (R309, R313). -/
def State.stepTo (s : State) (die n : Nat) : State :=
  let g := (s.die die).cgroup
  if 15 < n then s else if g = 0 then s.planStep die n (s.frame + 1) else s.announce g n

/-! The governor's windows (R309, R427). -/

/-- The number with the greatest value among those of a list; the lowest of equals. -/
def greatest (f : Nat → Nat) (l : List Nat) : Option Nat :=
  l.foldl (fun (a : Option Nat) n => match a with | none => some n | some m => if f m < f n then some n else a) none

/-- The clusters that are enabled. -/
def State.enabledClusters (s : State) : List Nat := (List.range 128).filter fun k => s.enabled (k / 16) (k % 16)

/-- The average is above the balance (R309, R427). -/
def State.overBalance (s : State) (avg : Nat) (dieUse clusterUse : List Nat) : State :=
  let s := s.modHub fun h => { h with lowwin := 0 }
  if (List.range 8).all fun d => (s.die d).step == 15 then
    let open_ := s.enabledClusters.filter fun k => !s.throttled k
    let excess := decide (6400 < avg) && open_.isEmpty
    let s := s.modHub fun h => { h with overwin := if excess then h.overwin + 1 else 0 }
    if 3 ≤ s.hub.overwin then s.fenceModule govLoc
    else match greatest (clusterUse.getD · 0) open_ with
      | some k => s.modHub fun h => { h with throttled := k :: h.throttled }
      | none => s
  else
    let s := s.modHub fun h => { h with overwin := 0 }
    match greatest (dieUse.getD · 0) (List.range 8) with
    | some d => s.stepTo d ((s.die d).step + 1)
    | none => s

/-- This module coordinates a group: no live member module has a lower number (R313, R429). -/
def State.coordinates (s : State) (g : Nat) : Bool :=
  !(s.hub.members.any fun m => m.2 == g && decide (m.1 < s.hub.module) && !s.hub.lostMods.contains m.1)

/-- The members of a group in other modules report power below 90 percent of their share: the spec gives no message for it, so with such
members it is free (DEDUCED, log 33). -/
def State.groupIdle (s : State) (g : Nat) : Bool :=
  !(s.hub.members.any fun m => m.2 == g && !s.hub.lostMods.contains m.1) || Config.freeBit s.steps g

/-- Eight windows have stayed below 90 percent of the balance (R309, R427): a throttle is lifted, or a die stepped up. -/
def State.underBalance (s : State) : State :=
  match s.hub.throttled with
  | _ :: rest => s.modHub fun h => { h with throttled := rest }
  | [] =>
    match greatest (fun d => (s.die d).step) (List.range 8) with
    | none => s
    | some d =>
      let n := (s.die d).step
      let g := (s.die d).cgroup
      if n = 0 then s
      else if g = 0 then s.planStep d (n - 1) (s.frame + 1)
      else if s.coordinates g && s.groupIdle g then s.announce g (n - 1)
      else s

/-- GOVERNOR_WINDOW: the end of a window of 1,000 ticks; average power, and the energy of each die and cluster, are measured (R309,
R427). The window is judged by the balance that stood when it began (R310). -/
def execGovernorWindow (avg : Nat) (dieUse clusterUse : List Nat) (s : State) : Out :=
  if s.frame / 1000 ≤ s.hub.windowN then .next s
  else
    let limit := s.hub.govern
    let s := s.modHub fun h => { h with windowN := s.frame / 1000, power := avg, govern := h.balance }
    if limit < avg then .next (s.overBalance avg dieUse clusterUse)
    else
      let below := decide (avg * 10 < limit * 9)
      let s := s.modHub fun h => { h with lowwin := if below then h.lowwin + 1 else 0, overwin := 0 }
      .next (if 8 ≤ s.hub.lowwin then s.underBalance else s)

/-! Token transfers (R308, R310, R428). -/

/-- A response stands in the mailbox (R332): status and body under the request's header. -/
def State.respond (s : State) (status : Nat) (body : List Byte) : State :=
  let req := s.hub.mbreq
  (s.modHub fun h =>
    { h with
      mbresp := req.take 2 ++ leBytes 2 status ++ leBytes 4 body.length ++ (req.drop 8).take 8 ++ body
      mbbusy := false
      mbdone := true }).signal 1

/-- The result of a TOKX goes to its register, or to the mailbox (R225, R330). -/
def State.tokxEnd (s : State) (t : Transfer) (v : Nat) : State :=
  match t.dest with
  | none => s
  | some (c, d) => if c = mailboxCore then s.respond 0 (leBytes 8 v) else if c = noCore then s else { s with rets := s.rets ++ [⟨c, [(d, BitVec.ofNat 64 v)]⟩] }

/-- A transfer is settled. -/
def State.dropTransfer (s : State) (t : Transfer) : State := s.modHub fun h => { h with transfers := h.transfers.filter fun u => u.num != t.num || u.peer != t.peer }

/-- The giver's balance is restored (R310); it never exceeds 6,400 (R308). -/
def State.restore (s : State) (tokens : Nat) : State := s.modHub fun h => { h with balance := min 6400 (h.balance + tokens) }

/-- The record of a transfer that is pending or settled (R428). -/
def transferRec (t : Transfer) (settled : Nat) : ErrRec :=
  mkRec 0x42 0 govLoc (leBytes 2 t.peer ++ leBytes 4 t.tokens ++ leBytes 4 t.num ++ leBytes 1 settled) none none

/-- The transfer of a number to a peer. -/
def State.transfer (s : State) (peer num : Nat) : Option Transfer := s.hub.transfers.find? fun t => t.peer == peer && t.num == num

/-- A grant arrives (R310, R428): answered as before if it is logged, else taken if the balance allows it, and logged. -/
def State.takeGrant (s : State) (src num tokens : Nat) : State :=
  match s.hub.grantlog.find? fun g => g.1 == src && g.2.1 == num with
  | some g => s.tell src (.grantAnswer s.hub.module num g.2.2)
  | none =>
    let ok := decide (s.hub.balance + tokens ≤ 6400)
    (s.modHub fun h =>
      { h with
        balance := if ok then h.balance + tokens else h.balance
        grantlog := ((src, num, ok) :: h.grantlog).take 64 }).tell src (.grantAnswer s.hub.module num ok)

/-- TOKEN_GRANT: a peer's grant arrives (R310). -/
def execTokenGrant (src num tokens : Nat) (s : State) : Out := .next (s.takeGrant src num tokens)

/-- A peer's acknowledgement or refusal arrives (R310). -/
def State.grantAnswer (s : State) (peer num : Nat) (taken : Bool) : State :=
  match s.transfer peer num with
  | none => s
  | some t =>
    if t.dest.isNone then s
    else if taken then (s.dropTransfer t).tokxEnd t 0
    else ((s.dropTransfer t).restore t.tokens).tokxEnd t 2

/-- TOKX_ACK_TIMEOUT: without an acknowledgement in 1,000 ticks TOKX returns 3, and the transfer is pending (R225, R428). -/
def execTokxAckTimeout (peer : Nat) (s : State) : Out :=
  match s.hub.transfers.find? fun t => t.peer == peer && t.dest.isSome with
  | none => .next s
  | some t =>
    if s.frame < t.tick + 1000 then .next s
    else .next (((s.modHub fun h => { h with transfers := h.transfers.map fun u => if u = t then { u with dest := none, tick := s.frame } else u }).tokxEnd
      t 3).post (transferRec t 0))

/-- TOKEN_OUTCOME_QUERY: every 1,000 ticks the giver asks the peer for the outcome of a pending transfer (R428). -/
def execTokenOutcomeQuery (peer : Nat) (s : State) : Out :=
  match s.hub.transfers.find? fun t => t.peer == peer && t.dest.isNone with
  | none => .next s
  | some t =>
    if s.frame < t.tick + 1000 then .next s
    else .next ((s.modHub fun h => { h with transfers := h.transfers.map fun u => if u = t then { u with tick := s.frame } else u }).tell peer
      (.outcomeQuery s.hub.module t.num))

/-- A giver asks for an outcome (R428): a number that is not logged is logged as refused. -/
def State.answerQuery (s : State) (src num : Nat) : State :=
  match s.hub.grantlog.find? fun g => g.1 == src && g.2.1 == num with
  | some g => s.tell src (.outcomeAnswer s.hub.module num g.2.2)
  | none => (s.modHub fun h => { h with grantlog := ((src, num, false) :: h.grantlog).take 64 }).tell src (.outcomeAnswer s.hub.module num false)

/-- The peer's answer settles a pending transfer (R428). -/
def State.outcomeAnswer (s : State) (peer num : Nat) (received : Bool) : State :=
  match s.transfer peer num with
  | none => s
  | some t =>
    if t.dest.isSome then s
    else if received then (s.dropTransfer t).post (transferRec t 1)
    else ((s.dropTransfer t).restore t.tokens).post (transferRec t 2)

/-! Energy (R305, R306). -/

/-- The energy account of what runs on a core: that of its task, account 0 where it is idle (R306). -/
def Core.account (k : Core) : Nat := if k.task.isSome then k.eacct % 256 else 0

/-- What the accounts receive of a tick's total (R306): of each core's own energy, of its array chunks, which run while it holds the lease, and of
the accesses that it issued, the account of its task; account 0 the remainder. Energies are given by core; a tick's are charged to the tasks
that stand at its end (DESIGN CHOICE, log 15). -/
def State.energyShares (s : State) (total : Nat) (cores : List CoreEnergy) : List (Nat × Nat) :=
  let (rest, shares) := allCores.foldl (fun (a : Nat × List (Nat × Nat)) c =>
    let x := cores.getD c ⟨0, 0, 0⟩
    let e := min (x.own + x.arrays + x.accesses) a.1
    (a.1 - e, if e = 0 then a.2 else a.2 ++ [((s.core c).account, e)])) (total, [])
  (0, rest) :: shares

/-- ENERGY_COUNTER_UPDATE: the measured energy of a tick in microjoules is divided among the accounts (R305, R306). -/
def execEnergyCounterUpdate (cores : List CoreEnergy) (dies : List Nat) (hub total : Nat) (s : State) : Out :=
  if s.frame ≤ s.hub.energyN then .next s
  else
    let add (t : Tbl Nat) (p : Nat × Nat) : Tbl Nat := t.set p.1 ((t.get p.1 0 + p.2) % 2 ^ 64)
    .next (s.modHub fun h =>
      { h with
        energyN := s.frame
        energy := {
          accounts := (s.energyShares total cores).foldl add h.energy.accounts
          dies := ((dies.take 8).zipIdx.map fun p => (p.2, p.1)).foldl add h.energy.dies
          hub := (h.energy.hub + hub) % 2 ^ 64
          total := (h.energy.total + total) % 2 ^ 64 } })

end Sys2Proof.Machine
end

