-- ==== Sys2Proof/Machine/Lanes.lean ====
section
/-! DEFINITION. What every table operation shares: sources, elements of a lane, destinations, latches, the faults of an entry and
its memory places (10, R227 to R230, R236, R249; 22, R407, R415). -/
namespace Sys2Proof.Machine

/-! Sources and destinations. -/

/-- The group in issue. -/
def State.grp (s : State) : Nat := s.iss.group

/-- A latch of a group at issue. -/
def Core.latch (k : Core) (g n : Nat) : Latch := k.latches.get (g * 8 + n) ⟨false, []⟩

/-- The value of a source code in a lane of a group (R228). -/
def State.src (s : State) (e : Entry) (g : Nat) (code : BitVec 7) (l : Nat) : Lane :=
  let c := code.toNat
  if c < 64 then laneOf (s.iss.src.regs.getV g c) l
  else if c < 72 then laneOf (s.iss.src.latch g (c - 64)).lanes l
  else match c with
    | 72 => s.iss.bs.setWidth 32
    | 73 => s.iss.bi.zeroExtend 32
    | 74 => e.imm
    | 75 => BitVec.ofNat 32 l
    | 76 => BitVec.ofNat 32 g
    | _ => 0

/-- Sources A, B and C of an entry in a lane of the group in issue. -/
def State.va (s : State) (e : Entry) (l : Nat) : Lane := s.src e s.grp e.sa l
/-- See `State.va`. -/
def State.vb (s : State) (e : Entry) (l : Nat) : Lane := s.src e s.grp e.sb l
/-- See `State.va`. -/
def State.vc (s : State) (e : Entry) (l : Nat) : Lane := s.src e s.grp e.sc l

/-- A lane of a group is enabled by an entry's mask (R229). -/
def State.on (s : State) (e : Entry) (g l : Nat) : Bool := (s.iss.src.regs.getQ g e.mask.toNat).getLsbD l

/-- The lanes that an entry enables in the group in issue. -/
def State.lanesOn (s : State) (e : Entry) : List Nat := (List.range 32).filter (s.on e s.grp)

/-- The destination's own write is suppressed: nowb counts only with capv (R56, R175). -/
def quiet (e : Entry) : Bool := e.capv == 1 && e.nowb == 1

/-- A latch of the issuing core captures the enabled lanes of a result (R56). -/
def State.capture (s : State) (e : Entry) (f : Nat → Lane) : State :=
  if e.capv = 0 then s
  else
    let i := s.grp * 8 + e.latch.toNat
    s.modCore s.iss.core fun k =>
      let old := (k.latch s.grp e.latch.toNat).lanes
      { k with latches := k.latches.set i ⟨true, lanes fun l => if s.on e s.grp l then f l else laneOf old l⟩ }

/-- A result written to the enabled lanes of the destination v register and captured (R229). -/
def State.vput (s : State) (e : Entry) (f : Nat → Lane) : State :=
  let s' := if quiet e then s
    else s.modCore s.iss.core fun k =>
      let old := k.regs.getV s.grp e.dest.toNat
      { k with regs := k.regs.setV s.grp e.dest.toNat (lanes fun l => if s.on e s.grp l then f l else laneOf old l) }
  s'.capture e f

/-- A 32-bit mask of a condition by lane. -/
def maskOf (f : Nat → Bool) : Lane := BitVec.ofNat 32 ((List.range 32).foldl (fun a l => a + (f l).toNat * 2 ^ l) 0)

/-- Bits written to the enabled lanes of the destination mask and captured as all ones or all zeros (R229). -/
def State.qput (s : State) (e : Entry) (f : Nat → Bool) : State :=
  let n := e.dest.toNat - 64
  let s' := if quiet e then s
    else s.modCore s.iss.core fun k =>
      let old := k.regs.getQ s.grp n
      { k with regs := k.regs.setQ s.grp n (maskOf fun l => if s.on e s.grp l then f l else old.getLsbD l) }
  s'.capture e fun l => if f l then 0xFFFFFFFF else 0

/-! The format entry and the counts. -/

/-- The format table entry of the V issue slot (R227). -/
def State.fmtEntry (s : State) : Quad := s.iss.src.fmts.get s.iss.fidx 0

/-- NANZ of a format entry (R116). -/
def fmtNanz (f : Quad) : Bool := f.getLsbD 29
/-- SAT48 of a format entry. -/
def fmtSat (f : Quad) : Bool := f.getLsbD 30
/-- A field of a format entry. -/
def fmtFld (f : Quad) (lo len : Nat) : Nat := f.toNat / 2 ^ lo % 2 ^ len

/-- A count added to NANCNT of a core, saturating (R100). -/
def State.addNan (s : State) (c n : Nat) : State :=
  if n = 0 then s
  else s.modCore c fun k => { k with csrs := { k.csrs with nancnt := BitVec.ofNat 64 (min (k.csrs.nancnt.toNat + n) (2 ^ 32 - 1)) } }

/-- A count added to UNCHK of RIMECTL, saturating (R121, R135). -/
def State.addUnchk (s : State) (c n : Nat) : State :=
  if n = 0 then s
  else s.modCore c fun k =>
    let u := min (k.csrs.rimectl.toNat / 2 ^ 32 + n) 0xFFFF
    { k with csrs := { k.csrs with rimectl := BitVec.ofNat 64 (u * 2 ^ 32 + k.csrs.rimectl.toNat % 2 ^ 32) } }

/-! Elements of a lane (R104). -/

/-- Elements per lane of a type. -/
def tyCount (ty : Nat) : Nat := match ty with | 0 => 1 | 1 => 2 | 2 => 2 | 3 => 1 | 4 => 1 | 5 => 2 | _ => 4

/-- Bits of an element of a type. -/
def tyWidth (ty : Nat) : Nat := 32 / tyCount ty

/-- The type is signed: s32, s16p, s8q. -/
def tySigned (ty : Nat) : Bool := ty == 3 || ty == 5 || ty == 6

/-- The format code of a type's elements (R88, R104). -/
def tyFmt (ty : Nat) : Nat := match ty with | 0 => 0 | 1 => 2 | 2 => 1 | 3 => 8 | 4 => 9 | 5 => 10 | 6 => 11 | _ => 12

/-- Element k of a lane at a width. -/
def elemAt (w : Nat) (x : Lane) (k : Nat) : Nat := x.toNat / 2 ^ (w * k) % 2 ^ w

/-- The elements of a lane. -/
def elemsOf (ty : Nat) (x : Lane) : List Nat := (List.range (tyCount ty)).map (elemAt (tyWidth ty) x)

/-- A lane from its elements, element 0 lowest. -/
def joinElems (w : Nat) (l : List Nat) : Lane := BitVec.ofNat 32 (l.foldr (fun v a => v % 2 ^ w + 2 ^ w * a) 0)

/-! The places of memory entries (R236). -/

/-- The space of a table entry (R174): 0 C, 1 K, 2 P, 3 S. -/
def entrySpace (n : BitVec 2) : Space := match n.toNat with | 0 => .c | 1 => .k | 2 => .p | _ => .s

/-- Where a lane's access lies: an on-chip key with its offset, a global address, or out of map with its reason (R381). -/
inductive Place where
  | chip (sp : Space) (key : Nat) (off : Int)
  | glob (va : Word)
  | out (reason : Nat) (off : Int)
  deriving DecidableEq, Repr

/-- The address of a place, as a record gives it. -/
def Place.addr : Place → Word
  | .chip _ _ o => BitVec.ofInt 64 o
  | .glob va => va
  | .out _ o => BitVec.ofInt 64 o

/-- b[base] + offset of an entry, exact (R236). -/
def State.entryBase (s : State) (e : Entry) (g : Nat) : Int :=
  ((s.iss.src.regs.getB g e.base.toNat).toNat : Int) + e.offset.toInt

/-- SpillResolve (R77). -/
def State.spillPlace (s : State) (g : Nat) (u : Int) : Place :=
  let k := s.iss.src
  if u < 0 then .out 5 u
  else if u < k.spillsize then
    .chip .c (cKey s.iss.core (0x40000 * g + k.spillbase + u.toNat)) ((0x40000 * g + k.spillbase : Nat) + u)
  else if u - k.spillsize ≥ 0x10000 ∨ k.csrs.ovfptr = 0 then .out 6 u
  else .glob (k.csrs.ovfptr + BitVec.ofInt 64 (0x10000 * (g : Int) + (u - k.spillsize)))

/-- LaneAddress (R236) at index i; `flat` for VLD and VST, whose lanes share one private offset. -/
def State.lanePlace (s : State) (e : Entry) (g l : Nat) (i : Int) (flat : Bool) : Place :=
  let u := s.entryBase e g + i
  match entrySpace e.space with
  | .c =>
    let o := 0x40000 * (e.bank.toNat : Int) + u
    if u < 0 ∨ u > 0x3FFFC then .out 5 o else .chip .c (cKey s.iss.core o.toNat) o
  | .k => if u < 0 ∨ u > 0x3FFFFC then .out 5 u else .chip .k (kKey (clusterOf s.iss.core) u.toNat) u
  | .p =>
    let p := if flat then u - 4 * (l : Int) else u
    if p < 0 ∨ p > 0x7C then .out 5 p else .chip .p (pKey s.iss.core g (128 * l + p.toNat)) p
  | _ => s.spillPlace g u

/-- GlobalAddress (R236). -/
def State.globalAt (s : State) (e : Entry) (a : Lane) : Word := s.iss.bs + e.offset.signExtend 64 + a.signExtend 64

/-- The place of an enabled lane's access, by opcode. -/
def State.placeOf (s : State) (op : Nat) (e : Entry) (g l : Nat) : Place :=
  match op with
  | 0x200 => s.lanePlace e g l (4 * (l : Int)) true
  | 0x201 => s.lanePlace e g l (4 * (l : Int)) true
  | 0x202 => s.lanePlace e g l (s.src e g e.sa l).toInt false
  | 0x203 => s.lanePlace e g l (s.src e g e.sb l).toInt false
  | _ => .glob (s.globalAt e (s.src e g e.sa l))

/-- The kind of access of a memory opcode. -/
def entryAcc (op : Nat) : Acc := if op = 0x201 ∨ op = 0x203 ∨ op = 0x205 then .write else if op ≤ 0x204 then .read else .atomic

/-- The C-space offset at which a row or tile entry starts (R241, R247), before any check. -/
def State.tileOff (s : State) (e : Entry) (g : Nat) : Int := 0x40000 * (e.bank.toNat : Int) + s.entryBase e g

/-- Lanes that supply a row's elements (R241). -/
def rowLanes (ty : Nat) : Nat := rowBytesOfType ty / 4

/-! The faults of an entry (R407, R415), each with the group and lane it is found in. -/

/-- A misaligned address of an entry: lane, log2 of the alignment, address (R415). -/
def State.entryAlign (s : State) (op : Nat) (e : Entry) (g : Nat) : Option (Nat × Nat × Word) :=
  let on := (List.range 32).filter (s.on e g)
  if 0x200 ≤ op ∧ op ≤ 0x207 then
    on.findSome? fun l => let a := (s.placeOf op e g l).addr; if a.toNat % 4 ≠ 0 then some (l, 2, a) else none
  else if op = 0x208 then
    let rime := s.src e g e.sc 0
    match on.find? fun l => decide (l < rowLanes e.ty.toNat) && decide (s.tileOff e g % 4 ≠ 0) with
    | some l => some (l, 2, BitVec.ofInt 64 (s.tileOff e g + 4 * (l : Int)))
    | none => if rime.toNat % 256 ≠ 0 then some (0, 8, rime.zeroExtend 64) else none
  else if op = 0x305 then
    let rime := s.src e g e.sa 0
    if rime.toNat % 256 ≠ 0 then some (0, 8, rime.zeroExtend 64) else none
  else none

/-- The first empty latch that an entry reads (R56). -/
def State.entryStale (s : State) (op : Nat) (e : Entry) (g : Nat) : Option Nat :=
  if op = 0x117 ∨ op = 0x118 then none
  else (([e.sa, e.sb, e.sc].take (sourcesRead op e)).find? fun c =>
    decide (64 ≤ c.toNat ∧ c.toNat < 72) && !(s.iss.src.latch g (c.toNat - 64)).landed).map fun c => c.toNat - 64

/-- An access of an entry that is out of map: lane, reason, address. -/
def State.entryRange (s : State) (op : Nat) (e : Entry) (g : Nat) : Option (Nat × Nat × Word) :=
  let on := (List.range 32).filter (s.on e g)
  if 0x200 ≤ op ∧ op ≤ 0x207 then
    on.findSome? fun l =>
      match s.placeOf op e g l with
      | .chip _ _ _ => none
      | .out r o => some (l, r, BitVec.ofInt 64 o)
      | .glob va => match s.translateN s.iss.src.ctxid va 4 (entryAcc op) with
        | .ok _ => none
        | .error (r, a) => some (l, r, a)
  else if op = 0x208 then
    let u := s.entryBase e g
    let rime := (s.src e g e.sc 0).toNat
    if u < 0 ∨ u + rowBytesOfType e.ty.toNat > 0x40000 then some (0, 5, BitVec.ofInt 64 (s.tileOff e g))
    else if rime + 256 > 2 ^ 22 then some (0, 5, BitVec.ofNat 64 rime) else none
  else if op = 0x305 then
    let o := s.tileOff e g
    let rime := (s.src e g e.sa 0).toNat
    if o < 0 ∨ o + 31 * (e.imm.toNat % 65536) + rowBytesOfType e.ty.toNat > 2 ^ 22 then some (0, 5, BitVec.ofInt 64 o)
    else if rime + 256 > 2 ^ 22 then some (0, 5, BitVec.ofNat 64 rime) else none
  else none

/-- The operation of a vector atomic. -/
def vecOp (op : Nat) (e : Entry) : AOp := if op = 0x207 then .cas else .amo e.fn.toNat

/-- A lane's atomic that its region does not permit: lane, reason, address (R240, R389). -/
def State.entryDenied (s : State) (op : Nat) (e : Entry) (g : Nat) : Option (Nat × Nat × Word) :=
  if op = 0x206 ∨ op = 0x207 then
    ((List.range 32).filter (s.on e g)).findSome? fun l =>
      let va := s.globalAt e (s.src e g e.sa l)
      match s.translate s.iss.src.ctxid va .atomic with
      | .error _ => none
      | .ok t => (atomicReason t (vecOp op e)).map fun r => (l, r, va)
  else none

/-- The kind of an access as an out-of-map record gives it (R379). -/
def accKind (a : Acc) : Nat := match a with | .read => 0 | .write => 1 | .atomic => 2 | .fetch => 3

/-- The access kind of an entry that reaches memory, tile entries among them. -/
def entryKind (op : Nat) : Nat := if op = 0x208 then 1 else if op = 0x305 then 0 else accKind (entryAcc op)

/-- The first fault of the entries that a bundle broadcasts (R407): by kind, then group, then lane. -/
def State.entriesFault (s : State) (l : List (Nat × Nat × Entry)) : Option FaultInfo :=
  let core := s.iss.core
  let align := l.findSome? fun x => (s.entryAlign x.2.1 x.2.2 x.1).map fun a =>
    (⟨2, locCore 1 core x.1, leBytes 1 2 ++ leBytes 1 x.2.1 ++ leBytes 2 (x.1 * 32 + a.1) ++ leBytes 1 a.2.1, some a.2.2⟩ : FaultInfo)
  let stale := l.findSome? fun x => (s.entryStale x.2.1 x.2.2 x.1).map fun n =>
    (⟨4, locCore 1 core x.1, leBytes 1 x.1 ++ leBytes 1 n ++ leBytes 2 s.iss.index ++ leBytes 1 s.iss.src.active, none⟩ : FaultInfo)
  let range := l.findSome? fun x => (s.entryRange x.2.1 x.2.2 x.1).map fun a =>
    mapFault (locCore 1 core x.1) (entryKind x.2.1) a.2.1 0 0 (x.1 * 32 + a.1) a.2.2
  let denied := l.findSome? fun x => (s.entryDenied x.2.1 x.2.2 x.1).map fun a =>
    (⟨0x11, locCore 1 core x.1, leBytes 1 1 ++ leBytes 1 a.2.1 ++ leBytes 1 x.2.1, some a.2.2⟩ : FaultInfo)
  (((align.or stale).or range).or denied)

/-- An entry of the group in issue acts, or its fault is taken. -/
def State.ventry (s : State) (op : Nat) (e : Entry) (k : State → State) : Out :=
  .next (match s.entriesFault [(s.grp, op, e)] with | some f => s.takeFault f | none => k s)

end Sys2Proof.Machine
end

