-- ==== Sys2Proof/Machine/VFloat.lean ====
section
/-! DEFINITION. Floating table operations (10, R231, R232; 05, R98 to R100, R106, R107, R111). -/
namespace Sys2Proof.Machine

/-- The rounding mode of an entry (R106). -/
def rndMode (e : Entry) : Mode := Mode.of e.rnd.toNat

/-- An input under NANZ: a NaN is taken as +0.0 and counted (R100). -/
def nanzIn (nanz : Bool) (v : FVal) : FVal × Nat := if nanz && v.isNan then (FVal.zero, 1) else (v, 0)

/-- A product under NANZ: zero times infinity is taken as +0.0 and counted (R100). -/
def nanzMul (nanz : Bool) (a b : FVal) : FVal × Nat :=
  if nanz && ((a.isZero && b.isInf) || (a.isInf && b.isZero)) then (FVal.zero, 1) else (a.mul b, 0)

/-- A floating operation on the elements A, B, C of one position: its value before rounding and the products counted. -/
abbrev FOp := Bool → Mode → FVal → FVal → FVal → FVal × Nat

/-- One element's result: bits in the type's format and the count, with the given number of sources read. -/
def fElem (op : FOp) (n : Nat) (nanz : Bool) (mode : Mode) (fmt a b c : Nat) : Nat × Nat :=
  let x := nanzIn nanz (decodeF fmt a)
  let y := if n < 2 then (FVal.zero, 0) else nanzIn nanz (decodeF fmt b)
  let z := if n < 3 then (FVal.zero, 0) else nanzIn nanz (decodeF fmt c)
  let r := op nanz mode x.1 y.1 z.1
  (roundF fmt mode false r.1, x.2 + y.2 + z.2 + r.2)

/-- The elements of a lane's result with the count. -/
def State.fLane (s : State) (op : FOp) (n : Nat) (e : Entry) (l : Nat) : List (Nat × Nat) :=
  let ty := e.ty.toNat
  (List.range (tyCount ty)).map fun k =>
    fElem op n (fmtNanz s.fmtEntry) (rndMode e) (tyFmt ty) (elemAt (tyWidth ty) (s.va e l) k) (elemAt (tyWidth ty) (s.vb e l) k)
      (elemAt (tyWidth ty) (s.vc e l) k)

/-- A count summed over the enabled lanes. -/
def State.countOn (s : State) (e : Entry) (f : Nat → Nat) : Nat := (s.lanesOn e).foldl (fun a l => a + f l) 0

/-- A floating operation performed by the group in issue (R231). -/
def State.fRun (s : State) (op : FOp) (n : Nat) (e : Entry) : State :=
  (s.vput e fun l => joinElems (tyWidth e.ty.toNat) ((s.fLane op n e l).map (·.1))).addNan s.iss.core
    (s.countOn e fun l => (s.fLane op n e l).foldl (fun a p => a + p.2) 0)

/-- A + B. -/
def fAdd : FOp := fun _ m a b _ => (a.add m b, 0)
/-- A - B. -/
def fSub : FOp := fun _ m a b _ => (a.add m b.opp, 0)
/-- A × B. -/
def fMul : FOp := fun z _ a b _ => nanzMul z a b
/-- A × B + C. -/
def fFma : FOp := fun z m a b c => let p := nanzMul z a b; (p.1.add m c, p.2)
/-- A × B - C. -/
def fFms : FOp := fun z m a b c => let p := nanzMul z a b; (p.1.add m c.opp, p.2)
/-- C - A × B. -/
def fFnma : FOp := fun z m a b c => let p := nanzMul z a b; (c.add m p.1.opp, p.2)
/-- The smaller (R111). -/
def fMin : FOp := fun _ _ a b _ => (a.min2 b, 0)
/-- The larger (R111). -/
def fMax : FOp := fun _ _ a b _ => (a.max2 b, 0)
/-- A with sign 0. -/
def fAbs : FOp := fun _ _ a _ _ => (a.abs, 0)
/-- A with its sign inverted. -/
def fNeg : FOp := fun _ _ a _ _ => (a.opp, 0)
/-- The magnitude of A with the sign of B; a NaN in A is a NaN. -/
def fCpys : FOp := fun _ _ a b _ => (if b.neg then a.abs.opp else a.abs, 0)
/-- 1 / A. -/
def fRcp : FOp := fun _ _ a _ _ => ((FVal.fin false 1 0).div a, 0)
/-- A / B. -/
def fDiv : FOp := fun _ _ a b _ => (a.div b, 0)
/-- The square root of A. -/
def fSqrt : FOp := fun _ _ a _ _ => (a.sqrt, 0)

/-- 1 / √A to far more bits than any format holds, with a last bit that is set where it is not exact. -/
def FVal.rsqrt (a : FVal) : FVal :=
  match a with
  | .nan n => .nan n
  | .inf n => if n then .nan false else .fin false 0 0
  | .fin n m e =>
    if m = 0 then .inf n
    else if n then .nan false
    else
      let k : Nat := 200 + m.log2 + (if (e + 200 + m.log2) % 2 = 0 then 0 else 1)
      let x := 2 ^ k / m
      let r := isqrt (x.log2 / 2 + 1) x
      .fin false (2 * r + (if r * r * m = 2 ^ k then 0 else 1)) ((-(e + k)) / 2 - 1)

/-- 1 / √A (R231). -/
def fRsq : FOp := fun _ _ a _ _ => (a.rsqrt, 0)

/-- A rounded to an integral value; a zero result keeps the sign of A (R231). -/
def fRndi : FOp := fun _ m a _ _ =>
  (match a.toInt m with
   | some i => .fin a.neg i.natAbs 0
   | none => a, 0)

/-- VNOP: nothing (R231). -/
def execVnop (_ : Entry) (s : State) : Out := .next s

/-- VADD (R231). -/
def execVadd (e : Entry) (s : State) : Out := s.ventry 0x001 e fun s => s.fRun fAdd 2 e

/-- VSUB (R231). -/
def execVsub (e : Entry) (s : State) : Out := s.ventry 0x002 e fun s => s.fRun fSub 2 e

/-- VMUL (R231). -/
def execVmul (e : Entry) (s : State) : Out := s.ventry 0x003 e fun s => s.fRun fMul 2 e

/-- VFMA: one rounding (R231). -/
def execVfma (e : Entry) (s : State) : Out := s.ventry 0x004 e fun s => s.fRun fFma 3 e

/-- VFMS: one rounding (R231). -/
def execVfms (e : Entry) (s : State) : Out := s.ventry 0x005 e fun s => s.fRun fFms 3 e

/-- VFNMA: one rounding (R231). -/
def execVfnma (e : Entry) (s : State) : Out := s.ventry 0x006 e fun s => s.fRun fFnma 3 e

/-- VMIN (R111, R231). -/
def execVmin (e : Entry) (s : State) : Out := s.ventry 0x007 e fun s => s.fRun fMin 2 e

/-- VMAX (R111, R231). -/
def execVmax (e : Entry) (s : State) : Out := s.ventry 0x008 e fun s => s.fRun fMax 2 e

/-- VABS (R231). -/
def execVabs (e : Entry) (s : State) : Out := s.ventry 0x009 e fun s => s.fRun fAbs 1 e

/-- VNEG (R231). -/
def execVneg (e : Entry) (s : State) : Out := s.ventry 0x00A e fun s => s.fRun fNeg 1 e

/-- VCPYS (R231). -/
def execVcpys (e : Entry) (s : State) : Out := s.ventry 0x00B e fun s => s.fRun fCpys 2 e

/-- VRCP (R231). -/
def execVrcp (e : Entry) (s : State) : Out := s.ventry 0x00C e fun s => s.fRun fRcp 1 e

/-- VRSQ (R231). -/
def execVrsq (e : Entry) (s : State) : Out := s.ventry 0x00D e fun s => s.fRun fRsq 1 e

/-- VSQRT (R231). -/
def execVsqrt (e : Entry) (s : State) : Out := s.ventry 0x00E e fun s => s.fRun fSqrt 1 e

/-- VDIV (R231). -/
def execVdiv (e : Entry) (s : State) : Out := s.ventry 0x00F e fun s => s.fRun fDiv 2 e

/-- VRNDI (R231). -/
def execVrndi (e : Entry) (s : State) : Out := s.ventry 0x016 e fun s => s.fRun fRndi 1 e

/-- One condition of VCMPF (R232). -/
def fCond (cc : Nat) (a b : FVal) : Bool :=
  let un := a.isNan || b.isNan
  let eq := !un && !(a.lt b) && !(b.lt a)
  match cc with
  | 0 => eq
  | 1 => !eq
  | 2 => a.lt b
  | 3 => a.lt b || eq
  | 4 => b.lt a
  | 5 => b.lt a || eq
  | 6 => un
  | _ => !un

/-- The elements that VCMPF compares in a lane, under NANZ, with the count. -/
def State.cmpIn (s : State) (e : Entry) (l : Nat) : (FVal × Nat) × (FVal × Nat) :=
  let ty := e.ty.toNat
  let k := e.fn.toNat / 8
  let v (x : Lane) : FVal × Nat := nanzIn (fmtNanz s.fmtEntry) (decodeF (tyFmt ty) (elemAt (tyWidth ty) x k))
  (v (s.va e l), v (s.vb e l))

/-- VCMPF (R232). -/
def execVcmpf (e : Entry) (s : State) : Out := s.ventry 0x014 e fun s =>
  (s.qput e fun l => let p := s.cmpIn e l; fCond (e.fn.toNat % 8) p.1.1 p.2.1).addNan s.iss.core
    (s.countOn e fun l => let p := s.cmpIn e l; p.1.2 + p.2.2)

/-- The class bit of an encoding (R232). -/
def classBit (fmt bits : Nat) : Nat :=
  let v := decodeF fmt bits
  let sub := bits / 2 ^ fmtW fmt % 2 ^ fmtE fmt = 0
  match v with
  | .nan _ => 8
  | .inf n => if n then 0 else 7
  | .fin n m _ => if m = 0 then (if n then 3 else 4) else if sub then (if n then 2 else 5) else if n then 1 else 6

/-- VCLASS (R232). -/
def execVclass (e : Entry) (s : State) : Out := s.ventry 0x015 e fun s =>
  s.vput e fun l => joinElems (tyWidth e.ty.toNat) ((elemsOf e.ty.toNat (s.va e l)).map fun b => 2 ^ classBit (tyFmt e.ty.toNat) b)

/-- One element of VSCALE: A × 2^n, n a signed integer of the element's width; beyond ±1,000 every result is the same as there. -/
def scaleElem (nanz : Bool) (mode : Mode) (fmt w a b : Nat) : Nat × Nat :=
  let x := nanzIn nanz (decodeF fmt a)
  (roundF fmt mode false (x.1.scale (max (-1000) (min 1000 (signedOf w b)))), x.2)

/-- The elements of a lane of VSCALE. -/
def State.scaleLane (s : State) (e : Entry) (l : Nat) : List (Nat × Nat) :=
  let w := tyWidth e.ty.toNat
  (List.range (tyCount e.ty.toNat)).map fun k =>
    scaleElem (fmtNanz s.fmtEntry) (rndMode e) (tyFmt e.ty.toNat) w (elemAt w (s.va e l) k) (elemAt w (s.vb e l) k)

/-- VSCALE (R231). -/
def execVscale (e : Entry) (s : State) : Out := s.ventry 0x017 e fun s =>
  (s.vput e fun l => joinElems (tyWidth e.ty.toNat) ((s.scaleLane e l).map (·.1))).addNan s.iss.core
    (s.countOn e fun l => (s.scaleLane e l).foldl (fun a p => a + p.2) 0)

/-- One lane of VDOT2 (R111, R231): the sum of two products and an FP32 addend, one rounding to FP32. -/
def dot2 (nanz : Bool) (mode : Mode) (fmt : Nat) (a b c : Lane) : Nat × Nat :=
  let v (x : Lane) (k : Nat) : FVal × Nat := nanzIn nanz (decodeF fmt (elemAt 16 x k))
  let z := nanzIn nanz (decodeF 0 c.toNat)
  let p := nanzMul nanz (v a 0).1 (v b 0).1
  let q := nanzMul nanz (v a 1).1 (v b 1).1
  (roundF 0 mode false ((p.1.add mode q.1).add mode z.1), (v a 0).2 + (v b 0).2 + (v a 1).2 + (v b 1).2 + z.2 + p.2 + q.2)

/-- VDOT2 (R231). -/
def execVdot2 (e : Entry) (s : State) : Out := s.ventry 0x018 e fun s =>
  let r (l : Nat) : Nat × Nat := dot2 (fmtNanz s.fmtEntry) (rndMode e) (tyFmt e.ty.toNat) (s.va e l) (s.vb e l) (s.vc e l)
  (s.vput e fun l => BitVec.ofNat 32 (r l).1).addNan s.iss.core (s.countOn e fun l => (r l).2)

end Sys2Proof.Machine
end

