-- ==== Sys2Proof/Machine/Transc.lean ====
section
/-! DEFINITION. The transcendental table operations (10, R233). The exact value is bracketed by integer arithmetic; which value
within the bound of R233 a result takes is free, one value for each function and operand (DESIGN CHOICE, log 11). -/
namespace Sys2Proof.Machine

/-- Bits after the point of the fixed-point arithmetic below. -/
def fixP : Nat := 400

/-- ln 2 in fixed point: the sum of 1 / (k × 2^k). -/
def ln2Fixed : Nat := (List.range 400).foldl (fun a k => a + 2 ^ fixP / ((k + 1) * 2 ^ (k + 1))) 0

/-- e^x in fixed point for x below 1, by its series. -/
def expFixed (x : Nat) : Nat :=
  ((List.range 90).foldl (fun (p : Nat × Nat) j => (p.1 + p.2, p.2 * x / 2 ^ fixP / (j + 1))) (0, 2 ^ fixP)).1

/-- e^y in fixed point for y below 256, given in fixed point. -/
def expLarge (y : Nat) : Nat := (List.range 9).foldl (fun r _ => r * r / 2 ^ fixP) (expFixed (y / 2 ^ 9))

/-- A magnitude as a fraction, rounded down, and whether the fraction is exact. -/
structure Bracket where
  neg : Bool
  num : Nat
  den : Nat
  exact : Bool
  deriving DecidableEq, Repr

/-- The result within a bound of units in the last place that a free number selects (R233). -/
def Bracket.pick (b : Bracket) (bound dev : Nat) : FVal :=
  let l : Int := (b.num.log2 : Int) - b.den.log2
  let lead : Int := if b.num = 0 then -200 else if b.den * 2 ^ l.toNat ≤ b.num * 2 ^ (-l).toNat then l else l - 1
  let q : Int := max lead (-126) - 23
  let n := b.num * 2 ^ (-q).toNat / (b.den * 2 ^ q.toNat)
  let r : Int := if b.exact ∧ b.num * 2 ^ (-q).toNat % (b.den * 2 ^ q.toNat) = 0 then (n : Int) - bound + (dev % (2 * bound + 1) : Nat) else (n : Int) + 1 - bound + (dev % (2 * bound) : Nat)
  .fin (b.neg != decide (r < 0)) r.natAbs q

/-- 2^v for a finite v below 128: its integer part apart, the rest by the series. -/
def exp2Bracket (neg : Bool) (m : Nat) (e : Int) : Bracket :=
  let k := (-e).toNat
  let a := m * 2 ^ e.toNat
  let up := (a + 2 ^ k - 1) / 2 ^ k
  let i : Int := if neg then -(up : Int) else (a / 2 ^ k : Nat)
  let f := if neg then up * 2 ^ k - a else a % 2 ^ k
  if i < -200 then ⟨false, 1, 2 ^ 300, false⟩
  else if f = 0 then ⟨false, 2 ^ i.toNat, 2 ^ (-i).toNat, true⟩
  else ⟨false, expFixed (f * ln2Fixed / 2 ^ k) * 2 ^ i.toNat, 2 ^ fixP * 2 ^ (-i).toNat, false⟩

/-- The first 128 bits after the point of log2 of a number from 1 to below 2 in fixed point. -/
def log2Frac (y : Nat) : Nat :=
  ((List.range 128).foldl (fun (p : Nat × Nat) _ =>
    let z := p.2 * p.2 / 2 ^ fixP
    if z < 2 ^ (fixP + 1) then (2 * p.1, z) else (2 * p.1 + 1, z / 2)) (0, y)).1

/-- log2 of m × 2^e, m not 0. -/
def log2Bracket (m : Nat) (e : Int) : Bracket :=
  let k := m.log2
  let exact := m = 2 ^ k
  let t : Int := (e + k) * (2 ^ 128 : Nat) + log2Frac (m * 2 ^ fixP / 2 ^ k)
  let mag := t.natAbs
  ⟨decide (t < 0), if t < 0 ∧ ¬exact then mag - 1 else mag, 2 ^ 128, decide exact⟩

/-- m × 2^e in fixed point, rounded down. -/
def toFixed (m : Nat) (e : Int) : Nat := m * 2 ^ (e + fixP).toNat / 2 ^ (-(e + fixP)).toNat

/-- tanh of m × 2^e with a sign. -/
def tanhBracket (neg : Bool) (m : Nat) (e : Int) : Bracket :=
  if e + (m.log2 : Int) ≥ 6 then ⟨neg, 2 ^ 200 - 1, 2 ^ 200, false⟩
  else
    let x := expLarge (toFixed m (e + 1))
    ⟨neg, x - 2 ^ fixP, x + 2 ^ fixP, false⟩

/-- 1 / (1 + e^(-v)) of v = m × 2^e with a sign. -/
def sigmBracket (neg : Bool) (m : Nat) (e : Int) : Bracket :=
  if e + (m.log2 : Int) ≥ 7 then (if neg then ⟨false, 1, 2 ^ 300, false⟩ else ⟨false, 2 ^ 200 - 1, 2 ^ 200, false⟩)
  else
    let x := expLarge (toFixed m e)
    if neg then ⟨false, 2 ^ fixP, x + 2 ^ fixP, false⟩ else ⟨false, x, x + 2 ^ fixP, false⟩

/-- A value kept within a largest one. -/
def atMost (hi v : FVal) : FVal := if hi.lt v then hi else v

/-- The four functions on FP32 values (R233): 0 VEXP2, 1 VLOG2, 2 VTANH, 3 VSIGM. -/
def transc (fn : Nat) (v : FVal) : FVal :=
  let dev := Config.ulpDeviation fn (BitVec.ofNat 32 (roundF 0 .rne false v))
  let one (neg : Bool) : FVal := .fin neg 1 0
  match v with
  | .nan n => .nan n
  | .inf n =>
    (match fn with
     | 0 => if n then FVal.zero else .inf false
     | 1 => if n then .nan false else .inf false
     | 2 => one n
     | _ => if n then FVal.zero else one false)
  | .fin n m e =>
    (match fn with
     | 0 => if m = 0 then one false else if !n && !(v.lt (.fin false 128 0)) then .inf false else (exp2Bracket n m e).pick 1 dev
     | 1 => if m = 0 then .inf true else if n then .nan false else (log2Bracket m e).pick 1 dev
     | 2 =>
       if m = 0 then v
       else
         let r := (tanhBracket n m e).pick 2 dev
         if n then (atMost (one false) r.opp).opp else atMost (one false) r
     | _ =>
       if m = 0 then .fin false 1 (-1)
       else
         let r := (sigmBracket n m e).pick 2 dev
         if r.neg then FVal.zero else atMost (one false) r)

/-- One element: f32 results ignore rnd, packed ones are rounded once more (R233). -/
def transcElem (fn : Nat) (nanz : Bool) (mode : Mode) (fmt a : Nat) : Nat × Nat :=
  let x := nanzIn nanz (decodeF fmt a)
  let r := roundF 0 .rne false (transc fn x.1)
  (if fmt = 0 then r else roundF fmt mode false (decodeF 0 r), x.2)

/-- The elements of a lane. -/
def State.transcLane (s : State) (fn : Nat) (e : Entry) (l : Nat) : List (Nat × Nat) :=
  (elemsOf e.ty.toNat (s.va e l)).map fun a => transcElem fn (fmtNanz s.fmtEntry) (rndMode e) (tyFmt e.ty.toNat) a

/-- A transcendental performed by the group in issue. -/
def State.transcRun (s : State) (fn : Nat) (e : Entry) : State :=
  (s.vput e fun l => joinElems (tyWidth e.ty.toNat) ((s.transcLane fn e l).map (·.1))).addNan s.iss.core
    (s.countOn e fun l => (s.transcLane fn e l).foldl (fun a p => a + p.2) 0)

/-- VEXP2 (R233). -/
def execVexp2 (e : Entry) (s : State) : Out := s.ventry 0x010 e fun s => s.transcRun 0 e

/-- VLOG2 (R233). -/
def execVlog2 (e : Entry) (s : State) : Out := s.ventry 0x011 e fun s => s.transcRun 1 e

/-- VTANH (R233). -/
def execVtanh (e : Entry) (s : State) : Out := s.ventry 0x012 e fun s => s.transcRun 2 e

/-- VSIGM (R233). -/
def execVsigm (e : Entry) (s : State) : Out := s.ventry 0x013 e fun s => s.transcRun 3 e

end Sys2Proof.Machine
end

