-- ==== Sys2Proof/Machine/VInt.lean ====
section
/-! DEFINITION. Integer, logic and mask table operations (10, R234, R235; 05, R104). -/
namespace Sys2Proof.Machine

/-- The integer that an element of a type stands for. -/
def tyInt (ty bits : Nat) : Int := if tySigned ty then signedOf (tyWidth ty) bits else (bits : Int)

/-- An integer operation on elements: the type, A, B, C as bits. -/
abbrev IOp := Nat → Nat → Nat → Nat → Nat

/-- An integer operation performed by the group in issue on each element. -/
def State.iRun (s : State) (op : IOp) (e : Entry) : State :=
  let ty := e.ty.toNat
  let w := tyWidth ty
  s.vput e fun l => joinElems w ((List.range (tyCount ty)).map fun k =>
    op ty (elemAt w (s.va e l) k) (elemAt w (s.vb e l) k) (elemAt w (s.vc e l) k) % 2 ^ w)

/-- A + B. -/
def iAdd : IOp := fun _ a b _ => a + b
/-- A - B. -/
def iSub : IOp := fun ty a b _ => a + 2 ^ tyWidth ty - b
/-- The low bits of A × B. -/
def iMul : IOp := fun _ a b _ => a * b
/-- The high bits of the double-width product. -/
def iMulh : IOp := fun ty a b _ => toBits (2 * tyWidth ty) (tyInt ty a * tyInt ty b) / 2 ^ tyWidth ty
/-- A × B + C. -/
def iMad : IOp := fun _ a b c => a * b + c
/-- A shifted left. -/
def iShl : IOp := fun ty a b _ => a * 2 ^ (b % tyWidth ty)
/-- A shifted right. -/
def iShr : IOp := fun ty a b _ => a / 2 ^ (b % tyWidth ty)
/-- A shifted right arithmetically: an n type is unsigned, so that zeros come in (DEDUCED, log 35). -/
def iSra : IOp := fun ty a b _ => toBits (tyWidth ty) (tyInt ty a / (2 ^ (b % tyWidth ty) : Nat))
/-- The smaller. -/
def iMin : IOp := fun ty a b _ => if tyInt ty b < tyInt ty a then b else a
/-- The larger. -/
def iMax : IOp := fun ty a b _ => if tyInt ty a < tyInt ty b then b else a
/-- The magnitude; the most negative value stays itself. -/
def iAbs : IOp := fun ty a _ _ => (signedOf (tyWidth ty) a).natAbs

/-- An integer clamped to the range of a type (R235). -/
def tyClamp (ty : Nat) (i : Int) : Int :=
  if tySigned ty then intSat (tyWidth ty) i else max 0 (min i (2 ^ tyWidth ty - 1 : Nat))

/-- A + B or A - B, clamped (R235). -/
def iSat (sub : Bool) : IOp := fun ty a b _ =>
  toBits (tyWidth ty) (tyClamp ty (if sub then tyInt ty a - tyInt ty b else tyInt ty a + tyInt ty b))

/-- Leading zeros of a 32-bit number. -/
def clz32 (a : Nat) : Nat := if a = 0 then 32 else 31 - a.log2

/-- One bits of a 32-bit number. -/
def popc32 (a : Nat) : Nat := (List.range 32).countP fun i => a.testBit i

/-- A bit field (R235). -/
def bfx32 (signed : Bool) (a b : Nat) : Nat :=
  let n := b / 256 % 32 + 1
  let f := a / 2 ^ (b % 32) % 2 ^ n
  if signed then toBits 32 (signedOf n f) else f

/-- VIADD (R234). -/
def execViadd (e : Entry) (s : State) : Out := s.ventry 0x100 e fun s => s.iRun iAdd e

/-- VISUB (R234). -/
def execVisub (e : Entry) (s : State) : Out := s.ventry 0x101 e fun s => s.iRun iSub e

/-- VIMUL (R234). -/
def execVimul (e : Entry) (s : State) : Out := s.ventry 0x102 e fun s => s.iRun iMul e

/-- VIMULH (R234). -/
def execVimulh (e : Entry) (s : State) : Out := s.ventry 0x103 e fun s => s.iRun iMulh e

/-- VIMAD (R234). -/
def execVimad (e : Entry) (s : State) : Out := s.ventry 0x104 e fun s => s.iRun iMad e

/-- VAND (R234). -/
def execVand (e : Entry) (s : State) : Out := s.ventry 0x105 e fun s => s.vput e fun l => s.va e l &&& s.vb e l

/-- VOR (R234). -/
def execVor (e : Entry) (s : State) : Out := s.ventry 0x106 e fun s => s.vput e fun l => s.va e l ||| s.vb e l

/-- VXOR (R234). -/
def execVxor (e : Entry) (s : State) : Out := s.ventry 0x107 e fun s => s.vput e fun l => s.va e l ^^^ s.vb e l

/-- VSHL (R234). -/
def execVshl (e : Entry) (s : State) : Out := s.ventry 0x108 e fun s => s.iRun iShl e

/-- VSHR (R234). -/
def execVshr (e : Entry) (s : State) : Out := s.ventry 0x109 e fun s => s.iRun iShr e

/-- VSRA (R234). -/
def execVsra (e : Entry) (s : State) : Out := s.ventry 0x10A e fun s => s.iRun iSra e

/-- VIMIN (R234). -/
def execVimin (e : Entry) (s : State) : Out := s.ventry 0x10B e fun s => s.iRun iMin e

/-- VIMAX (R234). -/
def execVimax (e : Entry) (s : State) : Out := s.ventry 0x10C e fun s => s.iRun iMax e

/-- VICMP (R168, R234). -/
def execVicmp (e : Entry) (s : State) : Out := s.ventry 0x10D e fun s =>
  s.qput e fun l => condHolds e.fn.toNat 32 (s.va e l).toNat (s.vb e l).toNat

/-- VSEL (R234). -/
def execVsel (e : Entry) (s : State) : Out := s.ventry 0x10E e fun s =>
  s.vput e fun l => if (s.iss.src.regs.getQ s.grp e.fn.toNat).getLsbD l then s.va e l else s.vb e l

/-- VPOPC (R234). -/
def execVpopc (e : Entry) (s : State) : Out := s.ventry 0x10F e fun s => s.vput e fun l => BitVec.ofNat 32 (popc32 (s.va e l).toNat)

/-- VCLZ (R234). -/
def execVclz (e : Entry) (s : State) : Out := s.ventry 0x110 e fun s => s.vput e fun l => BitVec.ofNat 32 (clz32 (s.va e l).toNat)

/-- VBFX (R235). -/
def execVbfx (e : Entry) (s : State) : Out := s.ventry 0x111 e fun s =>
  s.vput e fun l => BitVec.ofNat 32 (bfx32 (e.fn == 1) (s.va e l).toNat (s.vb e l).toNat)

/-- VIABS (R234). -/
def execViabs (e : Entry) (s : State) : Out := s.ventry 0x112 e fun s => s.iRun iAbs e

/-- VSAT (R235). -/
def execVsat (e : Entry) (s : State) : Out := s.ventry 0x113 e fun s => s.iRun (iSat (e.fn == 1)) e

/-- VMOV (R234). -/
def execVmov (e : Entry) (s : State) : Out := s.ventry 0x114 e fun s => s.vput e (s.va e)

/-- VLANE (R234). -/
def execVlane (e : Entry) (s : State) : Out := s.ventry 0x115 e fun s => s.vput e fun l => s.va e l + BitVec.ofNat 32 l * s.vb e l

/-- VGRP (R234). -/
def execVgrp (e : Entry) (s : State) : Out := s.ventry 0x116 e fun s => s.vput e fun l => s.va e l + BitVec.ofNat 32 s.grp * s.vb e l

/-- VQLOG: the sources are mask numbers (R234). -/
def execVqlog (e : Entry) (s : State) : Out := s.ventry 0x117 e fun s =>
  let a := s.iss.src.regs.getQ s.grp e.sa.toNat
  let b := s.iss.src.regs.getQ s.grp e.sb.toNat
  s.qput e fun l => plogValue e.fn (a.getLsbD l) (b.getLsbD l)

/-- VQCNT (R234). -/
def execVqcnt (e : Entry) (s : State) : Out := s.ventry 0x118 e fun s =>
  s.vput e fun _ => BitVec.ofNat 32 (popc32 (s.iss.src.regs.getQ s.grp e.sa.toNat).toNat)

end Sys2Proof.Machine
end

