-- ==== Sys2Proof/Machine/VConv.lean ====
section
/-! DEFINITION. Conversions, packing, microscaling, tile checks and samples (10, R244 to R248; 05, R103, R105, R108, R109). -/
namespace Sys2Proof.Machine

/-! VCVT (R244). -/

/-- The format code of a VCVT's source elements. -/
def cvtSrcFmt (e : Entry) : Nat := match e.imm.toNat / 8 % 4 with | 1 => 3 | 2 => 4 | _ => tyFmt e.ty.toNat

/-- The format code of a VCVT's destination elements. -/
def cvtDstFmt (fn : Nat) : Nat := match fn with | 0 => 0 | 1 => 2 | 2 => 1 | 3 => 8 | 4 => 9 | 5 => 10 | 6 => 11 | 7 => 12 | 8 => 3 | _ => 4

/-- One conversion of a floating value: to a floating format, or to an integer one with its clamp (R105, R107). -/
def cvtFloat (dst : Nat) (mode : Mode) (sat48 : Bool) (v : FVal) : Nat :=
  if isInt dst then
    match v with
    | .nan _ => 0
    | .inf n => toBits (elemBits dst) (clampInt dst (if n then -(2 ^ 40 : Nat) else (2 ^ 40 : Nat)))
    | v => toBits (elemBits dst) (clampInt dst ((v.toInt mode).getD 0))
  else roundF dst mode sat48 v

/-- Convert of one element: bits and NaN count (R244). -/
def cvtElem (src dst : Nat) (nanz sat48 : Bool) (mode : Mode) (b : Nat) : Nat × Nat :=
  if isInt src then
    let i : Int := if src = 8 ∨ src = 10 ∨ src = 11 then signedOf (elemBits src) b else (b : Int)
    (if isInt dst then toBits (elemBits dst) (clampInt dst i) else roundF dst mode sat48 (FVal.ofInt i), 0)
  else
    let x := nanzIn nanz (decodeF src b)
    (cvtFloat dst mode sat48 x.1, x.2)

/-- The generator's values in a lane after each element of a conversion (R108). -/
def lfsrRun (n x : Nat) : List Nat := (List.range n).map fun k => (List.range (k + 1)).foldl (fun x _ => lfsrStep x) x

/-- The source elements that a VCVT converts in a lane, in order. -/
def cvtInputs (e : Entry) (a b : Lane) : List Nat :=
  let ns := vcvtSrcElems e
  let nd := vcvtDstElems e.fn.toNat
  let pos := e.imm.toNat / 2 % 4
  let w := 32 / ns
  if nd ≤ ns then (List.range nd).map fun k => elemAt w a (pos * nd + k)
  else ((List.range ns).map (elemAt w a) ++ (List.range ns).map (elemAt w b)).take (min nd (2 * ns))

/-- A lane's converted elements with their counts; u gives the generator's value of each element where rounding is stochastic. -/
def State.cvtLane (s : State) (e : Entry) (l : Nat) : List (Nat × Nat) :=
  let ins := cvtInputs e (s.va e l) (s.vb e l)
  let f := s.fmtEntry
  let us := lfsrRun ins.length (laneOf (s.iss.src.lfsr.get s.grp []) l).toNat
  (List.range ins.length).map fun k =>
    let mode := if e.imm.getLsbD 0 then Mode.sto (us.getD k 0) else rndMode e
    cvtElem (cvtSrcFmt e) (cvtDstFmt e.fn.toNat) (fmtNanz f) (fmtSat f) mode (ins.getD k 0)

/-- The destination lane: converted elements in their places, the others kept (R244). -/
def cvtPlace (e : Entry) (old : Lane) (l : List Nat) : Lane :=
  let ns := vcvtSrcElems e
  let nd := vcvtDstElems e.fn.toNat
  let w := 32 / nd
  let pos := e.imm.toNat / 2 % 4
  if nd ≤ ns then joinElems w l
  else joinElems w ((List.range nd).map fun k =>
    if pos * l.length ≤ k ∧ k < pos * l.length + l.length then l.getD (k - pos * l.length) 0 else elemAt w old k)

/-- The generators of the group's enabled lanes stepped once per element (R108). Where the bundle writes LFSRSEED too, the entry has drawn
from the generators as they stood at issue, and the seeds stand (DEDUCED, log 42). -/
def State.stepLfsr (s : State) (e : Entry) (n : Nat) : State :=
  let old := s.iss.src.lfsr.get s.grp []
  if s.iss.seeded then s else s.modCore s.iss.core fun k => { k with
    lfsr := k.lfsr.set s.grp (lanes fun l =>
      if s.on e s.grp l then BitVec.ofNat 32 ((lfsrRun n (laneOf old l).toNat).getLastD (laneOf old l).toNat) else laneOf old l) }

/-- VCVT (R244). -/
def execVcvt (e : Entry) (s : State) : Out := s.ventry 0x300 e fun s =>
  let old := s.iss.src.regs.getV s.grp e.dest.toNat
  let s' := (s.vput e fun l => cvtPlace e (laneOf old l) ((s.cvtLane e l).map (·.1))).addNan s.iss.core
    (s.countOn e fun l => (s.cvtLane e l).foldl (fun a p => a + p.2) 0)
  if e.imm.getLsbD 0 then s'.stepLfsr e (cvtInputs e 0 0).length else s'

/-! VPACK and VUNPK (R245). -/

/-- VPACK's value. -/
def packValue (fn : Nat) (a b : Lane) : Lane :=
  match fn with
  | 0 => b.extractLsb' 0 16 ++ a.extractLsb' 0 16
  | 1 => b.extractLsb' 16 16 ++ a.extractLsb' 16 16
  | 2 => b.extractLsb' 16 8 ++ b.extractLsb' 0 8 ++ a.extractLsb' 16 8 ++ a.extractLsb' 0 8
  | _ => b.extractLsb' 24 8 ++ b.extractLsb' 8 8 ++ a.extractLsb' 24 8 ++ a.extractLsb' 8 8

/-- VUNPK's value. -/
def unpackValue (fn : Nat) (a : Lane) : Lane :=
  let w := if fn ≥ 8 then 8 else 16
  let k := if fn ≥ 8 then fn / 2 % 4 else fn / 2 % 2
  let f := elemAt w a k
  if fn % 2 = 1 then BitVec.ofInt 32 (signedOf w f) else BitVec.ofNat 32 f

/-- VPACK (R245). -/
def execVpack (e : Entry) (s : State) : Out := s.ventry 0x301 e fun s => s.vput e fun l => packValue e.fn.toNat (s.va e l) (s.vb e l)

/-- VUNPK (R245). -/
def execVunpk (e : Entry) (s : State) : Out := s.ventry 0x302 e fun s => s.vput e fun l => unpackValue e.fn.toNat (s.va e l)

/-! VMXQ and VMXD (R246). -/

/-- The element bits of fn 0, 1, 2. -/
def mxFn (fn : Nat) : Nat := match fn with | 0 => 8 | 1 => 6 | _ => 4

/-- An input of the block: 0.0 in a disabled lane. -/
def State.mxIn (s : State) (e : Entry) (l : Nat) : FVal × Nat :=
  if s.on e s.grp l then nanzIn (fmtNanz s.fmtEntry) (decodeF 0 (s.va e l).toNat) else (FVal.zero, 0)

/-- OSC 1 fixes the output scale at OSCV (R116). -/
def fmtFixed (f : Quad) : Option Nat := if fmtFld f 42 2 = 1 then some (fmtFld f 44 8) else none

/-- VMXQ (R246). -/
def execVmxq (e : Entry) (s : State) : Out := s.ventry 0x303 e fun s =>
  let ins := (List.range 32).map (s.mxIn e)
  let q := quantizeMx (ins.map (·.1)) (mxFn e.fn.toNat) (fmtFixed s.fmtEntry) (rndMode e)
  (s.vput e fun l => BitVec.ofNat 32 (toBits 8 (q.2.getD l 0) + 256 * q.1)).addNan s.iss.core (ins.foldl (fun a p => a + p.2) 0)

/-- One lane of VMXD: the exact value with the count. -/
def State.mxdLane (s : State) (e : Entry) (l : Nat) : FVal × Nat :=
  let n := mxFn e.fn.toNat
  let a := (s.va e l).toNat
  let x := if fmtFld s.fmtEntry 38 2 = 1 then 0x7F else a / 256 % 256
  nanzIn (fmtNanz s.fmtEntry) (mxValue n (signedOf n a) x)

/-- VMXD (R246). The one product that no FP32 value holds, element -128 of MXINT8 under scale 0xFE, is rounded under RNE to -infinity: R246
names no mode (DESIGN CHOICE, log 43). -/
def execVmxd (e : Entry) (s : State) : Out := s.ventry 0x304 e fun s =>
  (s.vput e fun l => BitVec.ofNat 32 (roundF 0 .rne false (s.mxdLane e l).1)).addNan s.iss.core (s.countOn e fun l => (s.mxdLane e l).2)

/-! VRIMEC and VSAMP (R247, R248). -/

/-- The element format of a tile row by type and option (R241). -/
def rowFmt (ty opt : Nat) : Nat := match opt with | 1 => 3 | 2 => 4 | _ => tyFmt ty

/-- The elements of a row in the C space of a core. -/
def State.rowAt (s : State) (c : Nat) (off fmt : Nat) : List Nat :=
  let w := elemBits fmt / 8
  (List.range 32).map fun j => s.num (cKey c (off + j * w)) w

/-- The damaged byte of a tile or its entry that a check meets first. -/
def State.firstDamage (s : State) (ranges : List (Nat × Nat)) : Option Nat :=
  ranges.findSome? fun r => (List.range r.2).findSome? fun i => if s.poison.contains (granule (r.1 + i)) then some (r.1 + i) else none

/-- VRIMEC (R134, R247; DEDUCED, log 30). -/
def execVrimec (e : Entry) (s : State) : Out := s.ventry 0x305 e fun s =>
  let c := s.iss.core
  let off := (s.tileOff e s.grp).toNat
  let pitch := e.imm.toNat % 65536
  let fmt := rowFmt e.ty.toNat (e.imm.toNat / 65536 % 4)
  let rime := cKey c (s.va e 0).toNat
  let bytes := rowBytesOfType e.ty.toNat
  let ranges := (rime, 256) :: (List.range 32).map fun i => (cKey c (off + i * pitch), bytes)
  if ranges.any fun r => s.bankLocked c (r.1 % 2 ^ 22) || s.bankLocked c ((r.1 + r.2 - 1) % 2 ^ 22) then s.hold
  else match (if s.poison.isEmpty then none else s.firstDamage ranges) with
    | some k => (s.consume c (locCore 1 c s.grp) 2 k).faulted
    | none =>
      let ent := s.rimeAt rime
      let tile := (List.range 32).map fun i => (s.rowAt c (off + i * pitch) fmt).map fun x => rimeValue fmt x 0x7F
      let t := tolT (tolBase 0 s.iss.src.csrs.rimetol) (ceilLog2 (1 + ent.refresh))
      let st := checkTile t tile ent.sums
      let s := ranges.foldl (fun (s : State) r => s.noteRd c r.1 r.2) s
      let bit (n : Nat) (x : LineSt) : Nat := (st.getD n .pass == x).toNat
      (s.vput e fun l => BitVec.ofNat 32 (bit l .bad + 2 * bit (32 + l) .bad + 4 * bit l .unchecked + 8 * bit (32 + l) .unchecked)).addUnchk
        c (unchecked st)

/-- The enabled lanes of the group in issue that do not hold the entry's imm (R248). -/
def State.sampLanes (s : State) (e : Entry) : Lane := maskOf fun l => s.on e s.grp l && s.va e l != e.imm

/-- VSAMP: the lanes' results; a mismatch is counted and fails the phase once the bundle has acted (R248, R403). -/
def execVsamp (e : Entry) (s : State) : Out := s.ventry 0x306 e fun s =>
  let m := s.sampLanes e
  let s' := s.vput e fun l => if m.getLsbD l then 1 else 0
  if m = 0 then s'
  else
    { s'.modCore s.iss.core fun k =>
        { k with csrs := { k.csrs with sampcnt := BitVec.ofNat 64 (min (k.csrs.sampcnt.toNat + 1) (2 ^ 32 - 1)) } } with
      iss := { s'.iss with samp := s'.iss.samp ++ [(s.grp, m)] } }

/-- The phase failure of a bundle whose VSAMP mismatched (R403): one record, one strike. -/
def State.sampFail (s : State) (c : Nat) : State :=
  match s.iss.samp with
  | [] => s
  | (g, m) :: l =>
    let groups := ((g, m) :: l).foldl (fun a (p : Nat × Lane) => a + 2 ^ p.1) 0
    s.strike c (mkRec 0x34 1 (locCore 1 c g) (leBytes 4 m.toNat ++ leBytes 4 0 ++ leBytes 1 1 ++ leBytes 1 g ++ leBytes 2 groups) none
      (some s.iss.org))

end Sys2Proof.Machine
end

