-- ==== Sys2Proof/Machine/VMem.lean ====
section
/-! DEFINITION. Memory table operations (10, R236 to R241; 06, R123; 07, R145). -/
namespace Sys2Proof.Machine

/-- The keys of the four bytes of a place. -/
def State.placeKeys (s : State) (acc : Acc) : Place → List Nat
  | .chip _ key _ => [key, key + 1, key + 2, key + 3]
  | .glob va => (match s.translateN s.iss.src.ctxid va 4 acc with | .ok ts => ts.map Target.key | .error _ => [])
  | .out _ _ => []

/-- The enabled lanes of the group in issue with the keys of their accesses. -/
def State.laneKeys (s : State) (op : Nat) (e : Entry) : List (Nat × List Nat) :=
  (s.lanesOn e).map fun l => (l, s.placeKeys (entryAcc op) (s.placeOf op e s.grp l))

/-- The keys of the lanes' accesses, lane by lane. -/
def keysOf (l : List (Nat × List Nat)) : List Nat := l.flatMap (·.2)

/-- Some byte of the C space among keys lies in a locked bank (R157). -/
def State.anyLocked (s : State) (c : Nat) (ks : List Nat) : Bool := ks.any fun k => keySpace k == 3 && s.bankLocked c (k % 2 ^ 22)

/-- The word that keys hold, as a core's load sees it (R141). -/
def State.loadWord (s : State) (c : Nat) (ks : List Nat) : Lane := BitVec.ofNat 32 (leNat (ks.map (s.loadByte c)))

/-- What holds or ends a load by the groups, of bytes given with their addresses, before it is performed; none where it goes on (R157, R384,
R387). -/
def State.loadStop (s : State) (op : Nat) (l : List (Nat × Word)) : Option State :=
  let c := s.iss.core
  let ks := l.map (·.1)
  if s.behindParked ks then s.waitBehind (op % 256) l
  else if s.anyLocked c ks then some s.hold
  else (s.loadHurt c ks).map fun k => (s.consume c (locCore 1 c s.grp) 2 k).faulted

/-- A load's marks: logical times and exposure. -/
def State.noteLoads (s : State) (ks : List Nat) : State :=
  ks.foldl (fun s k => (s.loadTime s.iss.core k).noteRd s.iss.core k 1) s

/-- The bytes of the lanes' accesses with their addresses. -/
def State.laneBytes (s : State) (op : Nat) (e : Entry) : List (Nat × Word) :=
  (s.laneKeys op e).flatMap fun p => spanned (match s.placeOf op e s.grp p.1 with | .glob a => a | _ => 0) p.2

/-- VLD and VLDX: the enabled lanes' words (R237); those of an overflow area in another module are asked for first (R82). -/
def State.vload (s : State) (op : Nat) (e : Entry) : State :=
  let c := s.iss.core
  let l := keysOf (s.laneKeys op e)
  if s.farNeeds (coreFar c) l ≠ [] then (s.askFar s.iss.org (coreFar c) l).hold
  else match s.loadStop op (s.laneBytes op e) with
  | some t => t
  | none =>
    let s := s.reform l
    (s.noteLoads l).vput e fun n => s.loadWord c (s.placeKeys (entryAcc op) (s.placeOf op e s.grp n))

/-- VLD (R237). -/
def execVld (e : Entry) (s : State) : Out := s.ventry 0x200 e fun s => s.vload 0x200 e

/-- VLDX (R237). -/
def execVldx (e : Entry) (s : State) : Out := s.ventry 0x202 e fun s => s.vload 0x202 e

/-! Results on their way (R239, R240). -/

/-- The pending result of an entry, with the values that are there at once. -/
def State.pendOf (s : State) (e : Entry) (vals : Tbl Lane) : VPend :=
  ⟨s.grp, e.dest.toNat, if e.capv = 1 then some e.latch.toNat else none, quiet e, maskOf (s.on e s.grp), vals, []⟩

/-- A pending result added to the issuing core. -/
def State.addPend (s : State) (p : VPend) : State := s.modCore s.iss.core fun k => { k with vpend := k.vpend ++ [p] }

/-- Bytes of lanes that are there, by lane × 4 + byte; a lane with its four bytes is whole (R145). -/
def VPend.fill (p : VPend) (l : List (Nat × Byte)) : VPend :=
  let part := l.foldl (fun (t : Tbl Byte) x => t.set x.1 x.2) p.part
  let byte (n : Nat) : Option Byte := part.find n
  { p with
    part := part
    vals := (List.range 32).foldl (fun (t : Tbl Lane) l =>
      match byte (4 * l), byte (4 * l + 1), byte (4 * l + 2), byte (4 * l + 3) with
      | some a, some b, some c, some d => t.set l (BitVec.ofNat 32 (leNat [a, b, c, d]))
      | _, _, _, _ => t) p.vals }

/-- Bytes arrive for the pending result of a group. -/
def Core.fillLanes (k : Core) (g : Nat) (l : List (Nat × Byte)) : Core :=
  { k with vpend := k.vpend.map fun p => if p.group = g then p.fill l else p }

/-- The bytes of the lanes of a VLDG: address, lane × 4 + byte, key. -/
def State.gatherBytes (s : State) (e : Entry) (l : List (Nat × List Nat)) : List (Nat × Nat × Nat) :=
  l.flatMap fun p => p.2.zipIdx.map fun k => ((s.globalAt e (s.va e p.1)).toNat + k.2, 4 * p.1 + k.2, k.1)

/-- The bytes of one 16-byte piece asked of another module as one load, from the lowest to the highest (R145). -/
def State.askPiece (s : State) (l : List (Nat × Nat × Nat)) : State :=
  let lo := (l.map (·.1)).foldl min ((l.headD (0, 0, 0)).1)
  let hi := (l.map (·.1)).foldl max lo
  let va := BitVec.ofNat 64 lo
  match s.translate s.iss.src.ctxid va .read with
  | .ok t => s.remoteLoad t va (hi + 1 - lo) [] 5 (some (s.grp, l.map fun x => (x.1 - lo, x.2.1))) s.iss.org
      ((l.flatMap fun x => (s.ownBytes s.iss.core [x.2.2]).map fun b => (x.1 - lo, b.2)))
  | .error _ => s

/-- VLDG: bytes in class 4 are asked of their module, piece by piece in the order of their lowest lanes, the others read at once; the result
lands when every lane is there (R145, R237). -/
def execVldg (e : Entry) (s : State) : Out := s.ventry 0x204 e fun s =>
  let c := s.iss.core
  let g := s.grp
  let l := s.gatherBytes e (s.laneKeys 0x204 e)
  let far := l.filter fun p => keySpace p.2.2 == 8
  let near := l.filter fun p => keySpace p.2.2 != 8
  match s.loadStop 0x204 (near.map fun p => (p.2.2, BitVec.ofNat 64 p.1)) with
  | some t => t
  | none =>
    let s := s.reform (near.map (·.2.2))
    let vals := near.map fun p => (p.2.1, s.loadByte c p.2.2)
    let s := (s.noteLoads (near.map (·.2.2))).addPend (s.pendOf e [])
    let s := near.foldl (fun (s : State) p => match s.translate s.iss.src.ctxid (BitVec.ofNat 64 p.1) .read with
      | .ok t => s.cacheLines c t [p.2.2]
      | .error _ => s) s
    let s := s.modCore c fun k => k.fillLanes g vals
    ((far.map fun p => p.1 / 16).eraseDups).foldl (fun (s : State) n => s.askPiece (far.filter fun p => p.1 / 16 == n)) s

/-- A vector atomic: one request for each enabled lane, in lane order (R240). -/
def State.vatomic (s : State) (op : Nat) (e : Entry) : State :=
  let c := s.iss.core
  let s := s.addPend (s.pendOf e [])
  (s.lanesOn e).foldl (fun (s : State) l =>
    let va := s.globalAt e (s.va e l)
    match s.translate s.iss.src.ctxid va .atomic with
    | .error _ => s
    | .ok t =>
      let r : Req := ⟨vecOp op e, va, t, 4, (s.vb e l).toNat, (s.vc e l).toNat, 0, .lane c s.grp l, s.iss.org, true⟩
      if t.cls = 3 then { s with hostOut := s.hostOut ++ [HostOp.atomic r] }.sealPhase s.iss.org
      else { s with reqs := s.reqs ++ [r] }) s

/-- VAMO (R240). -/
def execVamo (e : Entry) (s : State) : Out := s.ventry 0x206 e fun s => s.vatomic 0x206 e

/-- VCAS (R240). -/
def execVcas (e : Entry) (s : State) : Out := s.ventry 0x207 e fun s => s.vatomic 0x207 e

/-- Every lane of a pending result is there. -/
def VPend.done (p : VPend) : Bool := (List.range 32).all fun l => !p.mask.getLsbD l || (p.vals.find l).isSome

/-- A pending result lands (R54, R56, R229). -/
def Core.land (k : Core) (p : VPend) : Core :=
  let v (old : List Lane) : List Lane := lanes fun l => if p.mask.getLsbD l then p.vals.get l 0 else laneOf old l
  let k := if p.nowb then k else { k with regs := k.regs.setV p.group p.dest (v (k.regs.getV p.group p.dest)) }
  match p.latch with
  | none => k
  | some n => { k with latches := k.latches.set (p.group * 8 + n) ⟨true, v (k.latch p.group n).lanes⟩ }

/-- TABLE_ACCESS_COMPLETE: the results of a bundle's global loads and atomics land in every group at once (R54, R240). -/
def execTableAccessComplete (core : Nat) (s : State) : Out :=
  let l := (s.core core).vpend
  .next (if !l.isEmpty && l.all VPend.done then
    s.modCore core fun k => { l.foldl Core.land k with vpend := [] } else s)

/-! Stores. -/

/-- One lane's store to an on-chip space or to the overflow area: exposure noted, a write to the K space seals the phase (R369). -/
def State.storeLane (s : State) (p : Place) (v : Lane) : State :=
  let c := s.iss.core
  let bs := leBytes 4 v.toNat
  match p with
  | .chip sp key _ => let s := (s.noteWr c key 4).put key bs; if sp = .k then s.irrevocable c else s
  | .glob va =>
    (match s.translate s.iss.src.ctxid va .write with
     | .ok t => if t.cls = 4 then (s.noteWr c t.key 4).remoteStore t va bs s.iss.org else (s.noteWr c t.key 4).putTarget s.iss.src.ctxid va t bs
     | .error _ => s)
  | .out _ _ => s

/-- VST and VSTX (R237, R239). -/
def State.vstore (s : State) (op : Nat) (e : Entry) (data : Nat → Lane) : State :=
  let c := s.iss.core
  let ks := keysOf (s.laneKeys op e)
  if s.copyOutReads c ks || s.anyLocked c ks then s.hold
  else (s.lanesOn e).foldl (fun (s : State) l => s.storeLane (s.placeOf op e s.grp l) (data l)) s

/-- VST (R237). -/
def execVst (e : Entry) (s : State) : Out := s.ventry 0x201 e fun s => s.vstore 0x201 e (s.va e)

/-- VSTX: A is the data, B the index (R237). -/
def execVstx (e : Entry) (s : State) : Out := s.ventry 0x203 e fun s => s.vstore 0x203 e (s.va e)

/-- The bytes that a VSTG writes, by address, lane after lane. -/
def State.scatterBytes (s : State) (e : Entry) : List (Nat × Byte) :=
  (s.lanesOn e).flatMap fun l =>
    let a := (s.globalAt e (s.va e l)).toNat
    (leBytes 4 (s.vb e l).toNat).zipIdx.map fun p => (a + p.2, p.1)

/-- The runs of neighbouring bytes of one 16-byte piece, the last write of a byte standing. -/
def pieceRuns (l : List (Nat × Byte)) (g : Nat) : List (Nat × List Byte) :=
  let at_ (i : Nat) : Option Byte := l.foldl (fun a p => if p.1 = g * 16 + i then some p.2 else a) none
  ((List.range 16).foldl (fun (acc : List (Nat × List Byte)) i =>
    match at_ i with
    | none => acc
    | some b =>
      match acc with
      | (a, bs) :: rest => if a + bs.length = g * 16 + i then (a, bs ++ [b]) :: rest else (g * 16 + i, [b]) :: acc
      | [] => [(g * 16 + i, [b])]) []).reverse

/-- The gate entries of one piece: its runs, joined to the first (R145, R239). -/
def State.pieceEntries (s : State) (l : List (Nat × Byte)) (g : Nat) : List GateEnt :=
  (pieceRuns l g).zipIdx.filterMap fun p => (s.gateEntry p.1).map fun x => { x with joined := decide (p.2 ≠ 0) }

/-- VSTG: aligned 16-byte pieces in the order of their lowest lanes enter the store gate (R145, R239). -/
def execVstg (e : Entry) (s : State) : Out := s.ventry 0x205 e fun s =>
  let c := s.iss.core
  let k := s.core c
  let l := s.scatterBytes e
  let pieces := (l.map fun p => p.1 / 16).eraseDups
  if s.copyOutReads c (keysOf (s.laneKeys 0x205 e)) then s.hold
  else if pieces.length ≤ k.gateFree then
    s.modCore c fun k => { k with gate := k.gate ++ pieces.flatMap (s.pieceEntries l) }
  else if !k.releasing.isEmpty then s.hold
  else
    (s.strike c (mkRec 0x15 1 (locCore 1 c s.grp) (leBytes 2 pieces.length ++ leBytes 2 k.gateFree)
      (l.head?.map fun p => BitVec.ofNat 64 p.1) (some s.iss.org))).faulted

/-! VSTT and the formation buffers (R123, R241). -/

/-- A row of a tile handed to the rime unit of its bank. -/
def State.feedRow (s : State) (c : Nat) (row off entry fmt : Nat) (vals : List Nat) : State :=
  let bank := bankOf off
  let k := s.core c
  match k.forming.find? fun b => b.bank == bank && b.entry == entry with
  | some b =>
    let b' := { b with rows := b.rows.set row vals, fmt := fmt }
    let same (x : FormBuf) : Bool := x.bank == bank && x.entry == entry
    if b'.rows.length = 32 then
      (s.closeForm c b').modCore c fun k => { k with forming := k.forming.filter fun x => !same x }
    else s.modCore c fun k => { k with forming := k.forming.map fun x => if same x then b' else x }
  | none =>
    let mine := k.forming.filter fun b => b.bank == bank
    let s := match mine with
      | old :: _ => if mine.length ≥ 4 then (s.closeForm c old).modCore c fun k => { k with forming := k.forming.filter fun x => x != old } else s
      | [] => s
    s.modCore c fun k => { k with forming := k.forming ++ [⟨bank, entry, fmt, [(row, vals)], row, off⟩] }

/-- VSTT (R241). -/
def execVstt (e : Entry) (s : State) : Out := s.ventry 0x208 e fun s =>
  let c := s.iss.core
  let off := (s.tileOff e s.grp).toNat
  let n := rowLanes e.ty.toNat
  let fmt := rowFmt e.ty.toNat (e.imm.toNat % 4)
  let ks := (List.range (4 * n)).map fun i => cKey c (off + i)
  let rime := (s.vc e 0).toNat
  if s.copyOutReads c ks || s.anyLocked c ks || s.anyLocked c [cKey c rime] then s.hold
  else
    let on := (s.lanesOn e).filter (· < n)
    let s := on.foldl (fun (s : State) l => s.storeLane (.chip .c (cKey c (off + 4 * l)) (off + 4 * l : Nat)) (s.va e l)) s
    s.feedRow c ((s.vb e 0).toNat % 32) off rime fmt (s.rowAt c off fmt)

end Sys2Proof.Machine
end

