-- ==== Sys2Proof/Machine/VMove.lean ====
section
/-! DEFINITION. Movement, reductions and scans (10, R242, R243; 03, R63; 05, R112). -/
namespace Sys2Proof.Machine

/-- VNBR: the same lane of a register of the group n places on (R63, R242). -/
def execVnbr (e : Entry) (s : State) : Out := s.ventry 0x280 e fun s =>
  s.vput e fun l => laneOf (s.iss.src.regs.getV ((s.grp + e.fn.toNat) % 16) e.sa.toNat) l

/-- VPERM (R242). -/
def execVperm (e : Entry) (s : State) : Out := s.ventry 0x281 e fun s =>
  s.vput e fun l => s.va e ((s.vb e l).toNat % 32)

/-- VBCL (R242). -/
def execVbcl (e : Entry) (s : State) : Out := s.ventry 0x282 e fun s => s.vput e fun _ => s.va e ((s.vb e 0).toNat % 32)

/-- VGBC: the same lane of a register of a named group (R242). -/
def execVgbc (e : Entry) (s : State) : Out := s.ventry 0x287 e fun s =>
  s.vput e fun l => laneOf (s.iss.src.regs.getV e.fn.toNat e.sa.toNat) l

/-! Reductions (R112, R243). -/

/-- Neighbours combined, one level of the tree. -/
def pairUp (f : FVal → FVal → FVal) : List FVal → List FVal
  | a :: b :: l => f a b :: pairUp f l
  | l => l

/-- ReduceSum (R112): five levels. -/
def reduceTree (f : FVal → FVal → FVal) (l : List FVal) : FVal :=
  ((List.range 5).foldl (fun t _ => pairUp f t) l).headD FVal.zero

/-- The running prefixes of a list. -/
def prefixes {α : Type} (f : α → α → α) (l : List α) : List α :=
  match l with
  | [] => []
  | a :: l => (l.foldl (fun (p : List α × α) x => (f p.2 x :: p.1, f p.2 x)) ([a], a)).1.reverse

/-- A sum rounded at each step: in FP32, by the entry's mode for f32 and by RNE for packed types (R243). -/
def stepSum (ty : Nat) (mode : Mode) (a b : FVal) : FVal :=
  let m := if ty = 0 then mode else .rne
  decodeF 0 (roundF 0 m false (a.add m b))

/-- A floating input of a lane at an element position, under NANZ; the identity where the lane is disabled (R112). -/
def State.redIn (s : State) (e : Entry) (ident : FVal) (k l : Nat) : FVal :=
  let ty := e.ty.toNat
  if s.on e s.grp l then (nanzIn (fmtNanz s.fmtEntry) (decodeF (tyFmt ty) (elemAt (tyWidth ty) (s.va e l) k))).1 else ident

/-- The 32 inputs of a position. -/
def State.redIns (s : State) (e : Entry) (ident : FVal) (k : Nat) : List FVal := (List.range 32).map (s.redIn e ident k)

/-- NaN inputs counted under NANZ. -/
def State.redCount (s : State) (e : Entry) : Nat :=
  let ty := e.ty.toNat
  s.countOn e fun l => (elemsOf ty (s.va e l)).foldl (fun a b => a + (nanzIn (fmtNanz s.fmtEntry) (decodeF (tyFmt ty) b)).2) 0

/-- An integer input of a lane at a position; the identity where disabled. -/
def State.redInt (s : State) (e : Entry) (ident : Int) (k l : Nat) : Int :=
  let ty := e.ty.toNat
  if s.on e s.grp l then tyInt ty (elemAt (tyWidth ty) (s.va e l) k) else ident

/-- The identities of integer extremes. -/
def tyLow (ty : Nat) : Int := if tySigned ty then -(2 ^ (tyWidth ty - 1) : Nat) else 0
/-- See `tyLow`. -/
def tyHigh (ty : Nat) : Int := if tySigned ty then (2 ^ (tyWidth ty - 1) - 1 : Nat) else (2 ^ tyWidth ty - 1 : Nat)

/-- A reduction written to every enabled lane: its result at each element position. -/
def State.redPut (s : State) (e : Entry) (f : Nat → Nat) : State :=
  let ty := e.ty.toNat
  let v := joinElems (tyWidth ty) ((List.range (tyCount ty)).map f)
  s.vput e fun _ => v

/-- The rounding of a float result to the type's format. -/
def redRound (e : Entry) (v : FVal) : Nat := roundF (tyFmt e.ty.toNat) (rndMode e) false v

/-- VRSUM (R243). -/
def execVrsum (e : Entry) (s : State) : Out := s.ventry 0x283 e fun s =>
  let ty := e.ty.toNat
  if ty ≤ 2 then
    (s.redPut e fun k => redRound e (reduceTree (stepSum ty (rndMode e)) (s.redIns e (.fin true 0 0) k))).addNan s.iss.core (s.redCount e)
  else s.redPut e fun k => toBits (tyWidth ty) (((List.range 32).map (s.redInt e 0 k)).foldl (· + ·) 0)

/-- VRMAX (R243). -/
def execVrmax (e : Entry) (s : State) : Out := s.ventry 0x284 e fun s =>
  let ty := e.ty.toNat
  if ty ≤ 2 then
    (s.redPut e fun k => redRound e ((s.redIns e (.inf true) k).foldl FVal.max2 (.inf true))).addNan s.iss.core (s.redCount e)
  else s.redPut e fun k => toBits (tyWidth ty) (((List.range 32).map (s.redInt e (tyLow ty) k)).foldl max (tyLow ty))

/-- VRMIN (R243). -/
def execVrmin (e : Entry) (s : State) : Out := s.ventry 0x285 e fun s =>
  let ty := e.ty.toNat
  if ty ≤ 2 then
    (s.redPut e fun k => redRound e ((s.redIns e (.inf false) k).foldl FVal.min2 (.inf false))).addNan s.iss.core (s.redCount e)
  else s.redPut e fun k => toBits (tyWidth ty) (((List.range 32).map (s.redInt e (tyHigh ty) k)).foldl min (tyHigh ty))

/-- VSCAN: inclusive prefixes (R112, R243). -/
def execVscan (e : Entry) (s : State) : Out := s.ventry 0x286 e fun s =>
  let ty := e.ty.toNat
  let w := tyWidth ty
  let cols := (List.range (tyCount ty)).map fun k =>
    if ty ≤ 2 then (prefixes (stepSum ty (rndMode e)) (s.redIns e (.fin true 0 0) k)).map (redRound e)
    else (prefixes (· + ·) ((List.range 32).map (s.redInt e 0 k))).map (toBits w)
  let s' := s.vput e fun l => joinElems w (cols.map fun c => c.getD l 0)
  if ty ≤ 2 then s'.addNan s.iss.core (s.redCount e) else s'

end Sys2Proof.Machine
end

