-- ==== Sys2Proof/Machine/Vix.lean ====
section
/-! DEFINITION. VIX: the entries that the groups hold at an index, their faults and their order (03, R53, R64; 10, R227, R239;
22, R407, R415). -/
namespace Sys2Proof.Machine

/-- A table operation of the group in issue. -/
def execEntry (i : Instr) (s : State) : Out :=
  match i with
  | .vnop e => execVnop e s
  | .vadd e => execVadd e s
  | .vsub e => execVsub e s
  | .vmul e => execVmul e s
  | .vfma e => execVfma e s
  | .vfms e => execVfms e s
  | .vfnma e => execVfnma e s
  | .vmin e => execVmin e s
  | .vmax e => execVmax e s
  | .vabs e => execVabs e s
  | .vneg e => execVneg e s
  | .vcpys e => execVcpys e s
  | .vrcp e => execVrcp e s
  | .vrsq e => execVrsq e s
  | .vsqrt e => execVsqrt e s
  | .vdiv e => execVdiv e s
  | .vexp2 e => execVexp2 e s
  | .vlog2 e => execVlog2 e s
  | .vtanh e => execVtanh e s
  | .vsigm e => execVsigm e s
  | .vcmpf e => execVcmpf e s
  | .vclass e => execVclass e s
  | .vrndi e => execVrndi e s
  | .vscale e => execVscale e s
  | .vdot2 e => execVdot2 e s
  | .viadd e => execViadd e s
  | .visub e => execVisub e s
  | .vimul e => execVimul e s
  | .vimulh e => execVimulh e s
  | .vimad e => execVimad e s
  | .vand e => execVand e s
  | .vor e => execVor e s
  | .vxor e => execVxor e s
  | .vshl e => execVshl e s
  | .vshr e => execVshr e s
  | .vsra e => execVsra e s
  | .vimin e => execVimin e s
  | .vimax e => execVimax e s
  | .vicmp e => execVicmp e s
  | .vsel e => execVsel e s
  | .vpopc e => execVpopc e s
  | .vclz e => execVclz e s
  | .vbfx e => execVbfx e s
  | .viabs e => execViabs e s
  | .vsat e => execVsat e s
  | .vmov e => execVmov e s
  | .vlane e => execVlane e s
  | .vgrp e => execVgrp e s
  | .vqlog e => execVqlog e s
  | .vqcnt e => execVqcnt e s
  | .vld e => execVld e s
  | .vst e => execVst e s
  | .vldx e => execVldx e s
  | .vstx e => execVstx e s
  | .vldg e => execVldg e s
  | .vstg e => execVstg e s
  | .vamo e => execVamo e s
  | .vcas e => execVcas e s
  | .vstt e => execVstt e s
  | .vnbr e => execVnbr e s
  | .vperm e => execVperm e s
  | .vbcl e => execVbcl e s
  | .vrsum e => execVrsum e s
  | .vrmax e => execVrmax e s
  | .vrmin e => execVrmin e s
  | .vscan e => execVscan e s
  | .vgbc e => execVgbc e s
  | .vcvt e => execVcvt e s
  | .vpack e => execVpack e s
  | .vunpk e => execVunpk e s
  | .vmxq e => execVmxq e s
  | .vmxd e => execVmxd e s
  | .vrimec e => execVrimec e s
  | .vsamp e => execVsamp e s
  | _ => .next s

/-- The entry of a group at the index in issue, from its active bank (R53). -/
def State.entryWord (s : State) (g : Nat) : Quad :=
  (s.iss.src.banks.getD s.iss.src.active Bank.clear).entries.get (g * 1024 + s.iss.index) 0

/-- The operations of the 16 groups at the index in issue. -/
def State.entries (s : State) : List (Nat × Instr) :=
  (List.range 16).filterMap fun g => (decodeEntry (s.entryWord g)).map fun i => (g, i)

/-- The operation stores: its natural class is 7 (R55). -/
def isStore (i : Instr) : Bool := match tableOp i with | some (op, _) => destKind op == .none && op != 0 | none => false

/-- Loads and atomics come before stores; within each, increasing group (R64, R239). -/
def entryOrder (l : List (Nat × Instr)) : List (Nat × Instr) := l.filter (fun p => !isStore p.2) ++ l.filter fun p => isStore p.2

/-- The operation accesses memory before the phase's freeze: every one of a memory operation but VSTG, whose stores are gated (R140). -/
def touchesNow (i : Instr) : Bool :=
  match tableOp i with
  | some (op, _) => (decide (0x200 ≤ op ∧ op ≤ 0x208) && op != 0x205) || op == 0x305
  | none => false

/-- The operation waits for an atomic, or a half of an access, that its bundle performs before it (R140, R144, R239). -/
def State.entryWaits (s : State) (i : Instr) : Bool :=
  let c := s.iss.core
  touchesNow i && (s.atomicOut c || s.hostAtomicOut c || s.lateOut c)

/-- The entries act one after another, those that wait for an earlier access of the bundle behind it; a hold or a fault ends the bundle. -/
def runEntries (l : List (Nat × Instr)) (s : State) : Out :=
  match l with
  | [] => .next s
  | (g, i) :: l =>
    if s.entryWaits i then runEntries l (s.defer (.entry g i))
    else match execEntry i { s with iss := { s.iss with group := g } } with
    | .next t => if t.iss.st = .held ∨ t.iss.st = .faulted then .next t else runEntries l t
    | o => o

/-- The issue context of the groups (R53, R118, R227); the format entry is read at issue, which its phase notes (R369). -/
def State.broadcast (s : State) (index : BitVec 10) (bs : SReg) (fsel : BitVec 2) (foff : BitVec 4) (bi : BitVec 16) : State :=
  { s with iss := { s.iss with index := index.toNat, bs := s.rd bs, bi := bi, fidx := s.fmtIndex fsel foff.toNat } }.modPhase s.iss.core
    fun p => p.noteReads [fmtGranule (s.fmtIndex fsel foff.toNat)]

/-- The entries of a bundle examined together, then performed (R53, R407). -/
def State.runVix (s : State) : Out :=
  let l := s.entries
  match s.entriesFault (l.filterMap fun p => (tableOp p.2).map fun x => (p.1, x.1, x.2)) with
  | some f => .next (s.takeFault f)
  | none =>
    match runEntries (entryOrder l) s with
    | .next t => .next (if t.iss.st = .held then s.hold else t)
    | o => o

/-- VIX (R53, R227). -/
def execVix (g : Guard) (index : BitVec 10) (bs : SReg) (fsel : BitVec 2) (foff : BitVec 4) (bi : BitVec 16) (s : State) : Out :=
  s.under g (s.broadcast index bs fsel foff bi).runVix

end Sys2Proof.Machine
end

