-- ==== Sys2Proof/Machine/Records.lean ====
section
/-! DEFINITION. What the commands of the M and X issue slots share: attempts that may end in a fault or a hold, refusals, the shape
record cache, index lists, formats, and the order of a path (04, R87, R94, R95; 05, R113, R116; 07, R147, R148; 22, R410, R416,
R417). -/
namespace Sys2Proof.Machine

/-- A computation that may end early in a state: faulted, or held. -/
abbrev Attempt (α : Type) := Except State α

/-- The outcome of an attempt to issue a command. -/
def settle (x : Attempt State) : Out := .next (match x with | .ok t => t | .error t => t)

/-- A condition of issue: where it fails, the attempt ends in the state given. -/
def need (b : Bool) (t : State) : Attempt Unit := if b then .ok () else .error t

/-- A refused command (R408, code 0x0005). -/
def refused (l : Loc) (slot op point reason : Nat) (a : Option Word) : FaultInfo :=
  ⟨5, l, leBytes 1 slot ++ leBytes 1 op ++ leBytes 1 point ++ leBytes 1 reason, a⟩

/-- The locator of a fault decided at the issue of a C, M or X issue slot (R356). -/
def State.seqLoc (s : State) : Loc := locCore 0 s.iss.core 0xFF

/-- A command refused at issue. -/
def State.refuse (s : State) (slot op reason : Nat) (a : Option Word) : State := s.takeFault (refused s.seqLoc slot op 0 reason a)

/-- A limit on a register value that a command breaks (R410). -/
def State.valueFault (s : State) (slot : Nat) (bits : Word) : State :=
  s.takeFault ⟨1, s.seqLoc, leBytes 1 slot ++ leBytes 1 4 ++ leBytes 2 0xFFFF ++ leBytes 8 bits.toNat, none⟩

/-- An out-of-map access found at issue (R379): kind, path, step; then reason, element and address. -/
def State.outOfMap (s : State) (kind path step elem : Nat) (e : Nat × Word) : State :=
  s.takeFault (mapFault s.seqLoc kind e.1 path step elem e.2)

/-! The shape-record cache (R94). -/

/-- Lines that the cache holds. -/
def srLines : Nat := 64

/-- The 192 bytes of the record that a value names, from the cache or through the core path (R94, R95). -/
def State.fetchRec (s : State) (slot op : Nat) (v : Word) : Attempt (List Byte × State) :=
  let c := s.iss.core
  match recordPlace v with
  | none => .error (s.refuse slot op 2 (some v))
  | some (sp, a) =>
    if a.toNat % 64 ≠ 0 then .error (s.refuse slot op 2 (some v))
    else match (s.core c).srcache.find? fun p => p.1 == v with
      | some p => .ok (p.2, s.modCore c fun k => { k with srcache := p :: k.srcache.filter fun q => q.1 != v })
      | none =>
        match s.spanKeys c s.iss.src.ctxid sp a 192 .read with
        | .error e => .error (s.outOfMap 0 0 0 0 e)
        | .ok ks =>
          if s.behindParked ks then .error ((s.waitBehind op (spanned a ks)).getD s.hold)
          else if s.anyLocked c ks then .error s.hold
          else if s.farNeeds (coreFar c) ks ≠ [] then .error (s.askFar s.iss.org (coreFar c) ks).hold
          else match s.loadHurt c ks with
            | some k => .error (s.consume c s.seqLoc 1 k).faulted
            | none =>
              let s := s.reform ks
              let bs := ks.map (s.loadByte c)
              let s := ks.foldl (fun s k => (s.loadTime c k).noteRd c k 1) s
              .ok (bs, s.modCore c fun k => { k with srcache := ((v, bs) :: k.srcache).take srLines })

/-- A record that a command names, fetched and valid (R94, R95). -/
def State.goodRec (s : State) (slot op : Nat) (v : Word) : Attempt (List Byte × State) := do
  let (b, s) ← s.fetchRec slot op v
  need (!shapeBad b) (s.refuse slot op 2 (some v))
  .ok (b, s)

/-- A record of RIME 2 in the G space has its BASE in an RC region (R93). -/
def State.carriedOk (s : State) (ctx : Nat) (r : Shape) : Bool :=
  r.rime != 2 || r.space != 0 || (s.rcRegion ctx r.base).isSome

/-! Formats of the array (R113, R116). -/

/-- The GANG code of a pair of formats that the array multiplies. -/
def pairGang (a b : Nat) : Option Nat :=
  if a = 2 ∧ b = 2 then some 3
  else if (a = 3 ∨ a = 4) ∧ (b = 3 ∨ b = 4) then some 1
  else if a = 7 ∧ b = 7 then some 1
  else if (a = 5 ∧ b = 5) ∨ (a = 6 ∧ b = 6) then some 3
  else if (a = 6 ∧ b = 7) ∨ (a = 7 ∧ b = 6) then some 2
  else if a = 1 ∧ b = 1 then some 4
  else none

/-- AFMT of a format entry. -/
def fmtA (f : Quad) : Nat := fmtFld f 0 8
/-- BFMT of a format entry. -/
def fmtB (f : Quad) : Nat := fmtFld f 8 8
/-- GANG of a format entry. -/
def fmtGang (f : Quad) : Nat := fmtFld f 24 3
/-- TOLB of a format entry. -/
def fmtTolb (f : Quad) : Nat := fmtFld f 32 5
/-- DRND of a format entry. -/
def fmtDrnd (f : Quad) : Mode := Mode.of (fmtFld f 27 2)

/-- A format entry is valid (R116). -/
def fmtValid (f : Quad) : Bool :=
  fmtFld f 52 76 == 0 && fmtFld f 37 1 == 0 && fmtFld f 31 1 == 0
    && decide (fmtFld f 42 2 ≤ 1 ∧ fmtFld f 40 2 ≤ 1 ∧ fmtFld f 38 2 ≤ 1 ∧ fmtGang f ≤ 4 ∧ fmtOut f ≤ 7 ∧ fmtA f ≤ 0x0C ∧ fmtB f ≤ 0x0C)
    && (fmtGang f == 0 || pairGang (fmtA f) (fmtB f) == some (fmtGang f))

/-- The cluster of a core runs pairs of every GANG (R113). -/
def State.wideAt (s : State) (c : Nat) : Bool := (s.die (dieOf c)).wide.getLsbD (clusterOf c % 16)

/-- The format entry suits a command (R116, R416): valid, and for a plane command an array pair that the cluster runs. -/
def State.fmtSuits (s : State) (c : Nat) (f : Quad) (plane : Bool) : Bool :=
  fmtValid f && (!plane || (fmtGang f != 0 && (fmtGang f == 1 || s.wideAt c)))

/-! The order of a path (R148). -/

/-- Numbers that stand for the bytes of a block in another module, so that two commands of one path that write the same ones are told apart
from those that do not (R148): by module, space and place. -/
def XCmd.farKeys (x : XCmd) : List Nat :=
  let d := x.dst
  let t := coreidCore x.e1
  let place := match d.r.space with | 1 => t | 2 => t / 4 | 3 => t / 64 | _ => 0
  let key (a : Int) (n : Nat) : List Nat := (List.range n).map fun i => spaceKey (16 + coreidModule x.e1 * 4 + d.r.space) (place * 2 ^ 64 + a.toNat + i)
  let elems := d.cells.flatMap fun p =>
    let (ok, xs) := d.at p.1 p.2
    let (a, bit) := d.r.addr xs
    if ok then key a (d.r.span bit) ++ (if isMx d.r.fmt then key (d.r.scaleAddr xs) 1 else []) else []
  elems ++ if d.r.rime = 0 then [] else (d.tiles.filter fun p => d.tileIn p.1 p.2).flatMap fun p => key (d.rimeAddr p.1 p.2) 256

/-- The keys that an X command writes, those in another module by numbers of their own. -/
def State.xWrites (s : State) (x : XCmd) : List Nat :=
  match x.instr with
  | .xput _ _ | .xcoll _ _ _ _ => if x.moves s.hub.module then s.blockKeys x.dst .write else x.farKeys
  | .xrime _ mode => if mode = 1 then [] else s.rimeKeys x.dst .write
  | _ => if x.moves s.hub.module then s.blockKeys x.dst .write else []

/-- The bytes of memory that an X command reads as data: elements, scales, format entries. -/
def State.xData (s : State) (x : XCmd) : List Nat :=
  match x.instr with
  | .xfill _ => []
  | .xrime _ _ => s.dataKeys x.dst .read
  | .xfmt _ _ n => (s.spanKeys (x.org.core.getD 0) x.org.ctx .g x.sr (16 * (n.toNat + 1)) .read).toOption.getD []
  | .xcoll _ _ _ op => s.dataKeys x.src .read ++ if op ≠ 0 ∧ x.moves s.hub.module then s.dataKeys x.dst .read else []
  | _ => s.dataKeys x.src .read

/-- The keys that an X command reads: data, rime entries, and the bytes of packed elements that it writes in part. -/
def State.xReads (s : State) (x : XCmd) : List Nat :=
  let part := if x.dst.r.packed && x.moves s.hub.module then s.dataKeys x.dst .write else []
  s.xData x ++ part ++ match x.instr with
  | .xfill _ | .xfmt _ _ _ => []
  | .xrime _ mode => if mode = 1 then s.rimeKeys x.dst .read else []
  | .xcoll _ _ _ op => s.rimeKeys x.src.asRead .read ++ if op ≠ 0 ∧ x.moves s.hub.module then s.rimeKeys x.dst.asRead .read else []
  | _ => s.rimeKeys x.src.asRead .read

/-- The keys of ranges of a core's C space. -/
def cRangeKeys (c : Nat) (l : List (Nat × Nat)) : List Nat := l.flatMap fun r => (List.range r.2).map fun i => cKey c (r.1 + i)

/-- A copy-out that a freeze has committed has still to read one of the keys for a command issued after it: it reads the bytes as they stood at
the freeze (R276; DEDUCED, log 38). -/
def State.readsAhead (s : State) (c ord : Nat) (keys : List Nat) : Bool :=
  (s.core c).xq.any fun x => decide (x.ord < ord) && x.cout && !x.cur && (s.blockKeys x.src .read).any keys.contains

/-- A released store of the core is still on its way to the host with one of the bytes (R150). -/
def State.hostAhead (s : State) (c : Nat) (keys : List Nat) : Bool :=
  s.hostOut.any fun o => match o with
    | .write _ a bs g => g.core == some c && keys.any fun k => decide (hostKey a ≤ k ∧ k < hostKey a + bs.length)
    | _ => false

/-- A command of a path of a core that was issued earlier, a copy-out from its freeze on, has still to write one of the keys, or to read it as
it stood (R148, R276), or requests are parked at the line of one (R387). -/
def State.pathAhead (s : State) (c path ord : Nat) (keys : List Nat) : Bool :=
  let k := s.core c
  let x := k.xq.any fun x => decide (x.ord < ord) && (x.started || !x.cur) && xPath x.instr == path && (s.xWrites x).any keys.contains
  let m := path == 1 && (k.slotq ++ k.arrayq).any fun m => decide (m.seq < ord) && (cRangeKeys c m.cWrites).any keys.contains
  x || m || s.readsAhead c ord keys || s.hostAhead c keys || s.behindParked keys

/-- See `State.pathAhead`: the COPY path. -/
def State.copyAhead (s : State) (c ord : Nat) (keys : List Nat) : Bool := s.pathAhead c 1 ord keys

/-- Keys of a core's C space, and of memory where its lane-private bytes may lie, noted as read by its phase (R369). -/
def State.noteReadKeys (s : State) (c : Nat) (ks : List Nat) : State :=
  (ks.filter fun k => if keySpace k = 3 then k % 2 ^ 80 / 2 ^ 22 == c else decide (keySpace k ≤ 2 ∨ keySpace k = 8)).foldl (fun s k => s.noteRd c k 1) s

/-- Keys written by a core's command noted by its phase: its own C space for exposure, another core's space, K and D as what cannot be
run again (R369). -/
def State.noteWriteKeys (s : State) (c : Nat) (ks : List Nat) : State :=
  let own (k : Nat) : Bool := keySpace k == 3 && k % 2 ^ 80 / 2 ^ 22 == c
  let s := (ks.filter own).foldl (fun s k => s.noteWr c k 1) s
  if ks.any fun k => decide (3 ≤ keySpace k ∧ keySpace k ≤ 5) && !own k then s.irrevocable c else s

/-- Consumption of damaged bytes by a command (R384). -/
def State.cmdConsume (s : State) (cur : Bool) (o : Org) (l : Loc) (consumer : Nat) (key : Option Nat) : State :=
  s.cmdFail cur o { mkRec 0x17 1 l (leBytes 1 consumer) (key.map (BitVec.ofNat 64)) (some o) with phys := key.isSome }

/-- A command that has accesses to other modules to make first makes them (R82): the state in which it waits, or none where all that it reads has
come. -/
def State.awaitFar (s : State) (o : Org) (name : Nat) (keys : List Nat) : Option State :=
  if s.farNeeds name keys = [] then none else some (s.askFar o name keys)

/-- A move that carries poison (R383). -/
def State.carryPoison (s : State) (o : Org) (l : Loc) (key : Nat) : State :=
  s.post { mkRec 0x16 0 l (leBytes 1 0) (some (BitVec.ofNat 64 key)) (some o) with phys := true }

end Sys2Proof.Machine
end

