-- ==== Sys2Proof/Machine/Lease.lean ====
section
/-! DEFINITION. The lease of a cluster's array (11, R250 to R253, R266). -/
namespace Sys2Proof.Machine

/-- A counted command (R250); an MSAMP that has waited its cycles runs as one (R266). -/
def MCmd.counted (m : MCmd) : Bool :=
  match m.instr with
  | .mma _ | .mmah _ => true
  | .msamp _ => m.fetched == 1
  | _ => false

/-- Counted commands of a core that are not complete. -/
def Core.countedOut (k : Core) : Bool := k.arrayq.any MCmd.counted

/-- The state with a core's lease changed. -/
def State.modLease (s : State) (c : Nat) (f : Lease → Lease) : State := s.modCluster (clusterOf c) fun k => { k with lease := f k.lease }

/-- The lease ends where nothing is left under it: the last counted command is complete and the count used up, or given up (R251,
R252). -/
def State.endLease (s : State) (c : Nat) : State :=
  let k := s.core c
  if s.holds c && !k.countedOut && (k.relsPend || (s.cluster (clusterOf c)).lease.count == 0) then
    (s.modLease c fun _ => ⟨none, 0, 0, memberOf c⟩).modCore c fun k => { k with relsPend := false }
  else s

/-- A counted command takes its count, or its bundle is held and a request stands (R251). -/
def State.takeCount (s : State) : Attempt State :=
  let c := s.iss.core
  if s.holds c && (s.cluster (clusterOf c)).lease.count != 0 then .ok (s.modLease c fun l => { l with count := l.count - 1 })
  else .error ((s.modCore c fun k => { k with leaseReq := if k.leaseReq = 0 then 1 else k.leaseReq }).hold)

/-- MNOP (R251). -/
def execMnop (g : Guard) (s : State) : Out := s.under g (.next s)

/-- MLEASE: the field is the count less one (R251). -/
def execMlease (g : Guard) (n : BitVec 4) (s : State) : Out :=
  let c := s.iss.core
  s.under g (.next (
    if s.holds c then s.modLease c fun l => { l with count := n.toNat + 1 }
    else s.modCore c fun k => { k with leaseReq := n.toNat + 1 }))

/-- MRELS (R251): at once where no counted command is outstanding, else once they are complete; a request is withdrawn, but not one
made for a suspended command. -/
def execMrels (g : Guard) (s : State) : Out :=
  let c := s.iss.core
  s.under g (.next (
    if s.holds c then ((s.modLease c fun l => { l with count := 0 }).modCore c fun k => { k with relsPend := true }).endLease c
    else s.modCore c fun k => { k with leaseReq := 0, relsPend := k.suspended }))

/-- A core asks for the array (R251, R252). -/
def Core.asks (k : Core) : Bool := k.leaseReq != 0 || k.suspended

/-- The effective priority of the task on a core (R37). -/
def Core.rank (k : Core) : Nat := (k.task.map (·.eprio)).getD 0

/-- The core that the arbiter chooses (R252): the highest priority, then the first after the last holder. -/
def State.leaseChoice (s : State) (cluster : Nat) : Option Nat :=
  let last := (s.cluster cluster).lease.last
  ((List.range 4).map fun n => cluster * 4 + (last + 1 + n) % 4).foldl (fun (best : Option Nat) c =>
    if !(s.core c).asks then best
    else match best with
      | none => some c
      | some b => if (s.core b).rank < (s.core c).rank then some c else some b) none

/-- LEASE_GRANT: a free array is granted to a requesting core; a suspended command resumes without a count (R252). -/
def execLeaseGrant (cluster : Nat) (s : State) : Out :=
  match (s.cluster cluster).lease.holder, s.leaseChoice cluster with
  | none, some c =>
    .next ((s.modCluster cluster fun k => { k with lease := ⟨some (memberOf c), (s.core c).leaseReq, 8192, k.lease.last⟩ }).modCore c
      fun k => { k with leaseReq := 0, suspended := false, grants := (k.grants + 1) % 256 })
  | _, _ => .next s

/-- LEASE_EXPIRY: at 8,192 cycles a lease ends where another core asks; a counted command that is not complete is suspended between
chunks, and the core asks again for it (R252). -/
def execLeaseExpiry (cluster : Nat) (s : State) : Out :=
  let l := (s.cluster cluster).lease
  match l.holder with
  | none => .next s
  | some m =>
    let c := cluster * 4 + m
    let wanted := (List.range 4).any fun n => n != m && (s.core (cluster * 4 + n)).asks
    if l.cycles ≠ 0 ∨ !wanted then .next s
    else .next ((s.modLease c fun _ => ⟨none, 0, 0, m⟩).modCore c fun k =>
      { k with suspended := k.countedOut, relsPend := k.relsPend && k.countedOut })

/-- MSAMP_WAIT_EXPIRY: a sample command whose chunks have waited 65,536 cycles from its issue runs as a counted command once it is at the head
of the queue; the core asks for it where it holds no lease (R266). -/
def execMsampWaitExpiry (core : Nat) (s : State) : Out :=
  match (s.core core).arrayq with
  | m :: rest =>
    (match m.instr with
     | .msamp _ =>
       if m.waited < 65536 ∨ m.fetched = 1 then .next s
       else .next (s.modCore core fun k =>
         { k with arrayq := { m with fetched := 1 } :: rest, suspended := k.suspended || !s.holds core })
     | _ => .next s)
  | [] => .next s

end Sys2Proof.Machine
end

