-- ==== Sys2Proof/Machine/RimeFix.lean ====
section
/-! DEFINITION. Rime mismatches: classification, correction in place and what is reported (21, R394 to R399). Stores that are
corrected hold floating or MX elements only, so the integer forms of R395 are not needed. -/
namespace Sys2Proof.Machine

/-- What a check compares: the lines' values, the expected sums of rows and columns, the exponent of the tolerance, and for each
direction whether a single bad line of it is a fault of the sums (R394). -/
structure Checked where
  vals : List (List FVal)
  er : List Nat
  ec : List Nat
  t : Nat
  sumsR : Bool
  sumsC : Bool
  deriving DecidableEq, Repr

/-- The outcome of a classification (R394): an outcome of 3 and above is uncorrectable. -/
inductive Verdict where
  | pass
  | corrected (i j : Nat) (bits : Nat)
  | margin (row : Bool) (n : Nat)
  | bad (outcome i j : Nat)
  deriving DecidableEq, Repr

/-- Row i of what is checked. -/
def Checked.row (k : Checked) (i : Nat) : List FVal := k.vals.getD i []
/-- Column j of what is checked. -/
def Checked.col (k : Checked) (j : Nat) : List FVal := k.vals.map fun r => r.getD j FVal.zero

/-- A line's comparison (R121, R134). -/
def Checked.line (k : Checked) (l : List FVal) (e : Nat) : LineSt := checkLine k.t (l.map RVal.f) e
/-- Row i's comparison. -/
def Checked.rowSt (k : Checked) (i : Nat) : LineSt := k.line (k.row i) (k.er.getD i 0)
/-- Column j's comparison. -/
def Checked.colSt (k : Checked) (j : Nat) : LineSt := k.line (k.col j) (k.ec.getD j 0)

/-- tau of a line (R134). -/
def Checked.tau (k : Checked) (l : List FVal) : FVal :=
  ((exactSum l).abs.add .rne ((maxAbs l).scale 5)).scale (-(k.t : Int))

/-- What is checked with one element changed. -/
def Checked.put (k : Checked) (i j : Nat) (v : FVal) : Checked := { k with vals := k.vals.set i ((k.row i).set j v) }

/-- CorrectElement (R395): store rounds a value to the element's storage, load is the value of what is stored. -/
def Checked.correct (k : Checked) (i j : Nat) (store : FVal → Nat) (load : Nat → FVal) : Verdict :=
  let x := cellOf k.vals i j FVal.zero
  let r := k.row i
  let c := k.col j
  let er := decodeF 0 (k.er.getD i 0)
  let ec := decodeF 0 (k.ec.getD j 0)
  let dr := (exactSum r).add .rne er.opp
  let dc := (exactSum c).add .rne ec.opp
  let apart := (dr.add .rne dc.opp).abs
  if x.isNan || x.isInf || ((k.tau r).add .rne (k.tau c)).lt apart then .bad 4 i j
  else
    let byCol := (k.tau c).lt (k.tau r)
    let v := (if byCol then ec else er).add .rne ((exactSum (if byCol then c else r)).add .rne x.opp).opp
    let bits := store v
    let x2 := load bits
    if x2.isNan || x2.isInf then .bad 4 i j
    else
      let k' := k.put i j x2
      if k'.rowSt i = .bad ∨ k'.colSt j = .bad then .bad 6 i j else .corrected i j bits

/-- Classify (R394) on the numbers of the bad rows and columns. -/
def Checked.classify (k : Checked) (nocorr : Bool) (rows cols : List Nat) (store : Nat → Nat → FVal → Nat)
    (load : Nat → Nat → Nat → FVal) : Verdict :=
  match rows, cols with
  | [], [] => .pass
  | rows, cols =>
    if nocorr then .bad 5 0 0
    else match rows, cols with
      | [i], [j] => k.correct i j (store i j) (load i j)
      | [i], [] => if k.sumsR then .margin true i else .bad 3 0 0
      | [], [j] => if k.sumsC then .margin false j else .bad 3 0 0
      | _, _ => .bad 3 0 0

/-- The numbers among n lines that are bad. -/
def badAmong (n : Nat) (f : Nat → LineSt) : List Nat := (List.range n).filter fun i => f i == .bad

/-- The stored sums of a tile disagree (R394). -/
def tileSumsDisagree (t : Nat) (sums : List Nat) : Bool :=
  let v := sums.map (decodeF 0)
  exceeds t (exactSum (v.take 32)) (exactSum (v.drop 32)) (maxAbs v)

/-- A tile as its entry check sees it. -/
def tileChecked (t : Nat) (vals : List (List FVal)) (sums : List Nat) : Checked :=
  let d := tileSumsDisagree t sums
  ⟨vals, sums.take 32, sums.drop 32, t, d, d⟩

/-- How many of n lines passed unchecked. -/
def uncheckedAmong (n : Nat) (f : Nat → LineSt) : Nat := (List.range n).countP fun i => f i == .unchecked

/-- The entry check of a tile (R133, R394): its verdict, the numbers of bad rows and columns and of lines unchecked. -/
def Checked.tile (k : Checked) (nocorr : Bool) (store : Nat → Nat → FVal → Nat) (load : Nat → Nat → Nat → FVal) :
    Verdict × Nat × Nat × Nat :=
  let r := badAmong 32 k.rowSt
  let c := badAmong 32 k.colSt
  (k.classify nocorr r c store load, r.length, c.length, uncheckedAmong 32 k.rowSt + uncheckedAmong 32 k.colSt)

/-- The verdict's outcome number (R399). -/
def Verdict.outcome : Verdict → Nat
  | .pass => 0
  | .corrected _ _ _ => 0
  | .margin row _ => if row then 1 else 2
  | .bad o _ _ => o

/-- The verdict lets the command go on. -/
def Verdict.ok : Verdict → Bool | .bad _ _ _ => false | _ => true

/-- The record of a verdict (R397, R399): the check point, the lines, the plane or slot, and the bits before and after. -/
def Verdict.record (v : Verdict) (point nr nc store : Nat) (old new : Nat) (l : Loc) (a : Option Word) (o : Org) : ErrRec :=
  let (i, j) := match v with | .corrected i j _ => (i, j) | .margin true n => (n, 0) | .margin false n => (0, n) | .bad _ i j => (i, j) | .pass => (0, 0)
  mkRec (if v.ok then 0x30 else 0x31) (if v.ok then 0 else 1) l
    (leBytes 1 (point + 16 * v.outcome) ++ leBytes 1 (min nr 255) ++ leBytes 1 (min nc 255) ++ leBytes 2 store ++ leBytes 1 i ++ leBytes 1 j
      ++ leBytes 4 old ++ leBytes 4 (if v.ok then new else 0)) a (some o)

/-- CORRCNT of a core rises by one (R137, R395). -/
def State.addCorr (s : State) (c : Nat) : State :=
  s.modCore c fun k => { k with csrs := { k.csrs with corrcnt := BitVec.ofNat 64 (min (k.csrs.corrcnt.toNat + 1) (2 ^ 32 - 1)) } }

/-- NOENTRY, NODRAIN and NOCORR of RIMECTL (R135). -/
def Core.noEntry (k : Core) : Bool := k.csrs.rimectl.getLsbD 0
/-- See `Core.noEntry`. -/
def Core.noDrain (k : Core) : Bool := k.csrs.rimectl.getLsbD 1
/-- See `Core.noEntry`. -/
def Core.noCorr (k : Core) : Bool := k.csrs.rimectl.getLsbD 2

/-- The largest element position of a verdict: none but for an element. -/
def Verdict.element : Verdict → Option (Nat × Nat)
  | .corrected i j _ => some (i, j)
  | .bad o i j => if o = 4 ∨ o = 6 then some (i, j) else none
  | _ => none

/-- A verdict acted on (R397): the record at severity 0 and CORRCNT, or the failure of the phase, which ends the attempt. -/
def State.actOn (s : State) (c : Nat) (cur : Bool) (o : Org) (v : Verdict) (r : ErrRec) : Attempt State :=
  match v with
  | .pass => .ok s
  | .corrected _ _ _ => .ok ((s.addCorr c).post r)
  | .margin _ _ => .ok (s.post r)
  | .bad _ _ _ => .error (s.cmdFail cur o r)

end Sys2Proof.Machine
end

