-- ==== Sys2Proof/Machine/Slots.lean ====
section
/-! DEFINITION. Operand slots and the slot commands: MCLAIM, MFREE, MLDS, MSTS, MTRAN (11, R254 to R258; 06, R129, R133, R138). -/
namespace Sys2Proof.Machine

/-! The contents of a slot (R254). -/

/-- The container of element (i, j). -/
def OSlot.elem (o : OSlot) (i j : Nat) : Nat := (o.data.getD (32 * i + j) 0).toNat

/-- The scale of element (i, j): that of its line along the non-k dimension. -/
def OSlot.scaleAt (o : OSlot) (i j : Nat) : Nat := (o.scales.getD (if o.krows then j else i) 0).toNat

/-- The value of element (i, j) as a format entry interprets it (R129): scales at 1.0 where it says so, NaN as zero under NANZ. -/
def OSlot.value (o : OSlot) (unit nanz : Bool) (i j : Nat) : FVal :=
  let v := elemValue o.fmt (o.elem i j) (if unit then 0x7F else o.scaleAt i j)
  if nanz && v.isNan then FVal.zero else v

/-- Bytes of an element in a slot (R254). -/
def OSlot.size (o : OSlot) : Nat := if 1 ≤ o.fmt ∧ o.fmt ≤ 2 then 2 else 1

/-- The sector of a slot that holds an element, of its 64 sectors of data; 64 to 71 hold the rime, 72 the scales (R382). -/
def OSlot.sector (o : OSlot) (i j : Nat) : Nat := (32 * i + j) * o.size / 32

/-- A damaged sector of a slot that its contents lie in (R384). -/
def OSlot.hurtAt (o : OSlot) : Option Nat := o.poison.find? fun n => decide (n < 32 * o.size ∨ (64 ≤ n ∧ n < 72) ∨ (n = 72 ∧ isMx o.fmt))

/-- Some sector of a slot that its contents lie in is damaged (R384). -/
def OSlot.hurt (o : OSlot) : Bool := o.hurtAt.isSome

/-- The address that a record gives a sector of operand slot n, or of plane n, in its store: the spec names no addresses for these stores
(DESIGN CHOICE, log 7). -/
def storeAddr (n sector : Nat) : Nat := (n * 2 ^ 14 + sector) * 32

/-- The 32 by 32 values given by a function. -/
def tileOf {α : Type} (f : Nat → Nat → α) : List (List α) := (List.range 32).map fun i => (List.range 32).map (f i)

/-- The sums that the array forms of a tile (R129); elements that are hurt sum as NaN (R383). -/
def OSlot.sums (o : OSlot) (unit nanz : Bool) (hurt : Nat → Nat → Bool) : List Lane :=
  (formRime (tileOf fun i j => .f (if hurt i j then .nan false else o.value unit nanz i j))).map (BitVec.ofNat 32)

/-- Element (i, j) replaced. -/
def OSlot.put (o : OSlot) (i j bits : Nat) : OSlot := { o with data := o.data.set (32 * i + j) (BitVec.ofNat 16 bits) }

/-- The container of an element's bits: MX elements sign-extended in a byte (R254). -/
def containerOf (fmt bits : Nat) : Nat := if isMx fmt then toBits 8 (signedOf (mxBits fmt) bits) else bits

/-- A correction stored in a slot (R395): rounded to the slot's format, or to an MX element of its block's scale. -/
def slotStore (fmt scale : Nat) (v : FVal) : Nat :=
  if isMx fmt then
    let f : Int := match mxBits fmt with | 8 => 6 | 6 => 4 | _ => 2
    toBits 8 (intSat (mxBits fmt) (((v.scale (127 - (scale : Int) + f)).toInt .rne).getD 0))
  else roundF fmt .rne true v

/-- A slot of a cluster. -/
def State.slot (s : State) (cluster n : Nat) : OSlot := (s.cluster cluster).slots.get n OSlot.clear

/-- A slot of a cluster replaced. -/
def State.putSlot (s : State) (cluster n : Nat) (o : OSlot) : State :=
  s.modCluster cluster fun k => { k with slots := k.slots.set n o }

/-- The core may name a slot (R254): claimed by itself, by a core of the same gang, or by the gang. -/
def State.slotMine (s : State) (c n : Nat) : Bool :=
  let serial := ((s.core c).task.map (·.serial)).getD 0
  match (s.slot (clusterOf c) n).owner with
  | .free => false
  | .core k => k == c || (((s.core k).task.map (·.serial)) == some serial)
  | .gang g => g == serial

/-! Issue. -/

/-- The bits of an M issue slot. -/
def mBits (i : Instr) : Word := (encodeM i).getD 0

/-- The opcode of an M command (R177). -/
def mOpcode (i : Instr) : Nat := (mBits i).toNat / 2 ^ 58

/-- A slot or plane command takes its place in its queue, or its bundle is held (R250). -/
def State.enqueue (s : State) (array : Bool) (i : Instr) (vals : List Word) (fmt : Quad) (recs : List (List Byte)) (inj : Bool) :
    Attempt State :=
  let c := s.iss.core
  let k := s.core c
  let m : MCmd := ⟨i, vals, fmt, recs, 0, 0, [], 0, inj, true, k.mseq, s.iss.org⟩
  if array then
    if k.arrayq.length ≥ 4 then .error s.hold
    else .ok (s.modCore c fun k => { k with arrayq := k.arrayq ++ [m], mseq := k.mseq + 1 })
  else if k.slotq.length ≥ 8 then .error s.hold
  else .ok (s.modCore c fun k => { k with slotq := k.slotq ++ [m], mseq := k.mseq + 1 })

/-- The first of some element ranges of the C space that leaves it: its element number and the offset found (R381). -/
def cFault (l : List (Nat × Nat × Nat)) : Option (Nat × Nat) :=
  l.findSome? fun x => if x.2.1 + x.2.2 ≤ 2 ^ 22 then none else some (x.1, max x.2.1 (2 ^ 22))

/-- The element ranges of a block in the C space by rows, columns, offset, pitch in bytes and element size. -/
def cElems (rows cols off pitch size : Nat) : List (Nat × Nat × Nat) :=
  (List.range rows).flatMap fun i => (List.range cols).map fun j => (i * cols + j, off + i * pitch + j * size, size)

/-- A command's offsets lie in the C space, or it is refused whole (R267, R381). -/
def State.inC (s : State) (kind : Nat) (l : List (Nat × Nat × Nat)) : Attempt Unit :=
  match cFault l with
  | none => .ok ()
  | some (e, a) => .error (s.outOfMap kind 1 0 e (5, BitVec.ofNat 64 a))

/-- The format entry that an M command selects, noted as read (R118, R369). -/
def State.selectFmt (s : State) (fsel : BitVec 2) (foff : Nat) : Quad × State :=
  let n := s.fmtIndex fsel foff
  (s.iss.src.fmts.get n 0, s.modPhase s.iss.core fun p => p.noteReads [fmtGranule n])

/-- The format that a slot will have once a core's queued slot commands are complete. -/
def State.futureFmt (s : State) (c n : Nat) : Nat :=
  (s.core c).slotq.foldl (fun (f : Nat → Nat) m =>
    match m.instr with
    | .mlds g => fun k => if k = g.slot.toNat then g.fmt.toNat else f k
    | .mtran _ d src => fun k => if k = d.toNat then f src.toNat else f k
    | _ => f) (fun k => (s.slot (clusterOf c) k).fmt) n

/-- MCLAIM: the claim is made, and its base written, when the operand store performs the command (R254). -/
def execMclaim (g : Guard) (d : SReg) (n : BitVec 9) (s : State) : Out :=
  s.under g (settle (s.enqueue false (.mclaim g d n) [] 0 [] false))

/-- MFREE (R254). -/
def execMfree (g : Guard) (s : State) : Out := s.under g (settle (s.enqueue false (.mfree g) [] 0 [] false))

/-- A field of RIMEINJ (R138). -/
def injFld (w : Word) (lo len : Nat) : Nat := w.toNat / 2 ^ lo % 2 ^ len

/-- The injection that the next MLDS into a slot takes with it (R138; DEDUCED, log 36). -/
def Core.slotInjection (k : Core) (slot : Nat) : Option Word :=
  let w := k.csrs.rimeinj
  if injFld w 63 1 = 1 ∧ injFld w 60 3 = 3 ∧ injFld w 27 9 = slot ∧ !k.slotq.any (fun m => m.inj && m.vals.getLastD 0 == w) then some w else none

/-- MLDS at issue (R138, R256, R267, R410). -/
def execMlds (f : MLdsF) (s : State) : Out :=
  let i := Instr.mlds f
  let v (r : SReg) : Nat := (s.rd r).toNat
  let size := cBytes f.fmt.toNat
  let pitch := f.pitch.toNat * 32
  s.under f.g (settle (do
    need (decide (32 * size ≤ pitch) && v f.sb % 256 == 0) (s.valueFault 3 (mBits i))
    need (s.slotMine s.iss.core f.slot.toNat) (s.refuse 3 0x05 0 none)
    let (e, s') := s.selectFmt f.fsel f.foff.toNat
    need (s.fmtSuits s.iss.core e false) (s.refuse 3 0x05 1 none)
    s.inC 0 (cElems 32 32 (v f.sa) pitch size ++ [(0, v f.sb, 256)] ++ if isMx f.fmt.toNat then [(0, v f.sc, 32)] else [])
    let inj := (s.core s.iss.core).slotInjection f.slot.toNat
    s'.enqueue false i ([s.rd f.sa, s.rd f.sb, s.rd f.sc] ++ inj.toList) e [] inj.isSome))

/-- MSTS at issue (R256, R267, R410): the row bytes are those of the format that the slot then has. -/
def execMsts (g : Guard) (slot : BitVec 9) (sa sb sc : SReg) (pitch : BitVec 5) (s : State) : Out :=
  let i := Instr.msts g slot sa sb sc pitch
  let v (r : SReg) : Nat := (s.rd r).toNat
  let fmt := s.futureFmt s.iss.core slot.toNat
  let size := cBytes (if fmt = 0 then 3 else fmt)
  s.under g (settle (do
    need (decide (32 * size ≤ pitch.toNat * 32) && v sb % 256 == 0) (s.valueFault 3 (mBits i))
    need (s.slotMine s.iss.core slot.toNat) (s.refuse 3 0x06 0 none)
    s.inC 1 (cElems 32 32 (v sa) (pitch.toNat * 32) size ++ [(0, v sb, 256)] ++ if isMx fmt then [(0, v sc, 32)] else [])
    s.enqueue false i [s.rd sa, s.rd sb, s.rd sc, BitVec.ofNat 64 (32 * size), if isMx fmt then 32 else 0] 0 [] false))

/-- MTRAN at issue (R258). -/
def execMtran (g : Guard) (dst src : BitVec 9) (s : State) : Out :=
  s.under g (settle (do
    need (s.slotMine s.iss.core dst.toNat && s.slotMine s.iss.core src.toNat) (s.refuse 3 0x07 0 none)
    s.enqueue false (.mtran g dst src) [] 0 [] false))

/-! What waits for what (R257). -/

/-- The operand slots that an MMA's chunks from one on read. -/
def MCmd.slotsFrom (m : MCmd) (chunk : Nat) : List Nat :=
  match m.instr with
  | .mma f =>
    let n := 8 * (f.chunks.toNat + 1 - chunk)
    (List.range n).map (f.a.toNat + 8 * chunk + ·) ++ (List.range n).map (f.b.toNat + 8 * chunk + ·)
  | _ => []

/-- The slots that a command names and has still to use. -/
def MCmd.slotsNamed (m : MCmd) : List Nat :=
  match m.instr with
  | .mlds f => [f.slot.toNat]
  | .msts _ slot _ _ _ _ => [slot.toNat]
  | .mtran _ d src => [d.toNat, src.toNat]
  | _ => m.slotsFrom m.chunk

/-- The slot that a slot command writes. -/
def MCmd.slotWritten (m : MCmd) : Option Nat :=
  match m.instr with
  | .mlds f => some f.slot.toNat
  | .mtran _ d _ => some d.toNat
  | _ => none

/-- Queued chunks of earlier commands have still to read one of the slots. -/
def Core.chunksRead (k : Core) (ord : Nat) (slots : List Nat) : Bool :=
  k.arrayq.any fun m => decide (m.seq < ord) && (m.slotsFrom m.chunk).any slots.contains

/-- The C-space ranges that a slot command reads. -/
def MCmd.cReads (m : MCmd) : List (Nat × Nat) :=
  let v (n : Nat) : Nat := (m.vals.getD n 0).toNat
  match m.instr with
  | .mlds f =>
    (List.range 32).map (fun i => (v 0 + i * f.pitch.toNat * 32, 32 * cBytes f.fmt.toNat)) ++ [(v 1, 256)]
      ++ if isMx f.fmt.toNat then [(v 2, 32)] else []
  | _ => []

/-- The slots of a core's claim. -/
def Core.claimed (k : Core) : List Nat := match k.claim with | some (b, n) => (List.range n).map (b + ·) | none => []

/-- A queued command names one of the slots of a core's claim: one of its own that is older, or one of another core of its gang (R254). -/
def State.claimInUse (s : State) (c ord : Nat) : Bool :=
  let k := s.core c
  let uses (m : MCmd) : Bool := m.slotsNamed.any k.claimed.contains
  (k.slotq ++ k.arrayq).any (fun m => decide (m.seq < ord) && uses m)
    || (match k.task with
        | some b => ((s.coresOf b.serial).filter (· != c)).any fun d => ((s.core d).slotq ++ (s.core d).arrayq).any uses
        | none => false)

/-- The command at the head of the slot queue may be performed. -/
def State.slotReady (s : State) (c : Nat) (m : MCmd) : Bool :=
  let k := s.core c
  (match m.instr with
   | .mfree _ => !s.claimInUse c m.seq
   | .mlds _ | .mtran _ _ _ => !k.chunksRead m.seq m.slotWritten.toList
   | _ => true)
    && !s.copyAhead c m.seq (cRangeKeys c (m.cReads ++ m.cWrites))

/-! The commands performed. -/

/-- The lowest run of free slots of a cluster (R254). -/
def State.freeRun (s : State) (cluster n : Nat) : Option Nat :=
  (List.range (513 - n)).find? fun b => (List.range n).all fun i => (s.slot cluster (b + i)).owner == .free

/-- MCLAIM performed. -/
def State.doClaim (s : State) (c : Nat) (d : SReg) (n : Nat) : State :=
  let give (s : State) (v : Word) : State := s.modCore c fun k => { k with regs := k.regs.setS d.toNat v }
  match (s.core c).claim, s.freeRun (clusterOf c) n with
  | none, some b =>
    let s := (List.range n).foldl (fun s i => s.putSlot (clusterOf c) (b + i) { s.slot (clusterOf c) (b + i) with owner := .core c }) s
    give ((s.modCore c fun k => { k with claim := some (b, n) }).modPhase c fun p => { p with claimed := true }) (BitVec.ofNat 64 b)
  | _, _ => give s 0xFFFFFFFFFFFFFFFF

/-- MFREE performed (R254, R369). -/
def State.doFree (s : State) (c : Nat) : State :=
  if (s.core c).claim.isNone then s
  else ((s.freeSlots (clusterOf c) (.core c)).irrevocable c).modCore c fun k => { k with claim := none }

/-- A granule of a slot noted as read or written by the command's phase. -/
def State.noteSlot (s : State) (c n : Nat) (write : Bool) : State :=
  let id := [slotGranule (clusterOf c) n]
  s.modPhase c fun p => if write then p.noteWrites id else p.noteReads id

/-- An injection is performed (R138): it leaves RIMEINJ, where that still holds it, and is consumed for the shadow too, where that holds it armed. -/
def State.injected (s : State) (c : Nat) (w : Word) : State :=
  s.modCore c fun k =>
    { k with
      csrs := { k.csrs with rimeinj := if k.csrs.rimeinj = w then w &&& 0x7FFFFFFFFFFFFFFF else k.csrs.rimeinj }
      phase := { k.phase with injected := k.phase.injected || k.shadow.csrs.rimeinj == w } }

/-- An injection into an operand slot after its load's entry check (R138). -/
def State.injectSlot (s : State) (c slot : Nat) (w : Word) : State :=
  let o := s.slot (clusterOf c) slot
  let i := injFld w 44 5
  let j := injFld w 36 5
  let bit := injFld w 52 5
  let s := if bit < 8 * cBytes o.fmt then s.putSlot (clusterOf c) slot (o.put i j (Nat.xor (o.elem i j) (2 ^ bit))) else s
  s.injected c w

/-- MLDS performed (R256, R397): the entry check, the slot's sums, UNVER, format and KROWS. Poison moves into the slot (R383). -/
def State.doMlds (s : State) (c : Nat) (m : MCmd) (f : MLdsF) : Attempt State :=
  let k := clusterOf c
  let v (n : Nat) : Nat := (m.vals.getD n 0).toNat
  let fmt := f.fmt.toNat
  let slot := f.slot.toNat
  let size := cBytes fmt
  let at_ (i j : Nat) : Nat := cKey c (v 0 + i * f.pitch.toNat * 32 + j * size)
  let scale (i j : Nat) : Nat := if f.krows = 1 then j else i
  let hurt (i j : Nat) : Bool := s.damaged (at_ i j) size || (isMx fmt && s.damaged (cKey c (v 2 + scale i j)) 1)
  let data := (tileOf fun i j => BitVec.ofNat 16 (containerOf fmt (s.num (at_ i j) size))).flatten
  let scales := if isMx fmt then s.get (cKey c (v 2)) 32 else []
  let old := s.slot k slot
  let o : OSlot := ⟨data, [], true, scales, fmt, f.krows == 1, old.owner, []⟩
  let loc := locCluster 3 k (slot / 2)
  let anyHurt := (m.cReads.filter fun r => r.1 ≠ v 1 ∨ r.2 ≠ 256).findSome? fun r => s.firstDamage [(cKey c r.1, r.2)]
  let ent := s.rimeAt (cKey c (v 1))
  let check := !(s.core c).noEntry
  let s := m.cReads.foldl (fun s r => s.noteRd c (cKey c r.1) r.2) s
  let tile := tileOf fun i j => if hurt i j then .nan false else o.value false false i j
  let t := tolT (tolBase (fmtTolb m.fmt) (s.core c).csrs.rimetol) (ceilLog2 (1 + ent.refresh))
  do
    if check then
      match s.firstDamage [(cKey c (v 1), 256)] with
      | some key => .error (s.cmdConsume m.cur m.org loc 3 (some key))
      | none => .ok ()
    let (verdict, nr, nc, un) := (tileChecked t tile ent.sums).tile (s.core c).noCorr
      (fun i j => slotStore fmt (o.scaleAt i j)) fun i j b => elemValue fmt b (o.scaleAt i j)
    let (o, s) ← (if check then (do
      let (old, new) := match verdict with | .corrected i j b => (o.elem i j, b) | v => (((v.element.map fun p => o.elem p.1 p.2).getD 0), 0)
      let (old, new) := match verdict with | .margin r n => (ent.sums.getD (if r then n else 32 + n) 0, 0) | _ => (old, new)
      let s ← (s.addUnchk c un).actOn c m.cur m.org verdict
        (verdict.record 0 nr nc slot old new loc (some (BitVec.ofNat 64 (v 0))) m.org)
      .ok (match verdict with | .corrected i j b => o.put i j b | _ => o, s)) else .ok (o, s) : Attempt (OSlot × State))
    let unit := fmtFld m.fmt (if f.krows = 1 then 40 else 38) 2 == 1
    let sectors := ((tileOf fun i j => if hurt i j then [o.sector i j] else []).flatten.flatten
      ++ if isMx fmt ∧ s.damaged (cKey c (v 2)) 32 then [72] else []).eraseDups
    let o := { o with rime := o.sums unit (fmtNanz m.fmt) hurt, unver := ent.unver || !check, poison := sectors }
    let s := (s.noteSlot c slot true).putSlot k slot o
    let s := match anyHurt with | some key => s.carryPoison m.org loc key | none => s
    .ok (if m.inj then s.injectSlot c slot (m.vals.getLastD 0) else s)

/-- Bytes written to a core's C space by a command of the core, in engine pieces (R146, R369). -/
def State.putC (s : State) (c off : Nat) (bs : List Byte) : State :=
  if off + bs.length ≤ 2 ^ 22 then (s.noteWr c (cKey c off) bs.length).putE (cKey c off) bs else s

/-- MSTS performed (R256): data, rime with its flags, and scales of an MX slot. -/
def State.doMsts (s : State) (c : Nat) (m : MCmd) (slot pitch : Nat) : State :=
  let v (n : Nat) : Nat := (m.vals.getD n 0).toNat
  let o := s.slot (clusterOf c) slot
  let size := cBytes (if o.fmt = 0 then 3 else o.fmt)
  let row (i : Nat) : List Byte := (List.range 32).flatMap fun j => leBytes size (o.elem i j)
  let ent : RimeEnt := ⟨(List.range 64).map fun n => (o.rime.getD n 0).toNat, o.unver, 0⟩
  let s := s.noteSlot c slot false
  let s := (List.range 32).foldl (fun s i => s.putC c (v 0 + i * pitch * 32) (row i)) s
  let s := (s.noteWr c (cKey c (v 1)) 256).putRime (cKey c (v 1)) ent
  let s := if isMx o.fmt then s.putC c (v 2) ((List.range 32).map fun n => o.scales.getD n 0) else s
  if o.hurt then
    let cells := (tileOf fun i j => if o.poison.contains (o.sector i j) then [cKey c (v 0 + i * pitch * 32 + j * size)] else []).flatten.flatten
    let rime := (o.poison.filter fun n => decide (64 ≤ n ∧ n < 72)).map fun n => cKey c (v 1) + 32 * (n - 64)
    let scales := if isMx o.fmt && o.poison.contains 72 then [cKey c (v 2)] else []
    let s := cells.foldl (fun (s : State) k => s.poisonRange k size) s
    let s := (rime ++ scales).foldl (fun (s : State) k => s.poisonRange k 32) s
    s.carryPoison m.org (locCluster 3 (clusterOf c) (slot / 2)) (cKey c (v 0))
  else s

/-- A slot transposed into another's owner (R258). -/
def OSlot.transpose (o : OSlot) (owner : Owner) : OSlot :=
  { o with
    data := (tileOf fun i j => o.data.getD (32 * j + i) 0).flatten
    rime := (List.range 64).map fun n => o.rime.getD ((n + 32) % 64) 0
    krows := !o.krows
    owner := owner
    poison := ((tileOf fun i j => if o.poison.contains (o.sector j i) then [o.sector i j] else []).flatten.flatten
      ++ (o.poison.filter fun n => decide (64 ≤ n ∧ n < 72)).map (fun n => 64 + (n - 64 + 4) % 8)
      ++ o.poison.filter fun n => n == 72).eraseDups }

/-- MTRAN performed (R258). -/
def State.doMtran (s : State) (c : Nat) (m : MCmd) (dst src : Nat) : State :=
  let k := clusterOf c
  let s := (s.noteSlot c src false).noteSlot c dst true
  let s := s.putSlot k dst ((s.slot k src).transpose (s.slot k dst).owner)
  match (s.slot k src).hurtAt with
  | some n => s.carryPoison m.org (locCluster 3 k (dst / 2)) (storeAddr src n)
  | none => s

/-- SLOT_COMMAND_COMPLETE: the command at the head of a core's slot queue is performed (R250, R257). -/
def execSlotCommandComplete (core : Nat) (s : State) : Out :=
  match (s.core core).slotq with
  | [] => .next s
  | m :: rest =>
    if !s.slotReady core m then .next s
    else
      let t := s.modCore core fun k => { k with slotq := rest }
      match m.instr with
      | .mclaim _ d n => .next (t.doClaim core d (n.toNat + 1))
      | .mfree _ => .next (t.doFree core)
      | .mlds f => settle (t.doMlds core m f)
      | .msts _ slot _ _ _ pitch => .next (t.doMsts core m slot.toNat pitch.toNat)
      | .mtran _ dst src => .next (t.doMtran core m dst.toNat src.toNat)
      | _ => .next t

end Sys2Proof.Machine
end

