-- ==== Sys2Proof/Machine/Array.lean ====
section
/-! DEFINITION. The cell array: what a k-chunk computes, the chunks of MMA, MMAH and MSAMP, and the operand fetcher of MMAH (05, R113
to R115; 06, R129 to R133, R138; 11, R259 to R262, R266; 21, R394, R397). -/
namespace Sys2Proof.Machine

/-! What a chunk computes. -/

/-- The operands of a chunk: A by row, B by column, each 256 lists of 32 values along k, and the margin feeds by k. -/
structure Feed where
  a : List (List FVal)
  b : List (List FVal)
  fa : List FVal
  fb : List FVal
  deriving DecidableEq, Repr

/-- The product of two elements, with 1 where zero times infinity is taken as zero and counted (R100, R114). -/
def cellProduct (nanz : Bool) (x y : FVal) : FVal × Nat :=
  let v := x.mul y
  if nanz && v.isNan && !x.isNan && !y.isNan then (FVal.zero, 1) else (v, 0)

/-- FP32 rounding of a value, as a value. -/
def asF32 (v : FVal) : FVal := decodeF 0 (roundF 0 .rne false v)

/-- The exact sum of a group's terms; a block of an MX pair sums as an integer, without a negative zero (R115). -/
def groupSum (mx : Bool) (l : List FVal) : FVal :=
  match l with
  | [] => FVal.zero
  | x :: l => l.foldl (FVal.add .rne) (if mx then FVal.zero.add .rne x else x)

/-- The groups of p terms that are rounded together. -/
def groupsOf (p : Nat) (l : List FVal) : List (List FVal) := (List.range (32 / p)).map fun g => (l.drop (g * p)).take p

/-- Terms accumulated group by group, one rounding each (R115). -/
def accumulate (mx : Bool) (p : Nat) (acc : FVal) (terms : List FVal) : FVal :=
  (groupsOf p terms).foldl (fun acc g => asF32 (acc.add .rne (groupSum mx g))) acc

/-- CellChunk under a cell operation (R115, R260): the new accumulator, and how many products were counted. -/
def cellChunk (op p : Nat) (mx nanz : Bool) (acc : Lane) (x y : List FVal) : Lane × Nat :=
  let pairs := x.zip y
  let acc := decodeF 0 acc.toNat
  let out (v : FVal) : Lane := BitVec.ofNat 32 (roundF 0 .rne false v)
  match op with
  | 0 =>
    let ps := pairs.map fun q => cellProduct nanz q.1 q.2
    (out (accumulate mx p acc (ps.map (·.1))), (ps.map (·.2)).foldl (· + ·) 0)
  | 1 => (out (accumulate mx p acc (pairs.map fun q => (q.1.add .rne q.2.opp).abs)), 0)
  | 2 => (out (pairs.foldl (fun a q => a.max2 (asF32 (q.1.add .rne q.2))) acc), 0)
  | _ => (out (pairs.foldl (fun a q => a.min2 (asF32 (q.1.add .rne q.2))) acc), 0)

/-- ProductsPerCycle, or one group a block for MX (R113, R115). -/
def groupSize (e : Quad) : Nat := if isMx (fmtA e) then 32 else if fmtA e = 3 ∨ fmtA e = 4 then 4 else 1

/-- Element (i, j) of a plane. -/
def Plane.at (p : Plane) (i j : Nat) : Lane := laneOf (p.rows.getD i []) j

/-- A chunk performed on a plane with its margin (R115, R130, R261), and the products counted. -/
def Plane.chunk (p : Plane) (f : Feed) (op : Nat) (e : Quad) (unver : Bool) : Plane × Nat :=
  let g := groupSize e
  let mx := isMx (fmtA e)
  let nanz := fmtNanz e
  let cells := (List.range 256).map fun i => (List.range 256).map fun j => cellChunk op g mx nanz (p.at i j) (f.a.getD i []) (f.b.getD j [])
  let margin (acc : Lane) (x y : List FVal) : Lane := (cellChunk 0 g mx nanz acc x y).1
  ({ p with
     rows := cells.map fun r => r.map (·.1)
     mrow := (List.range 256).map fun j => margin (laneOf p.mrow j) f.fa (f.b.getD j [])
     mcol := (List.range 256).map fun i => margin (laneOf p.mcol i) (f.a.getD i []) f.fb
     corner := margin p.corner f.fa f.fb
     ksteps := min (p.ksteps + 1) (2 ^ 32 - 1)
     nocheck := p.nocheck || op != 0
     unver := p.unver || unver },
   cells.foldl (fun n r => r.foldl (fun n x => n + x.2) n) 0)

/-- The FP32 sums of lists of sums, position by position, in order (R130). -/
def feedSum (l : List (List Nat)) : List FVal :=
  match l with
  | [] => []
  | x :: l => (l.foldl (fun acc y => (acc.zip y).map fun p => addF32 p.1 p.2) x).map (decodeF 0)

/-- The operands of a chunk from its 16 tiles (R130, R259). -/
def feedOf (as bs : List OSlot) (e : Quad) : Feed :=
  let nanz := fmtNanz e
  let ua := fmtFld e 38 2 == 1
  let ub := fmtFld e 40 2 == 1
  let at_ (l : List OSlot) (n : Nat) : OSlot := l.getD n OSlot.clear
  { a := (List.range 256).map fun i => (List.range 32).map fun k => (at_ as (i / 32)).value ua nanz (i % 32) k
    b := (List.range 256).map fun j => (List.range 32).map fun k => (at_ bs (j / 32)).value ub nanz k (j % 32)
    fa := feedSum (as.map fun o => (List.range 32).map fun k => (o.rime.getD (32 + k) 0).toNat)
    fb := feedSum (bs.map fun o => (List.range 32).map fun k => (o.rime.getD k 0).toNat) }

/-- The NaN elements that a chunk's tiles bring, counted under NANZ (R100). -/
def nanElems (as bs : List OSlot) (e : Quad) : Nat :=
  let count (unit : Bool) (o : OSlot) : Nat := (tileOf (o.value unit false)).foldl (fun n r => n + r.countP FVal.isNan) 0
  if fmtNanz e then
    (as.map (count (fmtFld e 38 2 == 1))).foldl (· + ·) 0 + (bs.map (count (fmtFld e 40 2 == 1))).foldl (· + ·) 0
  else 0

/-- SampleValue (R266). -/
def sampleValue (seed side c x k : Nat) : FVal :=
  let w := Nat.xor ((seed * 2 ^ 24 + c * 2 ^ 16 + x * 2 ^ 5 + k) % 2 ^ 32) (if side = 0 then 0xA5A5A5A5 else 0x5A5A5A5A)
  let h := lfsrStep (lfsrStep (if w = 0 then 0x6D2B79F5 else w))
  (FVal.ofInt ((h % 15 : Nat) - 7)).scale (-2)

/-- The operands of a sample chunk, with the feeds that its tiles' sums give (R129, R266). -/
def sampleFeed (seed c : Nat) : Feed :=
  let side (n : Nat) : List (List FVal) := (List.range 256).map fun x => (List.range 32).map fun k => sampleValue seed n c x k
  let a := side 0
  let b := side 1
  let sums (l : List (List FVal)) (t : Nat) : List Nat :=
    (List.range 32).map fun k => lineSum (((l.drop (32 * t)).take 32).map fun r => .f (r.getD k FVal.zero))
  ⟨a, b, feedSum ((List.range 8).map (sums a)), feedSum ((List.range 8).map (sums b))⟩

/-- Signature of a plane (R266). -/
def Plane.signature (p : Plane) : Word :=
  (List.range 256).foldl (fun s i => (List.range 256).foldl (fun (s : Word) j => s.rotateLeft 1 ^^^ (p.at i j).zeroExtend 64) s) 0

/-- The flip of a test injection in a plane or its margin (R138). -/
def Plane.flip (p : Plane) (w : Word) : Plane :=
  let bit : Lane := 1#32 <<< injFld w 52 5
  let at_ (l : List Lane) (n : Nat) : List Lane := (List.range 256).map fun i => if i = n then laneOf l i ^^^ bit else laneOf l i
  match injFld w 60 3 with
  | 0 => { p with rows := (List.range 256).map fun i => if i = injFld w 44 8 then at_ (p.rows.getD i []) (injFld w 36 8) else p.rows.getD i [] }
  | 1 => { p with mrow := at_ p.mrow (injFld w 36 8) }
  | _ => { p with mcol := at_ p.mcol (injFld w 36 8) }

/-! The chunks of the command at the head of the array queue. -/

/-- Plane, chunks, pattern and accumulate bit of a command that uses the array. -/
def MCmd.run (m : MCmd) : Option (Nat × Nat × Nat × Bool) :=
  match m.instr with
  | .mma f => some (f.plane.toNat, f.chunks.toNat + 1, f.pat.toNat, f.acc == 1)
  | .mmah f => some (f.plane.toNat, f.chunks.toNat + 1, f.pat.toNat, f.acc == 1)
  | .msamp f => some (f.plane.toNat, f.chunks.toNat + 1, 0, false)
  | _ => none

/-- A plane of a core. -/
def State.plane (s : State) (c n : Nat) : Plane := (s.core c).planes.get n Plane.zero

/-- A plane of a core replaced. -/
def State.putPlane (s : State) (c n : Nat) (p : Plane) : State := s.modCore c fun k => { k with planes := k.planes.set n p }

/-- The tiles of the next chunk: operand slots, or staging slots. -/
def State.chunkTiles (s : State) (c : Nat) (m : MCmd) : List OSlot × List OSlot :=
  match m.instr with
  | .mma f =>
    let at_ (b : Nat) : List OSlot := (List.range 8).map fun t => s.slot (clusterOf c) (b + 8 * m.chunk + t)
    (at_ f.a.toNat, at_ f.b.toNat)
  | .mmah _ => let l := m.staged.headD []; (l.take 8, l.drop 8)
  | _ => ([], [])

/-- The next chunk of a command has its tiles (R257, R262): no earlier slot command has still to write them, before the first chunk any
of the command's. -/
def State.chunkReady (s : State) (c : Nat) (m : MCmd) : Bool :=
  match m.run with
  | none => false
  | some (_, n, _, _) =>
    decide (m.chunk < n) && match m.instr with
      | .mma f =>
        let slots := if m.chunk = 0 then m.slotsFrom 0
          else (List.range 8).flatMap fun t => [f.a.toNat + 8 * m.chunk + t, f.b.toNat + 8 * m.chunk + t]
        !((s.core c).slotq.any fun q => decide (q.seq < m.seq) && q.slotWritten.toList.any slots.contains)
      | .mmah _ => !m.staged.isEmpty
      | _ => true

/-- A chunk of a core's head command may begin now but for a sample's wait: the command is counted and the lease is held. -/
def State.chunkDue (s : State) (c : Nat) : Bool :=
  match (s.core c).arrayq with
  | m :: _ => m.counted && s.holds c && s.chunkReady c m
  | [] => false

/-- The chunk may run (R252, R266): a counted command's under the lease, a sample's where the array would start none. -/
def State.chunkMay (s : State) (c : Nat) (m : MCmd) : Bool :=
  if m.counted then s.holds c else !((List.range 4).any fun n => s.chunkDue (clusterOf c * 4 + n))

/-- Every slot of an MMA holds the formats and layouts of the entry (R259). -/
def State.layoutOk (s : State) (c : Nat) (m : MCmd) : Bool :=
  match m.instr with
  | .mma f =>
    let n := 8 * (f.chunks.toNat + 1)
    let ok (b : Nat) (fmt : Nat) (rows : Bool) : Bool := (List.range n).all fun i =>
      let o := s.slot (clusterOf c) (b + i)
      o.fmt == fmt && o.krows == rows
    ok f.a.toNat (fmtA m.fmt) false && ok f.b.toNat (fmtB m.fmt) true
  | _ => true

/-- A command that accumulates reads its plane; a plane that the phase has not set cannot be run again (R369). -/
def State.notePlane (s : State) (c plane : Nat) (reads : Bool) : State :=
  let id := [planeGranule plane]
  let set := (s.core c).phase.planesSet.getLsbD plane
  let s := if reads then s.modPhase c fun p => p.noteReads id else s
  let s := s.modPhase c fun p => { p.noteWrites id with planesSet := if reads then p.planesSet else p.planesSet ||| (1#8 <<< plane) }
  if reads && !set then s.irrevocable c else s

/-- The address of the first damaged sector among the tiles of a chunk: of operand slots, or of staging slots, numbered from 512
(DESIGN CHOICE, log 7). -/
def MCmd.hurtTile (m : MCmd) (as bs : List OSlot) : Option Nat :=
  (as ++ bs).zipIdx.findSome? fun p => p.1.hurtAt.map fun n =>
    storeAddr (match m.instr with
      | .mma f => if p.2 < 8 then f.a.toNat + 8 * m.chunk + p.2 else f.b.toNat + 8 * m.chunk + p.2 - 8
      | _ => 512 + p.2) n

/-- A chunk is performed (R261): the clear before the first chunk, the cells, the injection before or after it. -/
def State.doChunk (s : State) (c : Nat) (m : MCmd) (plane n pat : Nat) (acc : Bool) : Attempt State :=
  let (as, bs) := s.chunkTiles c m
  let first := m.chunk == 0
  let p := if first && !acc then Plane.zero else s.plane c plane
  let inj := m.vals.getLastD 0
  let at_ := injFld inj 21 6
  let op := pat / 4 ^ (m.chunk % 4) % 4
  do
    need (!(as ++ bs).any OSlot.hurt) (s.cmdConsume m.cur m.org (arrayLoc c) 3 (m.hurtTile as bs))
    need p.poison.isEmpty (s.cmdConsume m.cur m.org (locCore 4 c plane) 3 (p.poison.head?.map (storeAddr plane)))
    let p := if m.inj && first && at_ == 0 then p.flip inj else p
    let feed := match m.instr with | .msamp f => sampleFeed f.seed.toNat m.chunk | _ => feedOf as bs m.fmt
    let (p, zi) := p.chunk feed op m.fmt ((as ++ bs).any fun o => o.unver)
    let done := m.chunk + 1
    let late := m.inj && (done == at_ || (done == n && decide (n < at_)))
    let p := if late then p.flip inj else p
    let s := if late || (m.inj && first && at_ == 0) then s.injected c inj else s
    let s := ((s.addNan c (zi + nanElems as bs m.fmt)).notePlane c plane acc).putPlane c plane p
    let s := match m.instr with
      | .mma f => (List.range 8).foldl (fun (s : State) t => (s.noteSlot c (f.a.toNat + 8 * m.chunk + t) false).noteSlot c (f.b.toNat + 8 * m.chunk + t) false) s
      | _ => s
    .ok (s.modCore c fun k => { k with arrayq := { m with chunk := done, staged := m.staged.drop 1 } :: k.arrayq.drop 1 })

/-- K_CHUNK: the next chunk of the command at the head of a core's array queue; a mismatch of slots and entry refuses the command before
the first (R259, R261). -/
def execKChunk (core : Nat) (s : State) : Out :=
  match (s.core core).arrayq with
  | [] => .next s
  | m :: _ =>
    match m.run with
    | none => .next s
    | some (plane, n, pat, acc) =>
      if !s.chunkReady core m || !s.chunkMay core m then .next s
      else if m.chunk = 0 ∧ !s.layoutOk core m then
        .next (s.lateFault m.org (refused (arrayLoc core) 3 (mOpcode m.instr) 1 4 none))
      else settle (s.doChunk core m plane n pat acc)

/-! Issue. -/

/-- The injection that the next MMA or MMAH on a plane takes with it (R138). -/
def Core.injection (k : Core) (plane : Nat) : Option Word :=
  let w := k.csrs.rimeinj
  if injFld w 63 1 = 1 ∧ injFld w 60 3 ≤ 2 ∧ injFld w 57 3 = plane ∧ !k.arrayq.any (fun m => m.inj && m.vals.getLastD 0 == w) then some w else none

/-- Room in the array queue (R250). -/
def State.roomA (s : State) : Attempt Unit := need (decide ((s.core s.iss.core).arrayq.length < 4)) s.hold

/-- MMA at issue (R251, R254, R259). -/
def execMma (f : MmaF) (s : State) : Out :=
  let c := s.iss.core
  let n := 8 * (f.chunks.toNat + 1)
  s.under f.g (settle (do
    need ((List.range n).all fun i => s.slotMine c (f.a.toNat + i) && s.slotMine c (f.b.toNat + i)) (s.refuse 3 0x08 0 none)
    let (e, s') := s.selectFmt f.fsel f.foff.toNat
    need (s.fmtSuits c e true) (s.refuse 3 0x08 1 none)
    s'.roomA
    let s ← s'.takeCount
    let inj := (s.core c).injection f.plane.toNat
    s.enqueue true (.mma f) inj.toList e [] inj.isSome))

/-- MSAMP at issue (R266). -/
def execMsamp (f : MSampF) (s : State) : Out :=
  s.under f.g (settle (do
    let (e, s') := s.selectFmt f.fsel f.foff.toNat
    need (s.fmtSuits s.iss.core e true) (s.refuse 3 0x0D 1 none)
    s'.enqueue true (.msamp f) [s.rd f.sig] e [] false))

/-- The A block of a chunk of an MMAH (R262): its column-block index is the word's plus the chunk's number. -/
def MCmd.blockA (m : MCmd) (chunk : Nat) : Block :=
  let r := Shape.parse (m.recs.getD 0 [])
  let c := Coord.of (m.vals.getD 1 0)
  let list := m.recs.getD 2 []
  ⟨r, m.org.core.getD 0, m.org.ctx, { c with cb := c.cb + chunk }, c.rb * r.trows, (List.range (list.length / 4)).map fun n => byteNum list (4 * n) 4⟩

/-- The B block of a chunk of an MMAH (R262): its row-block index is the word's plus the chunk's number. -/
def MCmd.blockB (m : MCmd) (chunk : Nat) : Block :=
  let c := Coord.of (m.vals.getD 3 0)
  ⟨Shape.parse (m.recs.getD 1 []), m.org.core.getD 0, m.org.ctx, { c with rb := c.rb + chunk }, 0, []⟩

/-- A block without the entries of a rime region, whose damage loses them and is no consumption (R400). -/
def Block.plain (b : Block) : Block := { b with r := { b.r with rime := if b.r.space = 0 then 0 else b.r.rime } }

/-- The block that an MDRAINH writes (R265). -/
def MCmd.blockH (m : MCmd) : Block :=
  let r := Shape.parse (m.recs.getD 0 [])
  let c := Coord.of (m.vals.getD 1 0)
  let list := m.recs.getD 1 []
  ⟨r, m.org.core.getD 0, m.org.ctx, c, c.rb * r.trows, (List.range (list.length / 4)).map fun n => byteNum list (4 * n) 4⟩

/-- An earlier MDRAINH of the core has still to write one of the keys, the order of the MAT path (R148), or requests are parked at the line of
one (R387). -/
def State.matAhead (s : State) (c ord : Nat) (keys : List Nat) : Bool :=
  let k := s.core c
  ((k.arrayq ++ k.drains.map (·.cmd)).any fun m =>
    decide (m.seq < ord) && (match m.instr with | .mdrainh _ => (s.blockKeys m.blockH .write).any keys.contains | _ => false)) || s.behindParked keys

/-- The index list of a record read at issue (R90): its bytes as 32-bit entries. The path, the opcode's consumer number, and what holds
the read are given. -/
def State.issueList (s : State) (r : Shape) (y0 path consumer : Nat) (busy : List Nat → Bool) : Attempt (List Nat × State) :=
  let c := s.iss.core
  if r.idxfmt = 0 then .ok ([], s)
  else match s.listIssue c s.iss.src.ctxid r y0 with
    | .error (n, e, a) => .error (s.outOfMap 4 path 0 (n * r.tcols) (e, a))
    | .ok ks =>
      if busy ks.flatten then .error s.hold
      else match s.awaitFar s.iss.org (coreFar c) ks.flatten with
        | some t => .error t.hold
        | none =>
          match s.hurtKey ks.flatten with
          | some k => .error (s.consume c s.seqLoc consumer k).faulted
          | none =>
            let s := s.reform ks.flatten
            .ok (s.listVals ks, s.noteReadKeys c ks.flatten)

/-- The first out-of-map element of any chunk of an MMAH (R262, R380). -/
def State.fetchFault (s : State) (m : MCmd) (n : Nat) : Option (Nat × Nat × Word) :=
  let one (b : Block) : Option (Nat × Nat × Word) := s.blockFault b .read (if b.r.rime = 2 then some .read else none)
  (List.range n).findSome? fun k => (one (m.blockA k)).or (one (m.blockB k))

/-- The same command, as it stood when its bundle was held (R262). -/
def MCmd.same (m q : MCmd) : Bool := m.instr == q.instr && m.vals == q.vals && m.fmt == q.fmt && m.recs == q.recs

/-- An MMAH takes its count and its place in the queue, with the tiles fetched for it while its bundle was held; or the bundle is held for the
lease, and the fetcher begins (R251, R262). -/
def State.issueMmah (s : State) (m : MCmd) (inj : Option Word) : Attempt State :=
  let c := s.iss.core
  let old := (s.core c).early.filter m.same
  match s.takeCount with
  | .error t => .error (t.modCore c fun k => { k with early := some (old.getD m) })
  | .ok s =>
    let q := old.getD m
    .ok (s.modCore c fun k =>
      { k with
        arrayq := k.arrayq ++ [{ q with vals := m.vals ++ inj.toList, inj := inj.isSome }]
        mseq := k.mseq + 1
        early := none })

/-- MMAH at issue (R251, R262): records, formats, clipping, the gather list, the addresses of every chunk. -/
def execMmah (f : MmahF) (s : State) : Out :=
  let c := s.iss.core
  let ref (s : State) (reason : Nat) (a : Word) : State := s.refuse 3 0x09 reason (some a)
  s.under f.g (settle (do
    let (e, s1) := s.selectFmt f.fsel f.foff.toNat
    need (s.fmtSuits c e true) (s.refuse 3 0x09 1 none)
    let (ra, s2) ← s1.goodRec 3 0x09 (s.rd f.ar)
    let (rb, s3) ← s2.goodRec 3 0x09 (s.rd f.br)
    let a := Shape.parse ra
    let b := Shape.parse rb
    need (a.trows == 256 && a.tcols == 32 && a.fmt == fmtA e && (!isMx a.fmt || a.coldim == 0) && s.carriedOk s.iss.src.ctxid a)
      (ref s 2 (s.rd f.ar))
    need (b.trows == 32 && b.tcols == 256 && b.fmt == fmtB e && b.idxfmt == 0 && (!isMx b.fmt || b.rowdim == 0)
      && s.carriedOk s.iss.src.ctxid b) (ref s 2 (s.rd f.br))
    let y0 := (Coord.of (s.rd f.ac)).rb * a.trows
    let (list, s4) ← s3.issueList a y0 2 3 (s.matAhead c (s.core c).mseq)
    let vals := [s.rd f.ar, s.rd f.ac, s.rd f.br, s.rd f.bc]
    let m : MCmd := ⟨.mmah f, vals, e, [ra, rb, list.flatMap (leBytes 4)], 0, 0, [], 0, false, true, (s.core c).mseq, s.iss.org⟩
    let chunks := List.range (f.chunks.toNat + 1)
    need (a.clip == 0 || chunks.all fun n => (m.blockA n).whole) (ref s 3 (s.rd f.ar))
    need (b.clip == 0 || chunks.all fun n => (m.blockB n).whole) (ref s 3 (s.rd f.br))
    (match s.fetchFault m (f.chunks.toNat + 1) with
     | some (n, r, a) => .error (s.takeFault (mapFault (arrayLoc c) 0 r 2 0 n a))
     | none => .ok () : Attempt Unit)
    s4.roomA
    s4.issueMmah m ((s.core c).injection f.plane.toNat)))

/-! The operand fetcher (R262). -/

/-- The value of each element of a tile of a block, with its scale, out-of-extent elements as FILL (R91, R92): as a reader of the block finds it,
or as its writer has left it. -/
def State.tileBits (s : State) (b : Block) (acc : Acc) (ti tj i j : Nat) : Nat × Nat :=
  let (ok, xs) := b.at (32 * ti + i) (32 * tj + j)
  let bits := if !ok then b.r.fillBits
    else match s.elemKeys b acc xs with | .ok ks => s.elemGet b.r.fmt ks | .error _ => 0
  (bits, if isMx b.r.fmt then s.readScale b acc (32 * ti + i) (32 * tj + j) else 0x7F)

/-- The entry that a tile of a record of RIME 2 carries (R93, R125, R126): formed first where its tag demands it, which is reported to
the caller. -/
def State.carriedEntry (s : State) (b : Block) (ti tj point : Nat) (sums : List Nat) : Option (RimeEnt × Bool × State) :=
  if b.r.rime ≠ 2 || !b.tileIn ti tj then none
  else match s.blkKeys b (b.rimeAddr ti tj) 1 .read with
    | .ok [key] =>
      if b.r.space = 0 then
        some (s.readCarried b.ctx (entFld (s.region b.ctx (addrWord b.r.base)) 80 4) point (addrWord (b.rimeAddr ti tj)) key sums)
      else some (s.rimeAt key, false, s)
    | _ => none

/-- A tile fetched into a staging slot (R262): checked where it is carried, its sums formed under R129. -/
def State.stageTile (s : State) (c : Nat) (m : MCmd) (b : Block) (krows : Bool) (ti tj slot : Nat) : Attempt (OSlot × State) :=
  let fmt := b.r.fmt
  let at_ (i j : Nat) : Nat × Nat := s.tileBits b .read ti tj i j
  let data := (tileOf fun i j => BitVec.ofNat 16 (containerOf fmt (at_ i j).1)).flatten
  let scales := if isMx fmt then (List.range 32).map fun n => BitVec.ofNat 8 (if krows then at_ 0 n else at_ n 0).2 else []
  let o : OSlot := ⟨data, [], true, scales, fmt, krows, .free, []⟩
  let tile := tileOf fun i j => o.value false false i j
  let unit := fmtFld m.fmt (if krows then 40 else 38) 2 == 1
  let finish (o : OSlot) (unver : Bool) : OSlot := { o with rime := o.sums unit (fmtNanz m.fmt) fun _ _ => false, unver := unver }
  let va := addrWord (b.r.addr (b.at (32 * ti) (32 * tj)).2).1
  if b.r.rime = 2 && !(s.core c).noEntry && !b.tileIn ti tj then .ok (finish o false, s)
  else if (s.core c).noEntry then .ok (finish o true, s)
  else match s.carriedEntry b ti tj 1 (formRime (tile.map fun r => r.map RVal.f)) with
    | none => .ok (finish o true, s)
    | some (ent, _, s) =>
      let t := tolT (tolBase (fmtTolb m.fmt) (s.core c).csrs.rimetol) (ceilLog2 (1 + ent.refresh))
      let (verdict, nr, nc, un) := (tileChecked t tile ent.sums).tile (s.core c).noCorr
        (fun i j => slotStore fmt (o.scaleAt i j)) fun i j x => elemValue fmt x (o.scaleAt i j)
      let old := match verdict with
        | .margin r n => ent.sums.getD (if r then n else 32 + n) 0
        | v => (v.element.map fun p => o.elem p.1 p.2).getD 0
      let new := match verdict with | .corrected _ _ x => x | _ => 0
      do
        let s ← (s.addUnchk c un).actOn c m.cur m.org verdict (verdict.record 1 nr nc slot old new (arrayLoc c) (some va) m.org)
        .ok (finish (match verdict with | .corrected i j x => o.put i j x | _ => o) ent.unver, s)

/-- The 16 tiles of a chunk fetched. -/
def State.stageChunk (s : State) (c : Nat) (m : MCmd) : Attempt (List OSlot × State) :=
  let base := m.fetched % 4 * 16
  let tiles : List (Block × Bool × Nat × Nat × Nat) :=
    (List.range 8).map (fun t => (m.blockA m.fetched, false, t, 0, base + t))
      ++ (List.range 8).map fun u => (m.blockB m.fetched, true, 0, u, base + 8 + u)
  tiles.foldlM (fun (x : List OSlot × State) t => do
    let (o, s) ← x.2.stageTile c m t.1 t.2.1 t.2.2.1 t.2.2.2.1 t.2.2.2.2
    .ok (x.1 ++ [o], s)) ([], s)

/-- The command that the fetcher works for: the oldest MMAH of a core with a chunk to fetch, where staging slots are free; last the one whose
bundle is held. -/
def Core.fetching (k : Core) : Option MCmd :=
  let l := k.arrayq ++ k.early.toList
  if (l.map fun m => m.staged.length).foldl (· + ·) 0 ≥ 4 then none
  else l.find? fun m => match m.instr with | .mmah f => decide (m.fetched < f.chunks.toNat + 1) | _ => false

/-- MMAH_FETCH: the operand fetcher moves the next chunk's tiles into staging slots (R262). -/
def execMmahFetch (core : Nat) (s : State) : Out :=
  match (s.core core).fetching with
  | none => .next s
  | some m =>
    let a := (m.blockA m.fetched).asRead
    let b := (m.blockB m.fetched).asRead
    let keys := s.blockKeys a .read ++ s.blockKeys b .read
    let next (tiles : List OSlot) (q : MCmd) : MCmd :=
      if q.seq = m.seq then { q with fetched := m.fetched + 1, staged := q.staged ++ [tiles] } else q
    if s.matAhead core m.seq keys then .next s
    else match s.awaitFar m.org m.farName keys with
      | some t => .next t
      | none =>
        match s.hurtKey (s.blockKeys a.plain .read ++ s.blockKeys b.plain .read) with
        | some k => .next (s.cmdConsume m.cur m.org (arrayLoc core) 3 (some k))
        | none =>
          settle (do
            let s := s.reform (s.blockKeys a.plain .read ++ s.blockKeys b.plain .read)
            let (tiles, s) ← (s.noteReadKeys core keys).stageChunk core m
            .ok ({ s with far := s.far.del m.farName }.modCore core fun k =>
              { k with arrayq := k.arrayq.map (next tiles), early := k.early.map (next tiles) }))

end Sys2Proof.Machine
end

