-- ==== Sys2Proof/Machine/Move.lean ====
section
/-! DEFINITION. Writing a block: elements, scales and rime entries, with the partial writes that a carried tensor takes, poison, and
writes bound for the host (04, R91 to R93; 06, R126, R127; 12, R277 to R279; 20, R383, R385, R393). -/
namespace Sys2Proof.Machine

/-- The region entry and the rime descriptor of the tensor that the BASE of a block of the G space lies in, where that is carried (R83, R84). -/
def State.tensorOf (s : State) (b : Block) : Option (Quad × RDesc) :=
  if b.r.space ≠ 0 then none
  else (s.rcRegion b.ctx b.r.base).bind fun e => (s.rdesc b.ctx e).map fun d => (e, d)

/-- How many elements of a tile are in extent. -/
def Block.tileCount (b : Block) (ti tj : Nat) : Nat :=
  (List.range 32).foldl (fun n i => n + (List.range 32).countP fun j => (b.at (32 * ti + i) (32 * tj + j)).1) 0

/-- How many elements a tile of a carried tensor has, by the address of its entry (R84). -/
def RDesc.tileSize (d : RDesc) (entry : Nat) : Nat :=
  let n := (entry - d.rbase) / 256
  let per := (d.cols + 31) / 32
  let ti := if per = 0 then 0 else n / per
  let tj := if per = 0 then 0 else n % per
  min 32 (d.rows - 32 * ti) * min 32 (d.cols - 32 * tj)

/-- The tile of a carried tensor is written whole with its entry (R127): it comes with carried or formed rime, its record has RIME 2 and covers
every element that the tensor has there. -/
def State.wholeTile (s : State) (b : Block) (given : Bool) (ti tj : Nat) : Bool :=
  match s.tensorOf b with
  | none => false
  | some (_, d) => given && b.r.rime == 2 && b.tileCount ti tj == d.tileSize (b.rimeAddr ti tj)

/-- The entry of a tile is written: the tile has one, and in a carried tensor it is written whole (R93, R127). -/
def State.entryDue (s : State) (b : Block) (given : Bool) (ti tj : Nat) : Bool :=
  b.r.rime != 0 && b.tileIn ti tj && (b.r.rime != 2 || b.r.space != 0 || s.wholeTile b given ti tj)

/-- What a block receives: the bits of its elements and the bytes of its scales, none where nothing is written. The state that is
given is that before the command, or as it stands where the bytes overlap (R279). -/
structure BlockIn where
  bits : State → Nat → Nat → Option Nat
  scale : State → Nat → Nat → Option Nat

/-- A key bound for the host while the link is down is not written (R393). -/
def State.cut (s : State) (k : Nat) : Bool := keySpace k == 2 && !s.hub.pcieUp

/-- The cells of a block whose scale is written with them: the first element of each scale block (R92). -/
def Block.scaleCells (b : Block) : List (Nat × Nat) :=
  if !isMx b.r.fmt then []
  else if b.r.coldim = 0 then (List.range b.r.trows).flatMap fun i => (List.range (b.r.tcols / 32)).map fun j => (i, 32 * j)
  else (List.range (b.r.trows / 32)).flatMap fun i => (List.range b.r.tcols).map fun j => (32 * i, j)

/-- The scales of the elements of a block before and after it is written, by address and bit (R127). -/
def State.blockScales (s : State) (b : Block) (x : BlockIn) : Scales :=
  let l : List ((Int × Nat) × Nat × Nat) := if !isMx b.r.fmt then [] else b.cells.map fun p =>
    let old := s.readScale b .write p.1 p.2
    (b.r.addr (b.at p.1 p.2).2, old, (x.scale s p.1 p.2).getD old)
  fun a bit => (l.find? fun q => q.1.1 == (a : Int) && q.1.2 == bit).map (·.2)

/-- Elements of a carried tensor that one engine piece writes and that are still to be performed: its sector, its region and its bytes (R146). -/
abbrev Held := Option (Nat × Quad × Piece)

/-- What is held is performed. -/
def State.flush (s : State) (ctx : Nat) (scales : Scales) (h : Held) : State :=
  match h with
  | none => s
  | some (_, e, l) => s.performPiece ctx e l scales

/-- One element of a block written: at once, or as part of the partial write of its sector (R127, R146). -/
def State.putElem (s : State) (b : Block) (whole : Bool) (scales : Scales) (h : Held) (xs : List Nat) (v : Nat) : State × Held :=
  match s.elemKeys b .write xs with
  | .error _ => (s, h)
  | .ok ks =>
    if ks.1.any s.cut then (s, h)
    else
      let a := (b.r.addr xs).1
      let ent := (if b.r.space = 0 then s.rcRegion b.ctx a else none).filter fun e =>
        !(whole && (s.tensorOf b).any fun q => entFld q.1 80 4 == entFld e 80 4)
      match ent with
      | none => ((b.r.elemBytes (Memory.read s.mem) ks v).foldl (fun s p => s.put p.1 [p.2]) s, h)
      | some e =>
        let sector := granule (ks.1.headD 0)
        let (s, held) : State × Piece := match h with
          | some (g, f, l) => if g = sector ∧ f = e then (s, l) else (s.flush b.ctx scales h, [])
          | none => (s, [])
        let new := (b.r.elemBytes (s.pieceByte held) ks v).zipIdx.map fun p => (a.toNat + p.2, p.1.1, p.1.2)
        (s, some (sector, e, held.filter (fun p => !new.any fun q => q.2.1 == p.2.1) ++ new))

/-- A block's elements and scales written, with carried or formed rime or without (R89, R91, R92, R127). Where the bytes read and written overlap,
each element is taken before the command or as the command left it: free (DESIGN CHOICE, log 12). -/
def State.putBlock (s : State) (b : Block) (x : BlockIn) (given overlap : Bool) : State :=
  let s0 := s
  let free (n : Nat) : Bool := Config.freeBit s0.steps n
  let cells := if overlap && b.r.idxfmt == 0 && free 1 then b.cells.reverse else b.cells
  let whole := b.tiles.filter fun p => s0.wholeTile b given p.1 p.2
  let scales := s0.blockScales b x
  let (s, h) := cells.foldl (fun (a : State × Held) p =>
    let (ok, xs) := b.at p.1 p.2
    if !ok then a
    else match x.bits (if overlap && free (2 + p.1 * b.r.tcols + p.2) then a.1 else s0) p.1 p.2 with
      | none => a
      | some v => a.1.putElem b (whole.contains (p.1 / 32, p.2 / 32)) scales a.2 xs v) (s, none)
  let s := s.flush b.ctx scales h
  (b.scaleCells.foldl (fun s p =>
    let (ok, xs) := b.at p.1 p.2
    match ok, x.scale s0 p.1 p.2, s.blkKeys b (b.r.scaleAddr xs) 1 .write with
    | true, some v, .ok [k] => if s.cut k then s else s.put k [BitVec.ofNat 8 v]
    | _, _, _ => s) s).heal (s0.dataKeys b .write)

/-- An element of a block, or the scale of its block, lies in a poisoned granule. -/
def State.cellHurt (s : State) (b : Block) (acc : Acc) (i j : Nat) : Bool :=
  let (ok, xs) := b.at i j
  let hurt (e : Except (Nat × Word) (List Nat)) : Bool := match e with | .ok ks => (s.hurtKey ks).isSome | .error _ => false
  !s.poison.isEmpty && ok &&
    (hurt ((s.elemKeys b acc xs).map (·.1)) || (isMx b.r.fmt && hurt (s.blkKeys b (b.r.scaleAddr (b.scaleAt i j).2) 1 acc)))

/-- The values of a tile of a block as rime sums them. -/
def State.tileVals (s : State) (b : Block) (acc : Acc) (ti tj : Nat) : List (List RVal) :=
  tileOf fun i j => let (v, x) := s.tileBits b acc ti tj i j; rimeValue b.r.fmt v x

/-- The sums of a tile of a block as it stands, out-of-extent elements as FILL, lines with damage as NaN (R91, R120, R383). -/
def State.tileSums (s : State) (b : Block) (acc : Acc) (ti tj : Nat) : List Nat :=
  hurtLines (fun i j => s.cellHurt b acc (32 * ti + i) (32 * tj + j)) (formRime (s.tileVals b acc ti tj))

/-- The rime of a tile formed from the values written (R126, R278). -/
def State.formTile (s : State) (b : Block) (ti tj : Nat) (unver : Bool) : RimeEnt := ⟨s.tileSums b .write ti tj, unver, 0⟩

/-- The entries of a block's tiles written, each given by the state that holds the data (R93). -/
def State.putEntries (s : State) (b : Block) (given : Bool) (f : State → Nat → Nat → Option RimeEnt) : State :=
  (b.tiles.filter fun p => s.entryDue b given p.1 p.2).foldl (fun (s : State) p =>
    match f s p.1 p.2, s.blkKeys b (b.rimeAddr p.1 p.2) 256 .write with
    | some e, .ok (k :: _) => if s.cut k then s else s.putRime k e
    | _, _ => s) s

/-- Some element of a block goes to the host while the link is down (R393; DEDUCED, log 55). -/
def State.hostCut (s : State) (b : Block) : Bool := (s.dataKeys b .write).any s.cut

/-- The address of a block's first element, as a record of the block names it. -/
def Block.firstAddr (b : Block) : Word := addrWord (b.r.addr (b.at 0 0).2).1

/-- Damage follows what a move carries (R383): the granules of elements and scales that received damaged ones, and of entries carried with
damage; the damaged elements and scales of the source, and the damaged sectors of an entry, are given. -/
def State.poisonBlock (s : State) (b : Block) (elem scale : Nat → Nat → Bool) (entry : Nat → Nat → List Nat) : State :=
  let at_ (s : State) (e : Except (Nat × Word) (List Nat)) : State := match e with
    | .ok (k :: ks) => s.poisonRange k (ks.length + 1)
    | _ => s
  let s := b.cells.foldl (fun (s : State) p =>
    let (ok, xs) := b.at p.1 p.2
    if !ok || !elem p.1 p.2 then s else at_ s ((s.elemKeys b .write xs).map (·.1))) s
  let s := b.scaleCells.foldl (fun (s : State) p =>
    let (ok, xs) := b.at p.1 p.2
    if !ok || !scale p.1 p.2 then s else at_ s (s.blkKeys b (b.r.scaleAddr xs) 1 .write)) s
  b.tiles.foldl (fun (s : State) p => (entry p.1 p.2).foldl (fun (s : State) n =>
    at_ s (s.blkKeys b (b.rimeAddr p.1 p.2 + 32 * n : Nat) 1 .write)) s) s

end Sys2Proof.Machine
end

