-- ==== Sys2Proof/Machine/Drain.lean ====
section
/-! DEFINITION. The plane commands that do no array work, MZERO, MACCLD, MDRAIN and MDRAINH, and the end of every plane command (11,
R263 to R266; 06, R131 to R134; 21, R394 to R397, R403). -/
namespace Sys2Proof.Machine

/-! Regions (R263). -/

/-- Rows and columns of a region in elements. -/
def regRows (r : RegionF) : Nat := 32 * (r.rows.toNat + 1)
/-- See `regRows`. -/
def regCols (r : RegionF) : Nat := 32 * (r.cols.toNat + 1)

/-- The lines of a plane that cross a region: its rows, its columns. -/
def regLines (first n : Nat) : List Nat := (List.range n).map (32 * first + ·)

/-- The tiles of a region. -/
def regTiles (r : RegionF) : List (Nat × Nat) :=
  (List.range (r.rows.toNat + 1)).flatMap fun i => (List.range (r.cols.toNat + 1)).map fun j => (i, j)

/-! The check of a drain (R133, R134, R394). -/

/-- A plane as a drain sees it: the margin column holds the expected row sums, the margin row the expected column sums; the corner tells
which of the sums disagree. -/
def Plane.checked (p : Plane) (t : Nat) : Checked :=
  let vals := (List.range 256).map fun i => (List.range 256).map fun j => decodeF 0 (p.at i j).toNat
  let er := (List.range 256).map fun i => (laneOf p.mcol i).toNat
  let ec := (List.range 256).map fun j => (laneOf p.mrow j).toNat
  let dis (l : List Nat) : Bool :=
    let v := l.map (decodeF 0)
    exceeds t (exactSum v) (decodeF 0 p.corner.toNat) (maxAbs v)
  ⟨vals, er, ec, t, dis er && !dis ec, dis ec && !dis er⟩

/-- A plane after a verdict: the element corrected, or the margin entry replaced by the line's exact sum rounded once (R395, R396). -/
def Plane.after (p : Plane) (k : Checked) : Verdict → Plane
  | .corrected i j b => { p with rows := (List.range 256).map fun r => if r = i then (lanes256 p i j (BitVec.ofNat 32 b)) else p.rows.getD r [] }
  | .margin true i => { p with mcol := set256 p.mcol i (sum (k.row i)) }
  | .margin false j => { p with mrow := set256 p.mrow j (sum (k.col j)) }
  | _ => p
where
  /-- A list of 256 lanes with one replaced. -/
  set256 (l : List Lane) (n : Nat) (v : Lane) : List Lane := (List.range 256).map fun i => if i = n then v else laneOf l i
  /-- A row with one element replaced. -/
  lanes256 (p : Plane) (i j : Nat) (v : Lane) : List Lane := set256 (p.rows.getD i []) j v
  /-- The exact sum of a line rounded once. -/
  sum (l : List FVal) : Lane := BitVec.ofNat 32 (roundF 0 .rne false (exactSum l))

/-- The bits that a verdict on a plane replaces, and their new value (R399). -/
def Plane.change (p : Plane) (k : Checked) (v : Verdict) : Nat × Nat :=
  let q := p.after k v
  match v with
  | .corrected i j _ => ((p.at i j).toNat, (q.at i j).toNat)
  | .margin true i => ((laneOf p.mcol i).toNat, (laneOf q.mcol i).toNat)
  | .margin false j => ((laneOf p.mrow j).toNat, (laneOf q.mrow j).toNat)
  | .bad o i j => (if o = 4 ∨ o = 6 then (p.at i j).toNat else 0, 0)
  | .pass => (0, 0)

/-- A damaged sector of a plane (R382) is among those that a drain reads: without a check the region's elements; with one the lines that cross the
region, with their margin sums; all of it for a verdict. -/
def Plane.hurtFor (p : Plane) (r : RegionF) (check whole : Bool) : Option Nat :=
  let inR (i : Nat) : Bool := decide (32 * r.tr.toNat ≤ i ∧ i < 32 * r.tr.toNat + regRows r)
  let inC (j : Nat) : Bool := decide (32 * r.tc.toNat ≤ j ∧ j < 32 * r.tc.toNat + regCols r)
  p.poison.find? fun n =>
    if n < 8192 then whole || (inR (n / 32) && inC (n % 32 * 8)) || (check && (inR (n / 32) || inC (n % 32 * 8)))
    else if n < 8224 then whole || (check && inC ((n - 8192) * 8))
    else if n < 8256 then whole || (check && inR ((n - 8224) * 8))
    else whole

/-- The comparison of a drain (R264, R394, R397): the lines crossing the region; once one is bad, every line of the plane. The record's
ADDR is where the drain puts the region's first element (R399, R435; DEDUCED, log 36). Answers the UNVER of what is drained. -/
def State.drainCheck (s : State) (c : Nat) (m : MCmd) (plane point : Nat) (r : RegionF) (addr : Word) : Attempt (Bool × State) :=
  let p := s.plane c plane
  let loc := locCore 4 c plane
  let check := !(p.nocheck || (s.core c).noDrain)
  do
    need (p.hurtFor r check false).isNone (s.cmdConsume m.cur m.org loc 3 ((p.hurtFor r check false).map (storeAddr plane)))
    if !check then .ok (true, s)
    else
      let k := p.checked (tolT (tolBase (fmtTolb m.fmt) (s.core c).csrs.rimetol) (ceilLog2 (max 1 p.ksteps)))
      let rows := regLines r.tr.toNat (regRows r)
      let cols := regLines r.tc.toNat (regCols r)
      let crossing := rows.any (fun i => k.rowSt i == .bad) || cols.any fun j => k.colSt j == .bad
      if !crossing then
        .ok (p.unver, s.addUnchk c (rows.countP (fun i => k.rowSt i == .unchecked) + cols.countP fun j => k.colSt j == .unchecked))
      else do
        need (p.hurtFor r check true).isNone (s.cmdConsume m.cur m.org loc 3 ((p.hurtFor r check true).map (storeAddr plane)))
        let br := badAmong 256 k.rowSt
        let bc := badAmong 256 k.colSt
        let s := s.addUnchk c (uncheckedAmong 256 k.rowSt + uncheckedAmong 256 k.colSt)
        let v := k.classify (s.core c).noCorr br bc (fun _ _ x => roundF 0 .rne false x) fun _ _ b => decodeF 0 b
        let (old, new) := p.change k v
        let s ← s.actOn c m.cur m.org v (v.record point br.length bc.length plane old new loc (some addr) m.org)
        .ok (p.unver, (s.modPhase c fun q => q.noteWrites [planeGranule plane]).putPlane c plane (p.after k v))

/-! The conversion of a drain (R103, R264). -/

/-- The values of a region's row, NaN as zero under NANZ, with the NaN elements counted (R100). -/
def Plane.regRow (p : Plane) (r : RegionF) (nanz : Bool) (i : Nat) : List FVal × Nat :=
  let vs := (List.range (regCols r)).map fun j => decodeF 0 (p.at (32 * r.tr.toNat + i) (32 * r.tc.toNat + j)).toNat
  (vs.map fun v => if nanz && v.isNan then FVal.zero else v, if nanz then vs.countP FVal.isNan else 0)

/-- A row converted to OFMT in the drain's mode: element bits, and the scales of its blocks of 32 columns. -/
def convertRow (e : Quad) (vs : List FVal) : List Lane × List Byte :=
  let f := fmtOut e
  if isMx f then
    let n := mxBits f
    let blocks := (List.range (vs.length / 32)).map fun b => quantizeMx ((vs.drop (32 * b)).take 32) n (fmtFixed e) (fmtDrnd e)
    (blocks.flatMap fun b => b.2.map fun x => BitVec.ofNat 32 (toBits n x), blocks.map fun b => BitVec.ofNat 8 b.1)
  else (vs.map fun v => BitVec.ofNat 32 (roundF f (fmtDrnd e) (fmtSat e) v), [])

/-- A region converted: rows, scales, and the count of NaN elements. -/
def Plane.convert (p : Plane) (e : Quad) (r : RegionF) : List (List Lane) × List (List Byte) × Nat :=
  let rows := (List.range (regRows r)).map (p.regRow r (fmtNanz e))
  let out := rows.map fun x => convertRow e x.1
  (out.map (·.1), out.map (·.2), (rows.map (·.2)).foldl (· + ·) 0)

/-- The rime of tile (ti, tj) of converted rows. -/
def convertedRime (f : Nat) (rows : List (List Lane)) (scales : List (List Byte)) (ti tj : Nat) : List Nat :=
  formRime (tileOf fun i j => rimeValue f (laneOf (rows.getD (32 * ti + i) []) (32 * tj + j)).toNat
    (if isMx f then ((scales.getD (32 * ti + i) []).getD tj 0).toNat else 0x7F))

/-- MDRAIN performed (R264). -/
def State.doMdrain (s : State) (c : Nat) (m : MCmd) (f : MDrainF) : Attempt State := do
  let v (n : Nat) : Nat := (m.vals.getD n 0).toNat
  let plane := f.plane.toNat
  let fmt := fmtOut m.fmt
  let cols := f.reg.cols.toNat + 1
  let s := s.modPhase c fun q => q.noteReads [planeGranule plane]
  let (u, s) ← s.drainCheck c m plane 3 f.reg (m.vals.getD 0 0)
  let (rows, scales, nans) := (s.plane c plane).convert m.fmt f.reg
  let bytes (r : List Lane) : List Byte := r.flatMap fun x => leBytes (cBytes fmt) (containerOf fmt x.toNat)
  let s := rows.zipIdx.foldl (fun s r => s.putC c (v 0 + r.2 * f.pitch.toNat * 32) (bytes r.1)) (s.addNan c nans)
  let s := (regTiles f.reg).foldl (fun s t =>
    let a := v 1 + (t.1 * cols + t.2) * 256
    (s.noteWr c (cKey c a) 256).putRime (cKey c a) ⟨convertedRime fmt rows scales t.1 t.2, u, 0⟩) s
  .ok (if isMx fmt then scales.zipIdx.foldl (fun s r => s.putC c (v 2 + r.2 * cols) r.1) s else s)

/-- MDRAINH's array work (R265): check and conversion; the writes continue behind it. -/
def State.doMdrainh (s : State) (c : Nat) (m : MCmd) (f : MDrainhF) : Attempt State := do
  let plane := f.plane.toNat
  let s := s.modPhase c fun q => q.noteReads [planeGranule plane]
  let (u, s) ← s.drainCheck c m plane 4 f.reg m.blockH.firstAddr
  let (rows, scales, nans) := (s.plane c plane).convert m.fmt f.reg
  .ok ((s.addNan c nans).modCore c fun k => { k with drains := k.drains ++ [⟨m, rows, scales, u, false⟩] })

/-! MACCLD (R131, R263). -/

/-- The C-space ranges that MACCLD reads: rows of the region, then rime entries. -/
def maccldRanges (f : MAccldF) (sa sb : Nat) : List (Nat × Nat) :=
  (List.range (regRows f.reg)).map (fun i => (sa + i * f.pitch.toNat * 32, 4 * regCols f.reg))
    ++ [(sb, 256 * (f.reg.rows.toNat + 1) * (f.reg.cols.toNat + 1))]

/-- A plane loaded with a region of values: margin sums exact and rounded once, KSTEPS 1 (R131). -/
def loadedPlane (r : RegionF) (at_ : Nat → Nat → Lane) (unver : Bool) : Plane :=
  let inside (i first n : Nat) : Bool := decide (32 * first ≤ i ∧ i < 32 * first + n)
  let rows := (List.range 256).map fun i => (List.range 256).map fun j =>
    if inside i r.tr.toNat (regRows r) && inside j r.tc.toNat (regCols r) then at_ (i - 32 * r.tr.toNat) (j - 32 * r.tc.toNat) else 0
  let sum (l : List FVal) : Lane := BitVec.ofNat 32 (roundF 0 .rne false (exactSum l))
  let vals := rows.map fun l => l.map fun x => decodeF 0 x.toNat
  { rows := rows
    mrow := (List.range 256).map fun j => sum (vals.map fun l => l.getD j FVal.zero)
    mcol := vals.map sum
    corner := sum vals.flatten
    ksteps := 1
    nocheck := false
    unver := unver
    poison := [] }

/-- MACCLD performed (R263, R397): each tile checked; a mismatch leaves the plane zeroed. -/
def State.doMaccld (s : State) (c : Nat) (m : MCmd) (f : MAccldF) : Attempt State :=
  let sa := (m.vals.getD 0 0).toNat
  let sb := (m.vals.getD 1 0).toNat
  let plane := f.plane.toNat
  let cols := f.reg.cols.toNat + 1
  let loc := locCore 4 c plane
  let word (i j : Nat) : Nat := s.num (cKey c (sa + i * f.pitch.toNat * 32 + 4 * j)) 4
  let check := !(s.core c).noEntry
  let ranges := (maccldRanges f sa sb).map fun r => (cKey c r.1, r.2)
  let s := ranges.foldl (fun (s : State) r => s.noteRd c r.1 r.2) s
  match (if s.poison.isEmpty then none else s.firstDamage ranges) with
  | some k => .error (s.cmdConsume m.cur m.org loc 3 (some k))
  | none => do
    let (fixes, unver, s) ← (regTiles f.reg).foldlM (fun (x : List (Nat × Nat × Nat) × Bool × State) t => do
      let (l, u, s) := x
      let key := cKey c (sb + (t.1 * cols + t.2) * 256)
      let ent := s.rimeAt key
      if !check then .ok (l, true, s)
      else
        let tile := tileOf fun i j => decodeF 0 (word (32 * t.1 + i) (32 * t.2 + j))
        let k := tileChecked (tolT (tolBase 0 (s.core c).csrs.rimetol) (ceilLog2 (1 + ent.refresh))) tile ent.sums
        let (v, nr, nc, un) := k.tile (s.core c).noCorr (fun _ _ y => roundF 0 .rne false y) fun _ _ b => decodeF 0 b
        let old := match v with
          | .margin r n => ent.sums.getD (if r then n else 32 + n) 0
          | v => (v.element.map fun p => word (32 * t.1 + p.1) (32 * t.2 + p.2)).getD 0
        let fix := match v with | .corrected i j b => [(32 * t.1 + i, 32 * t.2 + j, b)] | _ => []
        let new := match v with | .corrected _ _ b => b | _ => 0
        let r := v.record 2 nr nc plane old new loc (some (BitVec.ofNat 64 (sa + 32 * t.1 * f.pitch.toNat * 32 + 128 * t.2))) m.org
        let base := if v.ok then s else (s.notePlane c plane false).putPlane c plane Plane.zero
        let s ← (base.addUnchk c un).actOn c m.cur m.org v r
        .ok (l ++ fix, u || ent.unver, s)) (([], false, s) : List (Nat × Nat × Nat) × Bool × State)
    let at_ (i j : Nat) : Lane := BitVec.ofNat 32 (((fixes.find? fun x => x.1 == i && x.2.1 == j).map (·.2.2)).getD (word i j))
    .ok ((s.notePlane c plane false).putPlane c plane (loadedPlane f.reg at_ unver))

/-! Issue. -/

/-- MZERO (R263). -/
def execMzero (g : Guard) (plane : BitVec 3) (s : State) : Out :=
  s.under g (settle (s.enqueue true (.mzero g plane) [] 0 [] false))

/-- MDRAIN at issue (R263, R264, R267, R410). -/
def execMdrain (f : MDrainF) (s : State) : Out :=
  let v (r : SReg) : Nat := (s.rd r).toNat
  s.under f.g (settle (do
    let (e, s') := s.selectFmt f.fsel f.foff.toNat
    let fmt := fmtOut e
    need (v f.sb % 256 == 0) (s.valueFault 3 (mBits (.mdrain f)))
    need (s.fmtSuits s.iss.core e true) (s.refuse 3 0x0B 1 none)
    need (decide (regCols f.reg * cBytes fmt ≤ f.pitch.toNat * 32)) (s.valueFault 3 (mBits (.mdrain f)))
    let cols := f.reg.cols.toNat + 1
    let tiles := (regTiles f.reg).map fun t => (32 * t.1 * regCols f.reg + 32 * t.2, v f.sb + (t.1 * cols + t.2) * 256, 256)
    let scales := if isMx fmt then (List.range (regRows f.reg)).map fun i => (i * regCols f.reg, v f.sc + i * cols, cols) else []
    s.inC 1 (cElems (regRows f.reg) (regCols f.reg) (v f.sa) (f.pitch.toNat * 32) (cBytes fmt) ++ scales ++ tiles)
    s'.enqueue true (.mdrain f) [s.rd f.sa, s.rd f.sb, s.rd f.sc] e [] false))

/-- MACCLD at issue (R263, R267, R410). -/
def execMaccld (f : MAccldF) (s : State) : Out :=
  let v (r : SReg) : Nat := (s.rd r).toNat
  s.under f.g (settle (do
    need (v f.sb % 256 == 0 && decide (4 * regCols f.reg ≤ f.pitch.toNat * 32)) (s.valueFault 3 (mBits (.maccld f)))
    let cols := f.reg.cols.toNat + 1
    let tiles := (regTiles f.reg).map fun t => (32 * t.1 * regCols f.reg + 32 * t.2, v f.sb + (t.1 * cols + t.2) * 256, 256)
    s.inC 0 (cElems (regRows f.reg) (regCols f.reg) (v f.sa) (f.pitch.toNat * 32) 4 ++ tiles)
    s.enqueue true (.maccld f) [s.rd f.sa, s.rd f.sb] 0 [] false))

/-- MDRAINH at issue (R265, R267): the continuation word, the entry, the record, clipping, the list, the addresses. -/
def execMdrainh (f : MDrainhF) (s : State) : Out :=
  let c := s.iss.core
  let ref (s : State) (reason : Nat) : State := s.refuse 3 0x0C reason (some (s.rd f.sr))
  let k := if f.k = 0 then 0 else s.rd f.k
  s.under f.g (settle (do
    (match contBad k with | some e => .error (s.wordFault 3 k e) | none => .ok () : Attempt Unit)
    let (e, s1) := s.selectFmt f.fsel f.foff.toNat
    need (s.fmtSuits c e true) (s.refuse 3 0x0C 1 none)
    let (b, s2) ← s1.goodRec 3 0x0C (s.rd f.sr)
    let r := Shape.parse b
    need (r.space == 0 && r.fmt == fmtOut e && r.trows == regRows f.reg && r.tcols == regCols f.reg && s.carriedOk s.iss.src.ctxid r) (ref s 2)
    let y0 := (Coord.of (s.rd f.cw)).rb * r.trows
    let (list, s3) ← s2.issueList r y0 2 3 (s.matAhead c (s.core c).mseq)
    let vals := [s.rd f.sr, s.rd f.cw, k]
    let m : MCmd := ⟨.mdrainh f, vals, e, [b, list.flatMap (leBytes 4)], 0, 0, [], 0, false, true, 0, s.iss.org⟩
    need (r.clip == 0 || m.blockH.whole) (ref s 3)
    (match s.blockFault m.blockH .write (if r.rime = 0 then none else some .write) with
     | some (n, e, a) => .error (s.outOfMap 1 2 0 n (e, a))
     | none => .ok () : Attempt Unit)
    s3.enqueue true (.mdrainh f) vals e m.recs false))

/-! The end of plane commands. -/

/-- The head of the array queue leaves it; the lease ends with the last counted command (R252). -/
def State.popA (s : State) (c : Nat) : State := (s.modCore c fun k => { k with arrayq := k.arrayq.drop 1 }).endLease c

/-- A sample's signature compared (R266, R403). -/
def State.sampleEnd (s : State) (c : Nat) (m : MCmd) (f : MSampF) : State :=
  let x := (s.plane c f.plane.toNat).signature ^^^ (m.vals.getD 0 0)
  if x = 0 then s
  else
    (s.modCore c fun k => { k with csrs := { k.csrs with sampcnt := BitVec.ofNat 64 (min (k.csrs.sampcnt.toNat + 1) (2 ^ 32 - 1)) } }).cmdFail
      m.cur m.org (mkRec 0x34 1 (arrayLoc c) (leBytes 8 x.toNat ++ leBytes 1 0 ++ leBytes 1 f.plane.toNat ++ leBytes 2 (f.chunks.toNat + 1)) none
        (some m.org))

/-- PLANE_COMMAND_COMPLETE: the command at the head of a core's array queue ends (R250, R261 to R266). -/
def execPlaneCommandComplete (core : Nat) (s : State) : Out :=
  match (s.core core).arrayq with
  | [] => .next s
  | m :: _ =>
    let done (n : BitVec 5) : Bool := decide (n.toNat + 1 ≤ m.chunk)
    let t := s.popA core
    match m.instr with
    | .mma f => .next (if done f.chunks then t else s)
    | .mmah f => .next (if done f.chunks then t else s)
    | .msamp f => .next (if done f.chunks then t.sampleEnd core m f else s)
    | .mzero _ plane => .next ((t.notePlane core plane.toNat false).putPlane core plane.toNat Plane.zero)
    | .maccld f => settle (t.doMaccld core m f)
    | .mdrain f => if s.copyAhead core m.seq (cRangeKeys core m.cWrites) then .next s else settle (t.doMdrain core m f)
    | .mdrainh f => settle (t.doMdrainh core m f)
    | _ => .next t

/-- The completion word (R272). -/
def completionWord (seq : Nat) (rbad runver rreform : Bool) (status valid : Nat) : Word :=
  BitVec.ofNat 64 (seq % 65536 * 2 ^ 48 + rbad.toNat * 2 ^ 42 + runver.toNat * 2 ^ 41 + rreform.toNat * 2 ^ 40 + status * 2 ^ 32 + valid % 2 ^ 32)

/-- Bytes written by a command to the G space in its own phase cannot be taken back (R369). -/
def State.sealIf (s : State) (cur : Bool) (o : Org) : State := if cur then s.sealPhase o else s

/-- A command's continuation applied with its completion word (R273, R369). -/
def State.finishCont (s : State) (cur : Bool) (o : Org) (unit : Nat) (k w : Word) : State :=
  if contKind k = 0 then s else (s.sendVia 1 (unit, 0) k w o).sealIf cur o

/-- The drained region as a block's contents. The region's scales run along its columns; where the record's scale blocks run along its
rows the spec states no scale: free (DESIGN CHOICE, log 28). -/
def DrainOut.block (d : DrainOut) : BlockIn where
  bits _ i j := some (laneOf (d.rows.getD i []) j).toNat
  scale s i j := some (if d.cmd.blockH.r.coldim = 0 then (d.scales.getD i []).getD (j / 32) 0 else Config.freeByte s.steps (2 + i / 32 * 256 + j)).toNat

/-- How many elements of a block are in extent, and the STATUS that this gives (R272). -/
def Block.count (b : Block) : Nat := b.cells.countP fun p => (b.at p.1 p.2).1

/-- See `Block.count`. -/
def Block.statusOf (b : Block) (n : Nat) : Nat := if n = b.r.trows * b.r.tcols then 0 else 1

/-- The writes of an MDRAINH performed; those in other modules are sent (R82, R265, R334). -/
def State.drainWrites (s : State) (d : DrainOut) (writes : List Nat) : State :=
  let b := d.cmd.blockH
  ((s.putBlock b d.block true false).putEntries b true fun s ti tj => some (s.formTile b ti tj d.unver)).flushFar d.cmd.org d.cmd.farName writes

/-- The continuation of an MDRAINH whose writes are performed. The SEQ of its completion word is not stated: free (DESIGN CHOICE, log 28). -/
def State.drainEnd (s : State) (d : DrainOut) : State :=
  let m := d.cmd
  let b := m.blockH
  let seq := (Config.freeByte s.steps 0).toNat + 256 * (Config.freeByte s.steps 1).toNat
  let unver := d.unver && b.tiles.any fun p => s.entryDue b true p.1 p.2
  s.finishCont m.cur m.org 2 (m.vals.getD 2 0) (completionWord seq false unver false (b.statusOf b.count) b.count)

/-- MDRAINH_WRITES_PERFORMED: the oldest MDRAINH whose writes are in flight has performed them (R265, R273); those in another module when they
have been acknowledged there. -/
def execMdrainhWritesPerformed (core : Nat) (s : State) : Out :=
  match (s.core core).drains with
  | [] => .next s
  | d :: rest =>
    let m := d.cmd
    let b := m.blockH
    let t := (s.modCore core fun k => { k with drains := rest }).sealIf m.cur m.org
    let writes := s.blockKeys b .write
    if d.sent then .next (if s.farOut m.farName 4 then s else t.drainEnd d)
    else if s.readsAhead core m.seq writes || s.behindParked writes then .next s
    else if s.hostCut b then .next (t.dropHostWrite 4 b.firstAddr m.org)
    else match (if b.r.packed then s.awaitFar m.org m.farName (s.dataKeys b .write) else none) with
      | some t => .next t
      | none =>
        if writes.any (keySpace · == 8) then
          .next (((s.modCore core fun k => { k with drains := { d with sent := true } :: rest }).sealIf m.cur m.org).drainWrites d writes)
        else .next ((t.drainWrites d writes).drainEnd d)

end Sys2Proof.Machine
end

