-- ==== Sys2Proof/Machine/Copy.lean ====
section
/-! DEFINITION. The copy engine: block moves, fills, puts, formats and rime maintenance, at issue and when they are complete (12, R268 to
R283, R288, R292, R293; 22, R410, R417). -/
namespace Sys2Proof.Machine

/-! Issue. -/

/-- The bits of an X issue slot. -/
def xBits (i : Instr) : Word := (encodeX i).getD 0

/-- The opcode of an X command (R179). -/
def xOpcode (i : Instr) : Nat := (xBits i).toNat / 2 ^ 58

/-- The common fields of an X command. -/
def xfOf (i : Instr) : XF :=
  match i with
  | .xcopy f | .xgath f | .xscat f | .xfill f | .xput f _ | .xtbl f | .xcoll f _ _ _ | .xroute f _ _ | .xrsnap f _ | .xexpa f _
  | .xexpr f _ | .xfmt f _ _ | .xrime f _ => f
  | _ => ⟨0, 0, 0, 0, 0, 0, 0, 0, 0⟩

/-- The command as it stands at issue (R268, R269): register values captured; a copy-out does not start. -/
def State.xcmd (s : State) (i : Instr) : XCmd :=
  let f := xfOf i
  let k := s.core s.iss.core
  let (e1, e2) := match i with
    | .xput _ t => (s.rd t, 0)
    | .xcoll _ p r _ => (s.rd p, s.rd r)
    | .xexpa _ x | .xexpr _ x => (s.rd x, 0)
    | _ => (0, 0)
  { seq := k.xseq % 65536, ord := k.mseq, instr := i, dr := s.rd f.dr, dc := s.rd f.dc, sr := s.rd f.sr, sc := s.rd f.sc,
    k := if f.k = 0 then 0 else s.rd f.k, e1 := e1, e2 := e2, drec := [], srec := [], list := [], cout := f.cout == 1,
    started := f.cout == 0, stage := 0, nocont := false, status := 0, valid := 0, refetch := false, cur := true, org := s.iss.org }

/-- An X command takes its queue entry, and its buffer entry under BUF, or its bundle is held (R268, R274). -/
def State.enqueueX (s : State) (x : XCmd) : Attempt State :=
  let c := s.iss.core
  let f := xfOf x.instr
  if (s.core c).xq.length ≥ 16 then .error s.hold
  else .ok (s.modCore c fun k =>
    { k with
      xq := k.xq ++ [x]
      xseq := k.xseq + 1
      mseq := k.mseq + 1
      bufs := if f.bufv = 1 then k.bufs.set f.buf.toNat ⟨xBits x.instr, [x.dr, x.dc, x.sr, x.sc]⟩ else k.bufs })

/-- An X command refused at issue (R417). -/
def State.refuseX (s : State) (i : Instr) (reason : Nat) (a : Option Word) : State := s.refuse 4 (xOpcode i) reason a

/-- The continuation word of a command is accepted (R293). -/
def State.wordOk (s : State) (x : XCmd) : Attempt Unit :=
  match contBad x.k with | some e => .error (s.wordFault 4 x.k e) | none => .ok ()

/-- A misaligned address of a copy-slot command (R417). -/
def State.alignX (s : State) (i : Instr) (lg : Nat) (a : Word) : Attempt Unit :=
  need (a.toNat % 2 ^ lg == 0) (s.takeFault ⟨2, s.seqLoc, leBytes 1 4 ++ leBytes 1 (xOpcode i) ++ leBytes 2 0 ++ leBytes 1 lg, some a⟩)

/-- Every address of a block is in the map and in its space, or the command is refused whole (R270, R380). -/
def State.blockIn (s : State) (b : Block) (acc : Acc) (path : Nat) (rime : Bool) : Attempt Unit :=
  match s.blockFault b acc (if rime then some acc else none) with
  | some (n, e, a) => .error (s.outOfMap (if acc = .write then 1 else 0) path 0 n (e, a))
  | none => .ok ()

/-- Two records agree as a move needs (R277): format, geometry, and the place of dimension 0 for MX formats. -/
def movable (d r : Shape) : Bool :=
  d.fmt == r.fmt && d.trows == r.trows && d.tcols == r.tcols
    && (!isMx d.fmt || (d.coldim == 0 && r.coldim == 0) || (d.rowdim == 0 && r.rowdim == 0))

/-- A target in the layout of COREID is present (R283): a die of 0 to 7, an enabled cluster where the space uses one, a module of the
system. -/
def State.present (s : State) (w : Word) (space : Nat) : Bool :=
  let c := coreidCore w
  decide (w.toNat / 2 ^ 6 % 2 ^ 10 ≤ 7) && s.reaches (coreidModule w)
    && (coreidModule w != s.hub.module || space == 3 || s.enabled (dieOf c) (clusterOf c % 16))

/-- The records of a move fetched and checked (R270, R277): which may be a gather or scatter record is given, with the further rule. -/
def State.moveRecs (s : State) (x : XCmd) (rule : Shape → Shape → Bool) : Attempt (XCmd × State) := do
  let op := xOpcode x.instr
  s.wordOk x
  let (db, s1) ← s.goodRec 4 op x.dr
  let (sb, s2) ← s1.goodRec 4 op x.sr
  let d := Shape.parse db
  let r := Shape.parse sb
  need (movable d r && rule d r && (!x.moves s.hub.module || s.carriedOk s.iss.src.ctxid d) && s.carriedOk s.iss.src.ctxid r)
    (s.refuseX x.instr 2 (some x.dr))
  .ok ({ x with drec := db, srec := sb }, s2)

/-- BUF takes a destination on the chip (R274). -/
def bufSpace (i : Instr) (d : Shape) : Bool := (xfOf i).bufv == 0 || d.space != 0

/-- Neither block breaks CLIP 1 (R91). -/
def State.clipOk (s : State) (x : XCmd) : Attempt Unit := do
  need (x.dst.r.clip == 0 || x.dst.whole) (s.refuseX x.instr 3 (some x.dr))
  need (x.src.r.clip == 0 || x.src.whole) (s.refuseX x.instr 3 (some x.sr))

/-- The blocks of a move are translated, and its offsets in a C or K space range-checked, those of another module too; the G space and the D window
of another module's context are its own to translate (R270, R283). What a reduction reads at the peer is read there too (R285). -/
def State.moveIn (s : State) (x : XCmd) (path : Nat) (reduces : Bool) : Attempt Unit := do
  let here := x.moves s.hub.module
  s.blockIn x.src .read path (x.src.r.rime == 2)
  if reduces && here then s.blockIn x.dst .read path (x.dst.r.rime == 2) else .ok ()
  if here || x.dst.r.space == 1 || x.dst.r.space == 2 then s.blockIn x.dst .write path (x.dst.r.rime != 0) else .ok ()

/-- XNOP (R179). -/
def execXnop (g : Guard) (s : State) : Out := s.under g (.next s)

/-- XCOPY at issue (R277). -/
def execXcopy (f : XF) (s : State) : Out :=
  s.under f.g (settle (do
    let i := Instr.xcopy f
    let (x, t) ← s.moveRecs (s.xcmd i) fun d r => d.idxfmt == 0 && r.idxfmt == 0 && bufSpace i d
    s.clipOk x
    s.moveIn x 1 false
    t.enqueueX x))

/-- XGATH at issue, its first step (R280): the list's addresses are translated; the entries are read later. An element that is out of
extent whatever they hold is known here (R91). -/
def execXgath (f : XF) (s : State) : Out :=
  let c := s.iss.core
  s.under f.g (settle (do
    let i := Instr.xgath f
    let (x, t) ← s.moveRecs (s.xcmd i) fun d r =>
      d.idxfmt == 0 && r.idxfmt != 0 && bufSpace i d && (!isMx d.fmt || (d.coldim == 0 && r.coldim == 0))
    need (x.dst.r.clip == 0 || x.dst.whole) (s.refuseX i 3 (some x.dr))
    need (x.src.r.clip == 0 || { x.src with list := List.replicate x.src.r.trows 0 }.whole) (s.refuseX i 3 (some x.sr))
    (match s.listIssue c s.iss.src.ctxid x.src.r x.src.y0 with
     | .error (n, e, a) => .error (s.outOfMap 4 1 1 (n * x.src.r.tcols) (e, a))
     | .ok _ => .ok () : Attempt Unit)
    s.blockIn x.dst .write 1 (x.dst.r.rime != 0)
    t.enqueueX x))

/-- XSCAT at issue (R281): the list is read and every address translated. -/
def execXscat (f : XF) (s : State) : Out :=
  let c := s.iss.core
  s.under f.g (settle (do
    let i := Instr.xscat f
    let (x, t) ← s.moveRecs (s.xcmd i) fun d r => d.idxfmt != 0 && d.rime == 0 && r.idxfmt == 0
    let (list, t) ← t.issueList x.dst.r x.dst.y0 1 0 (s.copyAhead c x.ord)
    let x := { x with list := list }
    s.clipOk x
    s.moveIn x 1 false
    t.enqueueX x))

/-- XFILL at issue (R282). -/
def execXfill (f : XF) (s : State) : Out :=
  let c := s.iss.core
  s.under f.g (settle (do
    let i := Instr.xfill f
    let x := s.xcmd i
    s.wordOk x
    let (b, t) ← s.goodRec 4 0x04 x.dr
    let d := Shape.parse b
    need ((d.idxfmt == 0 || d.rime == 0) && bufSpace i d && s.carriedOk s.iss.src.ctxid d) (s.refuseX i 2 (some x.dr))
    let x := { x with drec := b }
    let (list, t) ← t.issueList d x.dst.y0 1 0 (s.copyAhead c x.ord)
    let x := { x with list := list }
    need (d.clip == 0 || x.dst.whole) (s.refuseX i 3 (some x.dr))
    s.blockIn x.dst .write 1 (d.rime != 0)
    t.enqueueX x))

/-- XPUT at issue (R283). -/
def execXput (f : XF) (into : SReg) (s : State) : Out :=
  s.under f.g (settle (do
    let i := Instr.xput f into
    let (x, t) ← s.moveRecs (s.xcmd i) fun d r => d.idxfmt == 0 && r.idxfmt == 0 && d.space != 0
    need (s.present x.e1 x.dst.r.space) (s.refuseX i 5 none)
    s.clipOk x
    s.moveIn x 1 false
    t.enqueueX x))

/-- XFMT at issue (R288): the entries' addresses are translated. -/
def execXfmt (f : XF) (first count : BitVec 4) (s : State) : Out :=
  s.under f.g (settle (do
    let i := Instr.xfmt f first count
    let x := s.xcmd i
    s.wordOk x
    s.alignX i 4 x.sr
    (match s.spanKeys s.iss.core s.iss.src.ctxid .g x.sr (16 * (count.toNat + 1)) .read with
     | .error e => .error (s.outOfMap 0 5 0 0 e)
     | .ok _ => .ok () : Attempt Unit)
    s.enqueueX x))

/-- XRIME at issue (R292). -/
def execXrime (f : XF) (mode : BitVec 2) (s : State) : Out :=
  s.under f.g (settle (do
    let i := Instr.xrime f mode
    let x := s.xcmd i
    s.wordOk x
    let (b, t) ← s.goodRec 4 0x0D x.dr
    let d := Shape.parse b
    need (d.rime != 0 && d.idxfmt == 0 && (mode != 2 || d.rime == 2) && s.carriedOk s.iss.src.ctxid d) (s.refuseX i 2 (some x.dr))
    let x := { x with drec := b }
    need (!d.inSlot) (s.outOfMap 0 1 0 0 (7, BitVec.ofNat 64 d.base))
    need (d.clip == 0 || x.dst.whole) (s.refuseX i 3 (some x.dr))
    s.blockIn x.dst .read 1 (mode == 1)
    (match (if mode = 1 then none else s.blockFault x.dst .read (some .write)) with
      | some (n, e, a) => .error (s.outOfMap 1 1 0 n (e, a))
      | none => .ok () : Attempt Unit)
    t.enqueueX x))

/-! What a command leaves when it is done. -/

/-- What a command's effect found: damaged bytes that may not leave the module, a mismatch or a dropped write are dealt with in the state;
else the command goes on with its counts. -/
structure Moved where
  state : State
  valid : Nat
  status : Nat
  rbad : Bool
  runver : Bool
  rreform : Bool

/-- The copy engine of a core as a reporting unit (R356). -/
def engineLoc (c : Nat) : Loc := locCore 7 c 0xFF

/-- A command leaves the queue, and what it read of other modules is let go. -/
def State.popX (s : State) (c : Nat) (x : XCmd) : State :=
  { s with far := s.far.del x.farName }.modCore c fun k => { k with xq := k.xq.filter fun y => y.name != x.name }

/-- A command in the queue replaced. -/
def State.putX (s : State) (c : Nat) (x : XCmd) : State :=
  s.modCore c fun k => { k with xq := k.xq.map fun y => if y.name = x.name then x else y }

/-- What a command that fails leaves: one of an earlier phase leaves the queue, one of the present phase went with it (R368, R380). -/
def XCmd.gone (x : XCmd) (c : Nat) (t : State) : State := if x.cur then t else t.popX c x

/-- The engine has begun with the command, or may begin: it is started, and at most three that issued before it are unfinished (R268). -/
def Core.inEngine (k : Core) (x : XCmd) : Bool := x.started && decide ((k.xq.countP fun y => y.started && decide (y.ord < x.ord)) < 4)

/-- The command's continuation with its completion word, or none (R272, R273, R274). -/
def State.endX (s : State) (x : XCmd) (w : Word) : State := if x.nocont then s else s.finishCont x.cur x.org (if xPath x.instr = 4 then 12 else 7) x.k w

/-- STATUS with the flags of the completion word above it (R272). -/
def Moved.flags (m : Moved) : Nat := m.status + 256 * m.rreform.toNat + 512 * m.runver.toNat + 1024 * m.rbad.toNat

/-- A command's effect is performed. What it wrote in other modules is sent, and the command waits for the acknowledgements (R82, R334); it waits
too where its completion is an event of its own; else it is complete: it leaves the queue and its continuation is applied (R268, R273). -/
def Moved.finish (m : Moved) (c : Nat) (x : XCmd) (writes : List Nat) (waits : Bool) : State :=
  let s := m.state.flushFar x.org x.farName writes
  if waits || writes.any (keySpace · == 8) then s.putX c { x with stage := 3, status := m.flags, valid := m.valid }
  else (s.popX c x).endX x (completionWord x.seq m.rbad m.runver m.rreform m.status m.valid)

/-- Accesses of a command that count for its phase (R369): those of its own phase, but a refetch's. -/
def State.counts (s : State) (x : XCmd) : Bool := x.cur && !x.refetch && s.running x.org

/-- The reads and writes of a command noted by its phase; a write outside the core and its C space cannot be taken back (R369). -/
def State.noteCmd (s : State) (x : XCmd) (reads writes : List Nat) : State :=
  let c := x.org.core.getD 0
  if s.counts x then
    let s := (s.noteReadKeys c reads).noteWriteKeys c writes
    if writes.any fun k => keySpace k ≤ 2 || keySpace k == 8 then s.irrevocable c else s
  else s

/-- The bits of a block's element as a move reads it (R91). -/
def State.cellBits (s : State) (b : Block) (acc : Acc) (i j : Nat) : Nat := (s.tileBits b acc (i / 32) (j / 32) (i % 32) (j % 32)).1

/-- The entries that a source of RIME 2 carries, tile by tile; whether one was formed on reading (R125, R278). -/
def State.carriedEntries (s : State) (b : Block) : List ((Nat × Nat) × RimeEnt) × Bool × State :=
  b.tiles.foldl (fun (x : List ((Nat × Nat) × RimeEnt) × Bool × State) p =>
    match x.2.2.carriedEntry b p.1 p.2 6 (x.2.2.tileSums b .read p.1 p.2) with
    | some (e, formed, s) => (x.1 ++ [(p, e)], x.2.1 || formed, s)
    | none => x) ([], false, s)

/-- The damaged sectors of the entry of a tile in a C, K or D space, which a move carries with it (R383). -/
def State.entryHurt (s : State) (b : Block) (ti tj : Nat) : List Nat :=
  if b.r.space = 0 ∨ s.poison.isEmpty ∨ !b.tileIn ti tj then []
  else match s.blkKeys b (b.rimeAddr ti tj) 256 .read with
    | .ok (k :: _) => (List.range 8).filter fun n => s.damaged (k + 32 * n) 32
    | _ => []

/-- Elements that lie off the module, host memory or another module, take no damaged bytes (R386; DEDUCED, log 55): the first damaged byte bound for one. -/
def State.leaks (s : State) (src dst : Block) : Option Nat :=
  if s.poison.isEmpty then none
  else
    let off (e : Except (Nat × Word) (List Nat × Nat)) : Bool := match e with
      | .ok (ks, _) => ks.any fun k => keySpace k == 2 || keySpace k == 8
      | .error _ => false
    let cell := dst.cells.find? fun p =>
      let (ok, xs) := dst.at p.1 p.2
      ok && s.cellHurt src .read p.1 p.2 && off (s.elemKeys dst .write xs)
    match cell with
    | some _ => some ((s.hurtKey (s.dataKeys src .read)).getD 0)
    | none => none

/-- How many elements a move of a block counts: those in extent in both records (R91). -/
def countBoth (src dst : Block) : Nat := dst.cells.countP fun p => (dst.at p.1 p.2).1 && (src.at p.1 p.2).1

/-- The rime that a tile of a move's destination receives (R93, R126, R278): the entry that came with it; formed rime with its UNVER; else formed rime,
UNVER where the source has values there that nothing verified. -/
def State.movedEntry (s : State) (src dst : Block) (carries : Bool) (ents : List ((Nat × Nat) × RimeEnt)) (ti tj : Nat) : RimeEnt :=
  match ents.find? fun p => p.1 == (ti, tj) with
  | some (_, e) => if dst.r.rime = 2 then e else s.formTile dst ti tj e.unver
  | none => s.formTile dst ti tj (!(carries && !src.tileIn ti tj))

/-- A block move performed (R277, R278, R280, R281, R283): elements, scales, rime. A gather or a scatter carries no rime. -/
def State.moveBlock (s : State) (x : XCmd) : Except State Moved :=
  let src := x.src
  let dst := x.dst
  let c := x.org.core.getD 0
  match s.leaks src dst with
  | some k => .error (s.cmdConsume x.cur x.org (engineLoc c) 4 (some k))
  | none =>
    if s.hostCut dst then .error ((s.popX c x).dropHostWrite 4 dst.firstAddr x.org)
    else
      let carries := src.r.rime == 2 && src.r.idxfmt == 0 && dst.r.rime != 0
      let reads := s.dataKeys src .read
      let overlap := reads.any (s.dataKeys dst .write).contains
      let (ents, formed, s1) := if carries then s.carriedEntries src else ([], false, s)
      let scaleHurt (i j : Nat) : Bool := !s.poison.isEmpty && (match s.blkKeys src (src.r.scaleAddr (src.at i j).2) 1 .read with
        | .ok ks => (s.hurtKey ks).isSome
        | .error _ => false)
      let hurtEnt (ti tj : Nat) : List Nat := if carries && dst.r.rime == 2 then s.entryHurt src ti tj else []
      let anyHurt := s.hurtKey (reads ++ if carries ∧ src.r.space ≠ 0 then s.rimeKeys src .read else [])
      let s1 := s1.noteCmd x reads (s.blockKeys dst .write)
      let s1 := s1.putBlock dst ⟨fun st i j => some (st.cellBits src .read i j), fun st i j => some (st.readScale src .read i j)⟩ carries overlap
      let s1 := if anyHurt.isSome then s1.poisonBlock dst (s.cellHurt src .read) scaleHurt fun _ _ => [] else s1
      let due := dst.tiles.filter fun p => s1.entryDue dst carries p.1 p.2
      let runver := due.any fun p => (s1.movedEntry src dst carries ents p.1 p.2).unver
      let s1 := s1.putEntries dst carries fun st ti tj => some (st.movedEntry src dst carries ents ti tj)
      let s1 := match anyHurt with
        | some k => (s1.poisonBlock dst (fun _ _ => false) (fun _ _ => false) fun ti tj => if due.contains (ti, tj) then hurtEnt ti tj else []).carryPoison
            x.org (engineLoc c) k
        | none => s1
      let n := countBoth src dst
      .ok ⟨s1, if dst.r.idxfmt ≠ 0 then dst.count else n, dst.statusOf n, false, runver, formed⟩

/-- XFILL performed (R282): the pattern stands for FILL too. -/
def State.fillBlock (s : State) (x : XCmd) : Except State Moved :=
  let dst := { x.dst with r := { x.dst.r with fill := x.sr.toNat % 2 ^ 32 } }
  let c := x.org.core.getD 0
  if s.hostCut dst then .error ((s.popX c x).dropHostWrite 4 dst.firstAddr x.org)
  else
    let s := s.noteCmd x [] (s.blockKeys dst .write)
    let s := s.putBlock dst ⟨fun _ _ _ => some dst.r.fillBits, fun _ _ _ => none⟩ true false
    let s := s.putEntries dst true fun st ti tj => some (st.formTile dst ti tj false)
    .ok ⟨s, dst.count, dst.statusOf dst.count, false, false, false⟩

/-- The key of a tile's entry. -/
def State.entryAt (s : State) (b : Block) (ti tj : Nat) (acc : Acc) : Option Nat :=
  match s.blkKeys b (b.rimeAddr ti tj) 1 acc with
  | .ok [k] => some k
  | _ => none

/-- The entry as XRIME checks it: carried entries are formed first where their tags demand it (R125, R292). -/
def State.storedEntry (s : State) (b : Block) (ti tj : Nat) : Option (RimeEnt × Bool × State) :=
  if b.r.rime = 2 then s.carriedEntry b ti tj 6 (s.tileSums b .read ti tj)
  else if !b.tileIn ti tj then none
  else (s.entryAt b ti tj .read).map fun k => (if b.r.space = 0 then s.carriedAt k else s.rimeAt k, false, s)

/-- XRIME performed (R292). Rime formed or checked from damaged bytes is consumption (R384). -/
def State.rimeBlock (s : State) (x : XCmd) (mode : Nat) : Except State Moved :=
  let b := x.dst
  let c := x.org.core.getD 0
  let tiles := b.tiles.filter fun p => b.tileIn p.1 p.2
  let data := s.dataKeys b .read
  let status := if b.whole then 0 else 1
  match s.hurtKey (data ++ if mode = 1 then s.rimeKeys b.plain .read else []) with
  | some k => .error (s.cmdConsume x.cur x.org (engineLoc c) 0 (some k))
  | none =>
    if mode = 1 then
      let s := s.noteCmd x (data ++ s.rimeKeys b .read) []
      let (bad, formed, s) := tiles.foldl (fun (a : Nat × Bool × State) p =>
        match a.2.2.storedEntry b p.1 p.2 with
        | none => a
        | some (e, f, s) =>
          let t := tolT (tolBase 0 (s.core c).csrs.rimetol) (ceilLog2 (1 + e.refresh))
          let st := checkTile t (s.tileVals b .read p.1 p.2) e.sums
          (a.1 + (badLines st).length, a.2.1 || f, s.addUnchk c (unchecked st))) (0, false, s)
      .ok ⟨s, bad, status, decide (bad ≠ 0), false, formed⟩
    else
      let s := s.noteCmd x data (s.rimeKeys b .write)
      let s := tiles.foldl (fun s p =>
        match s.entryAt b p.1 p.2 .write with
        | none => s
        | some k =>
          let sums := s.tileSums b .read p.1 p.2
          let s := if mode = 2 ∧ b.r.space = 0 then
              (s.readCarried b.ctx (entFld (s.region b.ctx (addrWord b.r.base)) 80 4) 6 (addrWord (b.rimeAddr p.1 p.2)) k sums).2.2
            else s
          s.putRime k ⟨sums, mode == 0, 0⟩) s
      .ok ⟨s, tiles.length, status, false, decide (mode = 0 ∧ tiles ≠ []), false⟩

/-- XFMT performed (R288): entries stand as they are. -/
def State.loadFmts (s : State) (x : XCmd) (first count : Nat) : Except State Moved :=
  let c := x.org.core.getD 0
  match s.spanKeys c x.org.ctx .g x.sr (16 * count) .read with
  | .error (r, a) => .error (s.lateFault x.org (mapFault (engineLoc c) 0 r 5 0 0 a))
  | .ok ks =>
    match s.hurtKey ks with
    | some k => .error (s.cmdConsume x.cur x.org (engineLoc c) 5 (some k))
    | none =>
      let b := ks.map (Memory.read s.mem)
      let s := if s.counts x then (s.noteReadKeys c ks).modPhase c fun p => p.noteWrites ((List.range count).map fun n => fmtGranule (first + n)) else s
      let s := s.modCore c fun k =>
        { k with fmts := (List.range count).foldl (fun (t : Tbl Quad) n => t.set (first + n) (BitVec.ofNat 128 (byteNum b (16 * n) 16))) k.fmts }
      .ok ⟨s, count, 0, false, false, false⟩

/-! Refetches (R274, R381, R384). -/

/-- Bytes of memory that a command of a core reads for itself, a record or a list: asked for where another module holds them, consumption where
damaged, else read. -/
def State.readOwn (s : State) (x : XCmd) (keys : List Nat) : Except State State :=
  let c := x.org.core.getD 0
  match s.awaitFar x.org x.farName keys with
  | some t => .error t
  | none => match s.hurtKey keys with
    | some k => .error (x.gone c (s.cmdConsume x.cur x.org (engineLoc c) 0 (some k)))
    | none => .ok (s.reform keys)

/-- The record of a reissued command read again from memory. -/
def State.rereadRec (s : State) (x : XCmd) (v : Word) : Except State (List Byte × State) :=
  let c := x.org.core.getD 0
  let bad : State := x.gone c (s.lateFault x.org (refused (engineLoc c) 4 (xOpcode x.instr) 1 2 (some v)))
  match recordPlace v with
  | none => .error bad
  | some (sp, a) =>
    match s.spanKeys c x.org.ctx sp a 192 .read with
    | .error (e, a) => .error (x.gone c (s.lateFault x.org (mapFault (engineLoc c) 0 e 1 4 0 a)))
    | .ok ks => do
      let t ← s.readOwn x ks
      let b := ks.map (Memory.read t.mem)
      if shapeBad b then .error bad else .ok (b, t)

/-- The list of a reissued command read again from memory. -/
def State.rereadList (s : State) (x : XCmd) (b : Block) : Except State (List Nat × State) :=
  let c := x.org.core.getD 0
  if b.r.idxfmt = 0 then .ok ([], s)
  else match s.listIssue b.core b.ctx b.r b.y0 with
    | .error (n, e, a) => .error (x.gone c (s.lateFault x.org (mapFault (engineLoc c) 4 e 1 4 (n * b.r.tcols) a)))
    | .ok ks => do
      let t ← s.readOwn x ks.flatten
      .ok (t.listVals ks, t)

/-- The records of a reissued command read again from memory and its addresses translated; a fault cancels the task with step 4. -/
def State.reissue (s : State) (x : XCmd) : Except State (XCmd × State) :=
  if !x.refetch then .ok (x, s)
  else
    let c := x.org.core.getD 0
    let fill := match x.instr with | .xfill _ => true | _ => false
    let late (s : State) (kind : Nat) (q : Nat × Nat × Word) : State :=
      x.gone c (s.lateFault x.org (mapFault (engineLoc c) kind q.2.1 1 4 q.1 q.2.2))
    do
      let (d, s) ← s.rereadRec x x.dr
      let (sr, s) ← if fill then .ok ([], s) else s.rereadRec x x.sr
      let y := { x with drec := d, srec := sr }
      let (list, s) ← s.rereadList y (if fill then y.dst else y.src)
      let y := { y with list := list }
      match (if fill then none else s.blockFault y.src .read (if y.src.r.rime = 2 then some .read else none)) with
      | some q => .error (late s 0 q)
      | none =>
        match s.blockFault y.dst .write (if y.dst.r.rime = 0 then none else some .write) with
        | some q => .error (late s 1 q)
        | none => .ok (y, s)

/-- XGATH_ROW_STEP: the list entries of the n-th command have arrived; the rows they select are translated, or the command is
cancelled (R280, R381; DEDUCED, log 31). -/
def execXgathRowStep (core n : Nat) (s : State) : Out :=
  match takeAt (s.core core).xq n with
  | none => .next s
  | some (x, _) =>
    match x.instr with
    | .xgath f =>
      if x.stage ≠ 0 ∨ x.refetch ∨ !(s.core core).inEngine x then .next s
      else match s.listKeys core x.org.ctx x.src.r x.src.y0 with
        | .error (i, e, a) => .next (x.gone core (s.lateFault x.org (mapFault (engineLoc core) 4 e 1 1 (i * x.src.r.tcols) a)))
        | .ok ks =>
          if s.copyAhead core x.ord ks.flatten then .next s
          else match s.readOwn x ks.flatten with
            | .error t => .next t
            | .ok s =>
              let y := { x with list := s.listVals ks, stage := 1 }
              let s := if s.counts x then s.noteReadKeys core ks.flatten else s
              if y.src.r.clip ≠ 0 ∧ !y.src.whole then
                .next (x.gone core (s.lateFault x.org (refused (engineLoc core) 4 (xOpcode (.xgath f)) 1 3 (some x.sr))))
              else match s.blockFault y.src .read none with
                | some (i, e, a) => .next (x.gone core (s.lateFault x.org (mapFault (engineLoc core) 0 e 1 2 i a)))
                | none => .next ({ s with far := s.far.del x.farName }.putX core y)
    | _ => .next s

end Sys2Proof.Machine
end

