-- ==== Sys2Proof/Machine/XDone.lean ====
section
/-! DEFINITION. The end of copy-engine commands: moves within the module and puts to another, table fills, collective steps (12, R268,
R272 to R287; 03, R58, R59; 15, R334; 21, R397; 22, R417). -/
namespace Sys2Proof.Machine

/-! Messages to another module (R283, R334). -/

/-- Bytes under construction: for each address a mask of the bits that are set and their value. -/
abbrev Wire := Tbl (Nat × Nat)

/-- Bits of a value laid at a bit of an address. -/
def Wire.lay (w : Wire) (addr bit width v : Nat) : Wire :=
  let m := (2 ^ width - 1) * 2 ^ bit
  let x := v % 2 ^ width * 2 ^ bit
  (List.range ((bit + width + 7) / 8)).foldl (fun (w : Wire) n =>
    let mb := m / 256 ^ n % 256
    let (m0, v0) := w.get (addr + n) (0, 0)
    w.set (addr + n) (Nat.lor m0 mb, v0 - Nat.land v0 mb + x / 256 ^ n % 256)) w

/-- The bytes; bits of a byte that the block does not hold are free (DESIGN CHOICE, log 22). -/
def Wire.bytes (w : Wire) (step : Nat) : List (Nat × Byte) :=
  w.map fun p => (p.1, BitVec.ofNat 8 (Nat.lor p.2.2 (Nat.land (Config.freeByte step p.1).toNat (255 - p.2.1))))

/-- Runs of contiguous bytes, at most 224 to a run (R334). -/
def byteRuns (l : List (Nat × Byte)) : List (Nat × List Byte) :=
  match l with
  | [] => []
  | (a, b) :: l =>
    match byteRuns l with
    | (n, bs) :: r => if n = a + 1 ∧ bs.length < 224 then (a, b :: bs) :: r else (a, [b]) :: (n, bs) :: r
    | [] => [(a, [b])]

/-- The cells of a block that receive an element. -/
def Block.inside (b : Block) : List (Nat × Nat) := b.cells.filter fun p => (b.at p.1 p.2).1

/-- The destination bytes of a put or a collective step to another module: elements and scales, and the entries of carried rime (R278, R283). -/
def State.wire (s : State) (x : XCmd) (ents : List ((Nat × Nat) × RimeEnt)) : Wire :=
  let src := x.src
  let dst := x.dst
  let w := dst.inside.foldl (fun (w : Wire) p =>
    let v := s.cellBits src .read p.1 p.2
    let (a, bit) := dst.r.addr (dst.at p.1 p.2).2
    if dst.r.packed then w.lay a.toNat bit (elemBits dst.r.fmt) v
    else w.lay a.toNat 0 (8 * dst.r.span bit) (if isMx dst.r.fmt then toBits 8 (signedOf (elemBits dst.r.fmt) v) else v)) []
  let w := dst.scaleCells.foldl (fun (w : Wire) p =>
    let (ok, xs) := dst.at p.1 p.2
    if ok then w.lay (dst.r.scaleAddr xs).toNat 0 8 (s.readScale src .read p.1 p.2) else w) w
  if dst.r.rime ≠ 2 then w
  else (ents.filter fun q => dst.tileIn q.1.1 q.1.2).foldl (fun (w : Wire) q =>
    q.2.sums.zipIdx.foldl (fun (w : Wire) v => w.lay (dst.rimeAddr q.1.1 q.1.2 + 4 * v.2) 0 32 v.1) w) w

/-- The header fields of a put or collective step (R334). -/
def XCmd.flitTo (x : XCmd) (kind op : Nat) : FlitTo :=
  let t := coreidCore x.e1
  ⟨coreidModule x.e1, t / 64, t / 4 % 16, t % 4, x.dst.r.space, op, kind, x.org.ctx, dieOf (x.org.core.getD 0)⟩

/-- A put or collective step sent to another module (R283 to R285, R334): its flits, what its target must know beside them, the flit of its
continuation, and the answer that is awaited. With no flit to send the command is done. -/
def State.sendParts (s : State) (c : Nat) (x : XCmd) (op : Nat) (ents : List ((Nat × Nat) × RimeEnt)) (word : Word) (tiles : List TileNote) : State :=
  let f := x.flitTo (if op = 0 ∧ (x.instr matches .xput _ _) then 2 else 3) op
  let cont := contKind x.k ≠ 0
  let parts := (byteRuns ((s.wire x ents).bytes s.steps)).map fun p => (p.1 % 2 ^ 48, p.2)
  let parts := if cont then parts ++ [(0, leBytes 8 x.k.toNat ++ leBytes 8 word.toNat)] else parts
  if parts = [] then s.popX c x
  else
    let tag := (s.nextSeq f + parts.length - 1) % 65536
    let s := s.sendNoted f parts (some ⟨x.drec, x.dc, cont, tiles⟩)
    { s.putX c { x with stage := 2 } with
      remotes := s.remotes ++ [⟨tag, f.dstmod, f.ctx, [], x.name, parts.length, none, 2, x.dst.firstAddr, x.org, [], none⟩] }

/-- Damaged bytes of a source that may not leave the module (R386; DEDUCED, log 55): the first. -/
def State.sourceHurt (s : State) (src dst : Block) (carries : Bool) : Option Nat :=
  let ents := if carries then src.tiles.flatMap fun p => if s.entryHurt src p.1 p.2 = [] then [] else s.rimeKeys src .read else []
  if dst.inside.any fun p => s.cellHurt src .read p.1 p.2 then s.hurtKey (s.dataKeys src .read) else s.hurtKey ents

/-! Collective steps (R284 to R286). -/

/-- Reduce (R285): 1 add, 2 max, 3 min. -/
def reduce (fmt op d x : Nat) : Nat :=
  if fmt = 8 then
    match op with
    | 1 => (d + x) % 2 ^ 32
    | 2 => if signedOf 32 d < signedOf 32 x then x else d
    | _ => if signedOf 32 x < signedOf 32 d then x else d
  else
    let a := decodeF fmt d
    let b := decodeF fmt x
    roundF fmt .rne false (match op with | 1 => a.add .rne b | 2 => a.max2 b | _ => a.min2 b)

/-- What the check of one operand tile of a reduction found: its numbers of bad rows and columns, whether its rime had UNVER or was not
carried, whether an entry was formed, and the state (R134, R285). -/
def State.reduceCheck (s : State) (c : Option Nat) (b : Block) (ti tj : Nat) : Nat × Nat × Bool × Bool × State :=
  match s.carriedEntry b ti tj 5 (s.tileSums b .read ti tj) with
  | none => (0, 0, true, false, s)
  | some (e, formed, s) =>
    let l := checkTile (tolT 22 (ceilLog2 (1 + e.refresh))) (s.tileVals b .read ti tj) e.sums
    let bad := badLines l
    (bad.countP (· < 32), bad.countP (32 ≤ ·), e.unver, formed, match c with | some c => s.addUnchk c (unchecked l) | none => s)

/-- The report of a bad operand tile of a reduction (R397, R399; DEDUCED, log 31): nothing is corrected. -/
def State.reduceReport (s : State) (noCorr : Bool) (l : Loc) (o : Org) (nr nc : Nat) (b : Block) (ti tj : Nat) : State :=
  if nr = 0 ∧ nc = 0 then s
  else
    let v : Verdict := .bad (if noCorr then 5 else 3) 0 0
    let a := addrWord (b.r.addr (b.at (32 * ti) (32 * tj)).2).1
    s.post { v.record 5 nr nc 0 0 0 l (some a) o with sev := 0 }

/-- The keys that a reduction reads and that count as consumed where damaged: data, and entries that no tag stands for (R384, R400). -/
def State.reduceKeys (s : State) (b : Block) : List Nat := s.dataKeys b .read ++ s.rimeKeys b.asRead.plain .read

/-- A collective step sent to another module (R283 to R285). Under ops 1 to 3 the source tiles are checked as they leave (DESIGN CHOICE, log 22). -/
def State.sendBlock (s : State) (c : Nat) (x : XCmd) (op : Nat) : State :=
  let src := x.src
  let dst := x.dst
  let carries := src.r.rime == 2 && dst.r.rime != 0 && op == 0
  match s.sourceHurt src dst (src.r.rime == 2 && (carries || op != 0)) with
  | some k => x.gone c (s.cmdConsume x.cur x.org (engineLoc c) 4 (some k))
  | none =>
    let (ents, formed, s) := if carries then s.carriedEntries src else ([], false, s)
    let (tiles, formed, s) := (dst.tiles.filter fun p => dst.tileIn p.1 p.2).foldl (fun (a : List TileNote × Bool × State) p =>
      let (l, formed, s) := a
      if op = 0 then
        let e := (ents.find? fun q => q.1 == p).map (·.2)
        (l ++ [⟨p.1, p.2, (e.map (·.unver)).getD (!(carries && !src.tileIn p.1 p.2)), (e.map (·.refresh)).getD 0, dst.r.rime == 2 && e.isSome, false⟩], formed, s)
      else
        let (nr, nc, u, f, s) := s.reduceCheck (some c) src p.1 p.2
        let s := s.reduceReport (s.core c).noCorr (engineLoc c) x.org nr nc src p.1 p.2
        (l ++ [⟨p.1, p.2, u, 0, false, decide (nr + nc ≠ 0)⟩], formed || f, s)) (([], formed, s) : List TileNote × Bool × State)
    let n := countBoth src dst
    let written := op == 0 && dst.r.rime != 0 && (dst.r.rime != 2 || dst.r.space != 0 || carries)
    let word := completionWord x.seq (tiles.any (·.bad)) (written && tiles.any (·.unver)) formed (dst.statusOf n) n
    ((s.noteCmd x (s.dataKeys src .read) []).sealIf x.cur x.org).sendParts c x op ents word tiles

/-- What a reduction leaves: whether a check found a bad line, whether an entry was written with UNVER, whether one was formed, and the state. -/
structure Reduced where
  rbad : Bool
  runver : Bool
  formed : Bool
  state : State

/-- A reduction into the block that the peer resolved (R285): the destination tiles are checked, the elements that have arrived reduced into those
that stand, and the tiles' rime formed. The marks of the arriving tiles, bad and UNVER, are given, with the state that the elements come from. -/
def State.reduceInto (s : State) (c : Option Nat) (l : Loc) (noCorr : Bool) (o : Org) (dst : Block) (op : Nat) (overlap : Bool)
    (arrived : State → Nat → Nat → Option Nat) (mark : Nat → Nat → Bool × Bool) : Reduced :=
  let s0 := s
  let tiles := dst.tiles.filter fun p => dst.tileIn p.1 p.2
  let (marks, rbad, formed, s) := tiles.foldl (fun (a : List ((Nat × Nat) × Bool) × Bool × Bool × State) p =>
    let (marks, rbad, formed, s) := a
    let (nr, nc, u, f, s) := s.reduceCheck c dst p.1 p.2
    let s := s.reduceReport noCorr l o nr nc dst p.1 p.2
    let (bad, unver) := mark p.1 p.2
    let bad := bad || decide (nr + nc ≠ 0)
    (marks ++ [(p, u || unver || bad)], rbad || bad, formed || f, s)) (([], false, false, s) : List ((Nat × Nat) × Bool) × Bool × Bool × State)
  let out (st : State) (i j : Nat) : Option Nat := (arrived st i j).map (reduce dst.r.fmt op (s0.cellBits dst .read i j))
  let unver (ti tj : Nat) : Bool := ((marks.find? fun q => q.1 == (ti, tj)).map (·.2)).getD true
  let s := s.putBlock dst ⟨out, fun _ _ _ => none⟩ true overlap
  let runver := tiles.any fun p => s.entryDue dst true p.1 p.2 && unver p.1 p.2
  ⟨rbad, runver, formed, s.putEntries dst true fun st ti tj => some (st.formTile dst ti tj (unver ti tj))⟩

/-- A reduction performed at a peer of this module (R285): tile by tile, checks, results and rime. -/
def State.reduceBlock (s : State) (x : XCmd) (op : Nat) : Except State Moved :=
  let src := x.src
  let dst := x.dst
  let c := x.org.core.getD 0
  match s.hurtKey (s.reduceKeys src ++ s.reduceKeys dst) with
  | some k => .error (s.cmdConsume x.cur x.org (engineLoc c) 0 (some k))
  | none =>
    if s.hostCut dst then .error ((s.popX c x).dropHostWrite 4 dst.firstAddr x.org)
    else
      let overlap := (s.dataKeys src .read).any (s.dataKeys dst .write).contains
      let s1 := s.noteCmd x (s.dataKeys src .read ++ s.dataKeys dst .read) (s.blockKeys dst .write)
      let (marks, f1, s1) := (dst.tiles.filter fun p => dst.tileIn p.1 p.2).foldl (fun (a : List ((Nat × Nat) × Bool × Bool) × Bool × State) p =>
        let (nr, nc, u, f, s) := a.2.2.reduceCheck (some c) src p.1 p.2
        let s := s.reduceReport (s.core c).noCorr (engineLoc c) x.org nr nc src p.1 p.2
        (a.1 ++ [(p, decide (nr + nc ≠ 0), u)], a.2.1 || f, s)) (([], false, s1) : List ((Nat × Nat) × Bool × Bool) × Bool × State)
      let mark (ti tj : Nat) : Bool × Bool := ((marks.find? fun q => q.1 == (ti, tj)).map (·.2)).getD (false, true)
      let r := s1.reduceInto (some c) (engineLoc c) (s1.core c).noCorr x.org dst op overlap (fun st i j => some (st.cellBits src .read i j)) mark
      let n := countBoth src dst
      .ok ⟨r.state, n, dst.statusOf n, r.rbad, r.runver, f1 || r.formed⟩

/-- XCOLL at issue (R284): records of any space, equal formats and geometry, no index list. -/
def execXcoll (f : XF) (peer rel : SReg) (op : BitVec 2) (s : State) : Out :=
  s.under f.g (settle (do
    let i := Instr.xcoll f peer rel op
    let (x, t) ← s.moveRecs (s.xcmd i) fun d r =>
      d.idxfmt == 0 && r.idxfmt == 0 && (op == 0 || d.fmt == 0 || d.fmt == 1 || d.fmt == 2 || d.fmt == 8)
    need (s.present x.e1 x.dst.r.space) (s.refuseX i 5 none)
    s.clipOk x
    s.moveIn x 3 (op != 0)
    t.enqueueX x))

/-- XCOLL_RELEASE: the tick of the n-th command of a core has come; the step is performed (R285; DESIGN CHOICE, log 9), or sent to its module. -/
def execXcollRelease (core n : Nat) (s : State) : Out :=
  match takeAt (s.core core).xq n with
  | none => .next s
  | some (x, _) =>
    match x.instr with
    | .xcoll _ _ _ op =>
      if !(s.core core).inEngine x ∨ x.stage ≠ 0 ∨ s.frame < x.e2.toNat ∨ s.pathAhead core 3 x.ord (s.xReads x ++ s.xWrites x) then .next s
      else match s.awaitFar x.org x.farName (s.xReads x) with
        | some t => .next t
        | none =>
          let s := s.reform (s.xData x)
          if !x.moves s.hub.module then .next (s.sendBlock core x op.toNat)
          else match (if op = 0 then s.moveBlock x else s.reduceBlock x op.toNat) with
            | .error t => .next (x.gone core t)
            | .ok m => .next (m.finish core x (s.xWrites x) true)
    | _ => .next s

/-! Table fills (R59, R287). -/

/-- XTBL at issue (R287): alignment, the word, the header's addresses; the shadow bank is filling. -/
def execXtbl (f : XF) (s : State) : Out :=
  s.under f.g (settle (do
    let i := Instr.xtbl f
    let x := s.xcmd i
    s.wordOk x
    s.alignX i 5 x.sr
    (match s.spanKeys s.iss.core s.iss.src.ctxid .g x.sr 64 .read with
     | .error e => .error (s.outOfMap 0 5 0 0 e)
     | .ok _ => .ok () : Attempt Unit)
    let t ← s.enqueueX x
    .ok (t.modCore s.iss.core fun k => { k with shadowSt := .filling })))

/-- The n-th command of a core is its oldest fill at a stage (R59). -/
def State.fillAt (s : State) (core n stage : Nat) : Option XCmd :=
  match takeAt (s.core core).xq n with
  | some (x, _) =>
    let older := (s.core core).xq.any fun y => y.filling && decide (y.ord < x.ord) && decide (y.stage < 3)
    if x.filling && x.stage == stage && !older then some x else none
  | none => none

/-- The bytes of an image, or the reason and address of the first that is not in the map. -/
def State.imageBytes (s : State) (core : Nat) (x : XCmd) (n : Nat) : Except (Nat × Word) (List Nat) := s.spanKeys core x.org.ctx .g x.sr n .read

/-- The state of the shadow bank after a fill: filling while another waits (R69). -/
def State.shadowAfter (s : State) (core : Nat) (x : XCmd) (st : ShadowSt) : State :=
  s.modCore core fun k => { k with shadowSt := if k.xq.any (fun y => y.filling && y.name != x.name && decide (y.stage < 3)) then .filling else st }

/-- A header or a class byte fails: STATUS 2, the shadow bank failed, a record at severity 0 (R59, R408, R417). -/
def State.failFill (s : State) (core : Nat) (x : XCmd) (check : Nat) : State :=
  ((s.putX core { x with stage := 3, status := 2, valid := 0 }).shadowAfter core x .failed).post
    (mkRec 8 0 (engineLoc core) (leBytes 1 0 ++ leBytes 1 check) (some x.sr) (some x.org))

/-- An address of the image body out of map: nothing is written, the shadow bank has failed, the task is cancelled (R287, R381). -/
def State.lostFill (s : State) (core : Nat) (x : XCmd) (e : Nat × Word) : State :=
  x.gone core ((s.modCore core fun k => { k with shadowSt := .failed }).lateFault x.org (mapFault (engineLoc core) 0 e.1 5 5 0 e.2))

/-- Bytes of a table image read by a fill: asked for where another module holds them; damaged ones are consumption (R82, R384). -/
def State.fillBytes (s : State) (core : Nat) (x : XCmd) (ks : List Nat) : Except State (List Byte × State) :=
  match s.awaitFar x.org x.farName ks with
  | some t => .error t
  | none => match s.hurtKey ks with
    | some k => .error (x.gone core (s.cmdConsume x.cur x.org (engineLoc core) 5 (some k)))
    | none =>
      let s := s.reform ks
      .ok (ks.map (Memory.read s.mem), if s.counts x then s.noteReadKeys core ks else s)

/-- XTBL_HEADER_CHECK: the header of a core's oldest fill has arrived (R59, R287). -/
def execXtblHeaderCheck (core n : Nat) (s : State) : Out :=
  match s.fillAt core n 0 with
  | none => .next s
  | some x =>
    if !(s.core core).inEngine x then .next s
    else match s.imageBytes core x 64 with
      | .error e => .next (s.lostFill core x e)
      | .ok ks =>
        match s.fillBytes core x ks with
        | .error t => .next t
        | .ok (b, s) =>
          let h := ImageHead.parse b
          match h.bad with
          | some e => .next (s.failFill core x e)
          | none =>
            match s.imageBytes core x h.size with
            | .error e => .next (s.lostFill core x e)
            | .ok _ => .next (s.putX core { x with stage := 1 })

/-- FILL_COMPLETE: the last entry of a fill is written (R58, R59). -/
def execFillComplete (core n : Nat) (s : State) : Out :=
  match s.fillAt core n 1 with
  | none => .next s
  | some x =>
    let size (ks : List Nat) : Nat := (ImageHead.parse (ks.map (Memory.read s.mem))).size
    match (s.imageBytes core x 64).bind fun ks => s.imageBytes core x (size ks) with
    | .error e => .next (s.lostFill core x e)
    | .ok ks =>
      match s.fillBytes core x ks with
      | .error t => .next t
      | .ok (b, s) =>
        let h := ImageHead.parse b
        if classBad h b then .next (s.failFill core x 5)
        else
          let k := s.core core
          let side := 1 - k.active
          let (bank, rej) := (k.banks.getD side Bank.clear).fill x.sr b
          let s := s.modCore core fun k => { k with banks := k.banks.set side bank, reject := min (k.reject + rej) 0xFFFF }
          .next ((s.putX core { x with stage := 3, valid := h.n }).shadowAfter core x .complete)

/-! Completion. -/

/-- The effect of a command that has no event of its own (R277 to R283, R288, R292). -/
def State.performX (s : State) (x : XCmd) : Except State Moved :=
  match x.instr with
  | .xfill _ => s.fillBlock x
  | .xrime _ mode => s.rimeBlock x mode.toNat
  | .xfmt _ first count => s.loadFmts x first.toNat (count.toNat + 1)
  | _ => s.moveBlock x

/-- The command's effect is performed by the completion event itself. -/
def XCmd.direct (x : XCmd) : Bool :=
  match x.instr with
  | .xcopy _ | .xscat _ | .xfill _ | .xput _ _ | .xfmt _ _ _ | .xrime _ _ => true
  | .xgath _ => x.stage == 1 || x.refetch
  | _ => false

/-- Record decrements of a routing pass are still on their way: its own continuation follows them (R289, R299). -/
def State.passOut (s : State) (x : XCmd) : Bool :=
  (x.instr matches .xroute _ _ _) && s.conts.any fun c => c.origin == 8 && c.org == x.org

/-- X_COMMAND_COMPLETE: the n-th command of a core is complete (R268): it is performed if it was not yet, leaves the queue, and its
continuation is applied (R273). A put to another module is sent, and leaves the queue when it is acknowledged. -/
def execXCommandComplete (core n : Nat) (s : State) : Out :=
  match takeAt (s.core core).xq n with
  | none => .next s
  | some (x, _) =>
    if x.stage = 3 then
      .next (if s.farOut x.farName 4 ∨ s.passOut x then s else (s.popX core x).endX x (completionWord x.seq false false false x.status x.valid))
    else if !(s.core core).inEngine x || !x.direct || x.stage == 2 then .next s
    else match s.reissue x with
      | .error t => .next t
      | .ok (x, s) =>
        if s.pathAhead core (xPath x.instr) x.ord (s.xReads x ++ s.xWrites x) then .next s
        else match s.awaitFar x.org x.farName (s.xReads x) with
          | some t => .next t
          | none =>
            let s := s.reform (s.xData x)
            if (x.instr matches .xput _ _) && !x.moves s.hub.module then .next (s.sendBlock core x 0)
            else match s.performX x with
              | .error t => .next (x.gone core t)
              | .ok m => .next (m.finish core x (s.xWrites x) false)

end Sys2Proof.Machine
end

