-- ==== Sys2Proof/Machine/Fabric.lean ====
section
/-! DEFINITION. What arrives from the fabric, and the recovery from lost links and peers (15, R334; 12, R283, R285; 23, R429, R430,
R432; 18, R367). -/
namespace Sys2Proof.Machine

/-! What the host link tells and returns. -/

/-- The PCI Express port as a reporting unit (R356). -/
def hostLoc : Loc := locDie 16 8

/-- The record of a dropped window access or port write: to the machine ring, so it names no context (R328, R329, R361). -/
def State.hostDrop (s : State) (kind : Nat) (a : Word) : State := s.post (mkRec 0x1A 2 hostLoc (leBytes 1 kind) (some a) none)

/-- The host receives the bytes of a read. -/
def State.hostRead (s : State) (bs : List Byte) : State := s.modHub fun h => { h with pcieRead := bs }

/-- Bytes of a read of the host that come later, in their place. -/
def State.hostFill (s : State) (at_ : Nat) (bs : List Byte) : State :=
  s.modHub fun h => { h with pcieRead := h.pcieRead.take at_ ++ bs ++ h.pcieRead.drop (at_ + bs.length) }

/-- The operation of an access of the host: a context of no core. -/
def hostOrg (ctx : Nat) : Org := ⟨ctx, none, none, none, 0, 0⟩

/-! Flits (R334). -/

/-- The port at which what arrives now arrives: which of the 32 it is is free (DESIGN CHOICE, log 22). -/
def State.portHere (s : State) : Loc := portLoc ((Config.freeByte s.steps 4).toNat % 32) 0

/-- A flit that a receiving port drops is reported (R334). -/
def State.dropFlit (s : State) : State := s.post (mkRec 0x44 0 s.portHere (leBytes 1 4) none none)

/-- Whose operation an arriving flit is: its context, of no core of this module. -/
def flitOrg (f : Flit) : Org := ⟨flitFld f 28 4, none, none, none, 0, 0⟩

/-- The source module of a flit. -/
def flitSrc (f : Flit) : Nat := flitFld f 11 11

/-- The context of a flit takes accesses: it is resident and not being killed (R377). -/
def State.takes (s : State) (f : Flit) : Bool := let x := s.ctx (flitFld f 28 4); x.resident && x.kill == .none

/-- The answer to a request: its SEQ in ADDR and some bytes (R334; DESIGN CHOICE, log 22). -/
def State.answer (s : State) (f : Flit) (bs : List Byte) : State :=
  s.sendMessage ⟨flitSrc f, flitFld f 48 3, 0, 0, 0, 0, 4, flitFld f 28 4, flitFld f 22 3⟩ [(flitFld f 32 16, bs)]

/-- An arriving flit of a KIND: dropped if malformed, not of this event if it is another module's or of another KIND. -/
def State.receive (s : State) (f : Flit) (kind : Nat) (go : State) : Out :=
  .next (if flitBad f then s.dropFlit else if flitFld f 25 3 = kind ∧ flitFld f 0 11 = s.hub.module then go else s)

/-- A refused remote load answers with a byte count other than its own (DESIGN CHOICE, log 22). -/
def refusalOf (n : Nat) : List Byte := List.replicate (if n = 1 then 2 else 1) 0

/-- A remote load served under the map of the flit's context (R162, R334). -/
def State.serveLoad (s : State) (f : Flit) : State :=
  let n := leNat ((flitData f).take 2)
  let va := BitVec.ofNat 64 (flitFld f 64 48)
  let ctx := flitFld f 28 4
  if flitFld f 52 8 ≠ 2 ∨ n < 1 ∨ 224 < n ∨ !s.takes f then s.answer f (refusalOf n)
  else match s.spanKeys 0 ctx .g va n .read with
    | .error _ => s.answer f (refusalOf n)
    | .ok ks =>
      if ks.any (keySpace · == 8) ∨ ks.any fun k => s.poison.contains (granule k) then s.answer f (refusalOf n)
      else if s.behindParked ks then s
      else
        let s := s.reform ks
        s.answer f (ks.map (Memory.read s.mem))

/-- REMOTE_LOAD (R334). -/
def execRemoteLoad (f : Flit) (s : State) : Out := s.receive f 0 (s.serveLoad f)

/-- The pieces of bytes by 32-byte sector, at most as many as the fuel. -/
def sectorRuns (fuel a : Nat) (bs : List Byte) : List (Nat × List Byte) :=
  match fuel with
  | 0 => []
  | fuel + 1 => if bs = [] then [] else (a, bs.take (32 - a % 32)) :: sectorRuns fuel (a - a % 32 + 32) (bs.drop (32 - a % 32))

/-- A piece of a remote store performed (R162). -/
def State.storeFrom (s : State) (o : Org) (p : Nat × List Byte) : State :=
  let va := BitVec.ofNat 64 p.1
  match s.translate o.ctx va .write with
  | .error _ => s
  | .ok t =>
    if t.cls = 3 then
      (if s.hub.pcieUp then { s with hostOut := s.hostOut ++ [.write va t.addr p.2 o] } else s.dropHostWrite 4 va o)
    else s.putTarget o.ctx va t p.2

/-- A remote store performed under the map of the flit's context, whole or not at all (R162, R334). -/
def State.serveStore (s : State) (f : Flit) : State :=
  let va := flitFld f 64 48
  let o := flitOrg f
  let bs := flitData f
  if !s.takes f then s.answer f [0, 0]
  else match s.spanKeys 0 o.ctx .g (BitVec.ofNat 64 va) bs.length .write with
    | .error _ => s.answer f [0, 0]
    | .ok ks =>
      if ks.any (keySpace · == 8) then s.answer f [0, 0]
      else if s.behindParked ks then s
      else ((sectorRuns 8 va bs).foldl (fun (s : State) p => s.storeFrom o p) s).answer f [0]

/-- REMOTE_STORE (R334). -/
def execRemoteStore (f : Flit) (s : State) : Out := s.receive f 1 (s.serveStore f)

/-! Puts and collective steps (R283 to R286): the flits of a message are kept until its last, and then take effect together. -/

/-- The flits of the message that a flit belongs to, by source, context and number, with the flit itself. -/
def State.messageOf (s : State) (f : Flit) : List Flit :=
  s.landing.filter (fun g => flitSrc g == flitSrc f && flitFld g 28 4 == flitFld f 28 4 && flitFld g 120 8 == flitFld f 120 8) ++ [f]

/-- A message whose last flit has come, with what its target must know beside the flits. -/
structure Arrived where
  last : Flit
  note : PutNote
  data : List (Nat × Byte)
  deriving DecidableEq, Repr

/-- The message of a last flit. Its continuation flit brings no data (R334). -/
def State.arrived (s : State) (f : Flit) : Arrived :=
  let l := s.messageOf f
  let note := (l.findSome? (·.note)).getD (Config.putNote (flitSrc f) (flitFld f 28 4) (flitFld f 120 8))
  let data := if note.cont then l.dropLast else l
  ⟨f, note, data.flatMap fun g => (flitData g).zipIdx.map fun p => ((flitFld g 64 48 + p.2) % 2 ^ 48, p.1)⟩

/-- The block that a message's record names at its target (R283, R284). -/
def Arrived.block (m : Arrived) : Block :=
  let r := Shape.parse m.note.record
  let c := Coord.of m.note.coord
  ⟨r, flitCore m.last, flitFld m.last 28 4, c, c.rb * r.trows, []⟩

/-- The OP of the message's step: 0 for a put. -/
def Arrived.op (m : Arrived) : Nat := if flitFld m.last 25 3 = 3 then flitFld m.last 61 2 else 0

/-- What the message tells of a tile. -/
def Arrived.tile (m : Arrived) (ti tj : Nat) : Option TileNote := m.note.tiles.find? fun n => n.ti == ti && n.tj == tj

/-- The bytes that a message brought for an address. -/
def Arrived.bytes (m : Arrived) (a : Int) (n : Nat) : Option (List Byte) :=
  if a < 0 then none else (List.range n).mapM fun i => (m.data.find? fun p => p.1 == (a.toNat + i) % 2 ^ 48).map (·.2)

/-- The elements and scales that a message brought. -/
def Arrived.contents (m : Arrived) : BlockIn :=
  let b := m.block
  { bits := fun _ i j =>
      let (ok, xs) := b.at i j
      let (a, bit) := b.r.addr xs
      if ok then (m.bytes a (b.r.span bit)).map fun l => leNat l / 2 ^ bit % 2 ^ elemBits b.r.fmt else none
    scale := fun _ i j => (m.bytes (b.r.scaleAddr (b.at i j).2) 1).map fun l => leNat l }

/-- The entry that a message brought for a tile, or the rime of what it wrote there (R93, R126, R278). -/
def State.arrivedEntry (s : State) (m : Arrived) (ti tj : Nat) : RimeEnt :=
  let b := m.block
  match m.tile ti tj with
  | none => s.formTile b ti tj true
  | some n =>
    match (if n.carried then m.bytes (b.rimeAddr ti tj) 256 else none) with
    | some l => RimeEnt.ofBytes l (n.unver.toNat * 16 + n.refresh % 16)
    | none => s.formTile b ti tj n.unver

/-- A message's target refuses it whole (R283, R380): its record breaks a rule, its cluster is disabled, an address or an offset is out of map, its
bytes are another module's, the host does not answer, or a reduction would read damaged bytes (R384). -/
def State.putRefused (s : State) (m : Arrived) : Bool :=
  let b := m.block
  let red := m.op != 0
  shapeBad m.note.record || b.r.space != flitFld m.last 112 2 || b.r.idxfmt != 0
    || (decide (b.r.space = 1 ∨ b.r.space = 2) && !s.enabled (dieOf b.core) (clusterOf b.core % 16))
    || !s.carriedOk b.ctx b.r
    || (s.blockFault b .write (if b.r.rime = 0 then none else some .write)).isSome
    || (red && (s.blockFault b .read (if b.r.rime = 2 then some .read else none)).isSome)
    || (s.blockKeys b .write).any (keySpace · == 8) || s.hostCut b
    || (red && (s.hurtKey (s.reduceKeys b)).isSome)

/-- A message takes effect at its target: what it adds to its completion word, and the state (R283, R285). -/
def State.landPut (s : State) (m : Arrived) : Word × State :=
  let b := m.block
  if m.op = 0 then
    let given := m.note.tiles.any fun n => n.carried
    (0, (s.putBlock b m.contents given false).putEntries b given fun st ti tj => some (st.arrivedEntry m ti tj))
  else
    let mark (ti tj : Nat) : Bool × Bool := match m.tile ti tj with | some n => (n.bad, n.unver) | none => (false, true)
    let r := (s.reform (s.dataKeys b .read)).reduceInto none (engineLoc b.core) false (flitOrg m.last) b m.op false m.contents.bits mark
    (completionWord 0 r.rbad r.runver r.formed 0 0, r.state)

/-- A flit of a put or of a collective step (R283 to R286): with its last flit the message takes effect, its continuation is applied, and it is
acknowledged, or refused. Those of a context being killed are dropped (R377). -/
def State.takePut (s : State) (f : Flit) : State :=
  let rest := s.landing.filter fun g => !(s.messageOf f).contains g
  if !s.takes f then { s with landing := rest }
  else if flitFld f 60 1 = 0 then { s with landing := s.landing ++ [f] }
  else
    let m := s.arrived f
    let s := { s with landing := rest }
    if s.putRefused m then
      (if m.op ≠ 0 then match s.hurtKey (s.reduceKeys m.block) with
        | some k => s.post { mkRec 0x17 1 (engineLoc m.block.core) (leBytes 1 0) (some (BitVec.ofNat 64 k)) (some (flitOrg f)) with phys := true }
        | none => s else s).answer f [0, 0]
    else
      let (w, s) := s.landPut m
      let d := flitData f
      let s := if m.note.cont ∧ flitFld f 52 8 = 16 then
          s.sendVia 1 (17, (Config.freeByte s.steps 4).toNat % 32) (BitVec.ofNat 64 (leNat (d.take 8))) (BitVec.ofNat 64 (leNat ((d.drop 8).take 8)) ||| w) (flitOrg f)
        else s
      s.answer f [0]

/-- PUT (R283, R334). -/
def execPut (f : Flit) (s : State) : Out := s.receive f 2 (s.takePut f)

/-- COLLECTIVE_STEP (R285, R334). -/
def execCollectiveStep (f : Flit) (s : State) : Out := s.receive f 3 (s.takePut f)

/-- The request that a response answers: by module, context and SEQ. -/
def Remote.answeredBy (r : Remote) (f : Flit) : Bool :=
  r.module == flitSrc f && r.rctx == flitFld f 28 4 &&
    (if r.kind = 2 then decide ((r.tag + 65536 - flitFld f 64 16) % 65536 < r.bytes) else r.tag == flitFld f 64 16)

/-- The bytes of a remote load, those of the core's own gated stores in their places (R141). -/
def Remote.seen (r : Remote) (bs : List Byte) : List Byte := bs.zipIdx.map fun p => ((r.own.find? fun q => q.1 == p.2).map (·.2)).getD p.1

/-- The values of a remote load in their registers. -/
def Remote.values (r : Remote) (bs : List Byte) : List (SReg × Word) := loadValues r.dest r.size (r.seen bs)

/-- The data of a remote load goes where it is awaited. -/
def State.landRemote (s : State) (r : Remote) (bs : List Byte) : State :=
  let c := r.org.core.getD 0
  match r.lane with
  | some (g, l) => s.modCore c fun k => k.fillLanes g (l.map fun p => (p.2, (r.seen bs).getD p.1 0))
  | none => { s with rets := s.rets ++ [⟨c, r.values bs⟩] }

/-- Where a refusal is reported: of a load for a group the first lane (R379). -/
def Remote.elem (r : Remote) : Nat := match r.lane with | some (g, p :: _) => 32 * g + p.2 / 4 | _ => 0

/-- The kind, the path and the reason of a refused access (R379, R381): a command's load and store, and a put, of which only the space of its
destination says whether a map or a range refused it. -/
def State.refusalOfRemote (s : State) (r : Remote) : Nat × Nat × Nat :=
  match r.kind with
  | 0 => (0, 0, 8)
  | 1 => (1, 0, 8)
  | 3 => (0, 1, 8)
  | 4 => (1, 1, 8)
  | _ =>
    match (s.core (r.org.core.getD 0)).xq.find? fun x => x.name == r.size with
    | some x => (1, xPath x.instr, if x.dst.r.space = 0 then 8 else 5)
    | none => (1, 1, 8)

/-- A remote access that its target refused (R381, R389): reported by the port, the task is cancelled, and a put's command is gone. -/
def State.refusedThere (s : State) (r : Remote) : State :=
  let q := s.refusalOfRemote r
  let c := r.org.core.getD 0
  let f := mapFault s.portHere q.1 q.2.2 q.2.1 0 r.elem r.addr
  match (s.core c).xq.find? fun x => decide (r.kind = 2) && x.name == r.size with
  | some x => (s.popX c x).lateFault r.org f
  | none => s.lateFault r.org f

/-- The bytes of another module that a command asked for are here (R82). -/
def State.landFar (s : State) (r : Remote) (bs : List Byte) : State :=
  let key := spaceKey 8 (r.module * 2 ^ 48 + r.rctx * 2 ^ 44 + r.addr.toNat)
  let keys := (List.range r.bytes).map (key + ·)
  { s.put key bs with far := s.far.set r.size (s.far.get r.size [] ++ keys) }

/-- The data of a load of the host are here: the read has them, and an AtomicOp writes back, where its window still stands (R160, R328). -/
def State.landHost (s : State) (r : Remote) (bs : List Byte) : State :=
  match r.rmw with
  | none => s.hostFill r.size bs
  | some (op, b, c) =>
    let s := s.hostRead bs
    match (op.effect r.bytes (leNat bs) b c).1, s.translate r.org.ctx r.addr .atomic with
    | some v, .ok t => s.remoteStore t r.addr (leBytes r.bytes v) r.org
    | _, _ => s

/-- An access of the host that its target refused: a read returns all ones, a write is not performed, and it is recorded as one out of map is
(R328). -/
def State.refusedHost (s : State) (r : Remote) : State :=
  let s := s.hostDrop 1 r.addr
  if r.kind = 5 then s.hostFill r.size (List.replicate r.bytes 0xFF) else s

/-- A response arrives (R334): load data, the acknowledgement of a store or of a put's message, or a refusal. -/
def State.takeResponse (s : State) (f : Flit) : State :=
  match s.remotes.find? (·.answeredBy f) with
  | none => s
  | some r =>
    let n := flitFld f 52 8
    let s := { s with remotes := s.remotes.erase r }
    match r.kind with
    | 0 => if n = r.bytes then s.landRemote r (flitData f) else s.refusedThere r
    | 3 => if n = r.bytes then s.landFar r (flitData f) else s.refusedThere r
    | 2 =>
      let c := r.org.core.getD 0
      if n ≠ 1 then s.refusedThere r
      else match (s.core c).xq.find? fun x => x.name == r.size && x.stage == 2 with
        | some x => s.popX c x
        | none => s
    | 5 => if n = r.bytes then s.landHost r (flitData f) else s.refusedHost r
    | _ => if n = 1 then s else if r.org.core.isNone then s.refusedHost r else s.refusedThere r

/-- RESPONSE (R334). -/
def execResponse (f : Flit) (s : State) : Out := s.receive f 4 (s.takeResponse f)

/-! Links, peers and recovery (R367, R430 to R432). -/

/-- The module numbers heard of that are not lost. -/
def State.livePeers (s : State) : List Nat := (s.hub.heard.map (·.1)).filter fun m => !s.hub.lostMods.contains m

/-- The recovery ends when every live peer's load-complete notice has come (R432 step 5). -/
def State.tryResume (s : State) : State :=
  if s.hub.recStep = 5 ∧ s.livePeers.all s.hub.loads.contains then s.modHub fun h => { h with recStep := 0, loads := [] } else s

/-- Some region of a context names a module (R432). -/
def State.namesModule (s : State) (ctx m : Nat) : Bool :=
  (s.map ctx).regions.any fun p => entFld p.2 71 2 != 0 && entFld p.2 73 4 == 4 && entFld p.2 117 11 == m

/-- A context is affected by a loss (R432 step 1): a region of class 4 names a lost module, or it lost flits, which of those it has under
way being free (DEDUCED, log 33). -/
def State.affected (s : State) (lost : List Nat) (ctx : Nat) : Bool :=
  (s.ctx ctx).resident && (lost.any (s.namesModule ctx)
    || (s.remotes.any (fun r => r.org.ctx == ctx) && Config.freeBit s.steps (ctx + 2)))

/-- The channels that stand after a loss (R431). -/
def linksAfter (l : List Link) (origin : Nat) (lost : Loss) : List Link :=
  match lost with
  | .module m => withoutModule l m
  | .link p router =>
    match farEnd l origin p, router with
    | some (m, d), true => withoutLink (withoutDie l m d) origin p
    | _, _ => withoutLink l origin p

/-- The module that a notice calls lost. -/
def lostModules (lost : Loss) : List Nat := match lost with | .module m => [m] | .link _ _ => []

/-- A loss taken up: the tables are computed and loaded anew, and a module that no route reaches any more is lost like one whose heartbeats
stopped (R431, R432). Answers the modules that are lost. -/
def State.reroute (s : State) (origin : Nat) (lost : Loss) : List Nat × State :=
  let gone := (lostModules lost).filter fun m => !s.hub.lostMods.contains m
  let s := (s.modHub fun h => { h with lostMods := gone ++ h.lostMods, links := linksAfter h.links origin lost }).loadRoutes
  let cut := s.cutOff
  (lostModules lost ++ cut, s.modHub fun h => { h with lostMods := cut ++ h.lostMods })

/-- A fault notice is taken once, and forwarded (R430, R432): the affected contexts are killed, the module drains, its tables are computed and
loaded, and it says so. Injection rests until the load-complete notices have come. -/
def State.takeNotice (s : State) (origin seq : Nat) (lost : Loss) : State :=
  if s.hub.notices.contains (origin, seq) then s
  else
    let s := (s.modHub fun h => { h with notices := (origin, seq) :: h.notices }).tell everyPort (.fault origin seq lost)
    let (gone, s) := s.reroute origin lost
    let s := ((List.range 16).filter (s.affected gone)).foldl (fun (s : State) c => s.startKill c (portLoc 0 0) none) s
    let s := s.post (mkRec 0x45 0 (portLoc 0 0) [] none none)
    ((s.tell everyPort (.loadComplete s.hub.module)).modHub fun h => { h with recStep := 5 }).tryResume

/-- FAULT_NOTICE (R432). -/
def execFaultNotice (origin seq : Nat) (lost : Loss) (s : State) : Out := .next (s.takeNotice origin seq lost)

/-- A module's load-complete notice arrives (R432 step 5). -/
def State.takeLoads (s : State) (src : Nat) : State :=
  (s.modHub fun h => { h with loads := if h.loads.contains src then h.loads else src :: h.loads }).tryResume

/-- LOAD_COMPLETE_NOTICE (R432). -/
def execLoadCompleteNotice (src : Nat) (s : State) : Out := .next (s.takeLoads src)

/-- A notice of this module's own is flooded (R430). -/
def State.flood (s : State) (lost : Loss) : State :=
  let n := s.hub.noticeN
  (s.modHub fun h => { h with noticeN := n + 1 }).takeNotice s.hub.module n lost

/-- The record of a loss (R430): 1 link, 2 router, 3 peer, and the module. -/
def lossRec (l : Loc) (what module : Nat) : ErrRec := mkRec 0x44 0 l (leBytes 1 what ++ leBytes 2 module) none none

/-- PEER_LOST: a module that was heard has missed three heartbeats (R367, R430). -/
def execPeerLost (m : Nat) (s : State) : Out :=
  match s.hub.heard.find m with
  | none => .next s
  | some t => .next (if s.frame < t + 3000 ∨ s.hub.lostMods.contains m then s else (s.post (lossRec (portLoc 0 0) 3 m)).flood (.module m))

/-- The module at the other end of a port: as the wiring gives it, else free (DEDUCED, log 33). -/
def State.portPeer (s : State) (port : Nat) : Nat :=
  match farEnd s.hub.links s.hub.module port with
  | some p => p.1
  | none => (Config.freeByte s.steps 0).toNat + 256 * ((Config.freeByte s.steps 1).toNat % 8)

/-- LINK_DOWN: a link whose replays are exhausted is lost, or the router at its end (R430). Which of the two is free (DEDUCED, log 33). -/
def execLinkDown (port : Nat) (s : State) : Out :=
  let router := Config.freeBit s.steps 0
  .next (if 32 ≤ port ∨ s.hub.downPorts.contains port then s
    else ((s.modHub fun h => { h with downPorts := port :: h.downPorts }).post
      (lossRec (portLoc port 0) (if router then 2 else 1) (s.portPeer port))).flood (.link port router))

/-- LANE_LOSS: a port retrains on two lanes (R430). -/
def execLaneLoss (port lane : Nat) (s : State) : Out :=
  .next (if 32 ≤ port ∨ 4 ≤ lane ∨ s.hub.lostLanes.contains (port, lane) then s
    else (s.modHub fun h => { h with lostLanes := (port, lane) :: h.lostLanes }).post (lossRec (portLoc port lane) 0 0))

/-- What this module's heartbeat tells of its groups (R429). -/
def State.groupBeats (s : State) : List GroupBeat :=
  let groups := (((List.range 8).map fun d => (s.die d).cgroup).filter (· != 0)).eraseDups
  groups.map fun g => ⟨g, (((s.groupDies g).head?.map fun d => (s.die d).step).getD 0), (s.pairOf g).1, (s.pairOf g).2⟩

/-- HEARTBEAT: every 1,000 ticks each group's step and pair in force are sent to the peers (R367, R429). -/
def execHeartbeat (s : State) : Out :=
  if s.frame / 1000 ≤ s.hub.beatN then .next s
  else
    let s := s.modHub fun h => { h with beatN := s.frame / 1000 }
    .next (s.tell everyPort (.heartbeat s.hub.module s.groupBeats))

/-- What a peer tells of a group: an older pair is replaced (R429). -/
def State.takePair (s : State) (b : GroupBeat) : State :=
  if b.group = 0 ∨ 15 < b.step ∨ !olderPair (s.pairOf b.group) (b.step, b.tick) then s
  else (s.groupDies b.group).foldl (fun (s : State) d => s.adoptLate d b.group b.step b.tick) s

/-- A peer's heartbeat arrives (R367, R429): it is heard, its groups are those that it names (R313), and older pairs are replaced. -/
def State.takeBeat (s : State) (src : Nat) (groups : List GroupBeat) : State :=
  groups.foldl State.takePair (s.modHub fun h =>
    { h with
      heard := h.heard.set src s.frame
      members := (groups.filter (·.group != 0)).map (fun b => (src, b.group)) ++ h.members.filter fun m => m.1 != src })

/-- MANAGEMENT: a management flit arrives (R310, R313, R334, R428 to R432). -/
def execManagement (m : Mgmt) (s : State) : Out :=
  .next (match m with
    | .grant src num tokens => s.takeGrant src num tokens
    | .grantAnswer peer num taken => s.grantAnswer peer num taken
    | .outcomeQuery src num => s.answerQuery src num
    | .outcomeAnswer peer num received => s.outcomeAnswer peer num received
    | .announce group step tick => (s.groupDies group).foldl (fun (s : State) d => s.announced d step tick) s
    | .heartbeat src groups => s.takeBeat src groups
    | .fault origin seq lost => s.takeNotice origin seq lost
    | .loadComplete src => s.takeLoads src)

end Sys2Proof.Machine
end

