-- ==== Sys2Proof/Machine/Host.lean ====
section
/-! DEFINITION. The host link: BAR 2 windows, decrement ports, host AtomicOps, and what travels to the host (15, R328 to R330; 07, R154, R160,
R161; 20, R386, R389, R393). -/
namespace Sys2Proof.Machine

/-! Windows and ports. -/

/-- Windows and ports are open (R327, R365). -/
def State.hostOpen (s : State) : Bool := s.hub.ready && !s.hub.fenced

/-- A context takes accesses of the host: it is resident and not being killed (R328). -/
def State.hosts (s : State) (ctx : Nat) : Bool := (s.ctx ctx).resident && (s.ctx ctx).kill == .none

/-- A decrement by 1 of the record that a value names, in a context (R31). -/
def State.portDec (s : State) (ctx : Nat) (v : Word) : State :=
  { s with conts := s.conts ++ [⟨.tdec (v ||| 0x0110_0000_0000_0000) 0, 7, ⟨ctx, none, none, none, 0, 0⟩, none, (16, 0)⟩] }

/-- A port does not take a value: the context takes no accesses or its queues are frozen, or reserved bits are set (R329). -/
def State.portShut (s : State) (ctx : Nat) (v : Word) : Bool := !s.hosts ctx || (s.ctx ctx).frozen || v &&& 0xFFFF_0000_0000_007F != 0

/-- An AtomicOp of the host stands parked: HOST-path accesses are performed in the order in which the hub receives them, so later ones wait
(R154). -/
def State.hostParked (s : State) : Bool := s.parked.any fun p => p.req.org.core.isNone

/-- DECREMENT_PORT_WRITE: the record's COUNT is decremented by 1 in the port's context, or the write is dropped (R31, R329). HOST-path writes
are performed as they arrive, so every earlier one has been (R154). -/
def execDecrementPortWrite (ctx : Nat) (v : Word) (s : State) : Out :=
  .next (if 16 ≤ ctx ∨ s.hostParked then s else if ctx = 0 ∨ !s.hostOpen ∨ s.portShut ctx v then s.hostDrop 3 v else s.portDec ctx v)

/-- The hub's internal port: a decrement in context 0, which acts as a decrement-port write (R330). -/
def State.firmPort (s : State) (v : Word) : State := if s.hub.fenced || s.portShut 0 v then s.hostDrop 3 v else s.portDec 0 v

/-- WINN_WRITE: a window descriptor; EN is not set while CTX is 0 (R328). -/
def execWinnWrite (n : Nat) (v : Word) (s : State) : Out :=
  .next (
    if 16 ≤ n ∨ s.hub.recovery then s
    else
      let ctx := v.toNat % 16
      s.modHub fun h => { h with wins := h.wins.set n ⟨v.getLsbD 63 && ctx != 0, v.toNat / 16 % 4096, ctx⟩ })

/-- Where an access through BAR 2 goes: its context, virtual address and keys, or the kind of its drop (R328). -/
def State.window (s : State) (off n : Nat) (acc : Acc) : Except Nat (Nat × Word × List Nat) :=
  let w := s.hub.wins.get (off / 2 ^ 32 % 16) ⟨false, 0, 0⟩
  let va := BitVec.ofNat 64 (w.vreg * 2 ^ 32 + off % 2 ^ 32)
  if !s.hostOpen ∨ !w.en then .error 0
  else if !s.hosts w.ctx then .error 2
  else match s.spanKeys 0 w.ctx .g va n acc with
    | .ok ks => .ok (w.ctx, va, ks)
    | .error _ => .error 1

/-- A host read of a poisoned sector is completed with poisoned data and reported (R386). -/
def State.hostHurt (s : State) (ks : List Nat) : State :=
  match ks.find? fun k => s.poison.contains (granule k) with
  | some k => s.post { mkRec 0x17 0 hostLoc (leBytes 1 7) (some (BitVec.ofNat 64 k)) none with phys := true }
  | none => s

/-- A piece of a write through a window performed, to host memory too (R154), or sent to the module that its region names (R82). -/
def State.windowStore (s : State) (ctx : Nat) (p : Nat × List Byte) : State :=
  let va := BitVec.ofNat 64 p.1
  match s.translate ctx va .write with
  | .error _ => s
  | .ok t => if t.cls = 4 then s.remoteStore t va p.2 (hostOrg ctx) else if t.cls = 3 ∧ !s.hub.pcieUp then s else s.putTarget ctx va t p.2

/-- A read through a window (R328): the bytes of this module, and of the host, at once, entries among them formed where their tags demand it (R125);
those in regions of class 4 are asked of their modules, at most 224 at a time. -/
def State.windowLoad (s : State) (ctx : Nat) (va : Word) (ks : List Nat) : State :=
  let s := (s.hostHurt ks).reform ks
  let s := s.hostRead (ks.map fun k => if keySpace k = 8 then 0 else Memory.read s.mem k)
  (farRuns (ks.filter (keySpace · == 8))).foldl (fun (s : State) r =>
    let n := ks.idxOf r.1
    match s.translate ctx (va + BitVec.ofNat 64 n) .read with
    | .ok t => s.hostLoad t (va + BitVec.ofNat 64 n) r.2 n (hostOrg ctx) none
    | .error _ => s) s

/-- BAR2_ACCESS: a host read or write through a window, or one that is dropped: a dropped read returns all ones (R328). -/
def execBar2Access (off : Nat) (write : Bool) (bytes : List Byte) (s : State) : Out :=
  let n := bytes.length
  .next (
    if 2 ^ 36 < off + n ∨ n = 0 ∨ s.hostParked then s
    else match s.window off n (if write then .write else .read) with
      | .error e =>
        let s := s.hostDrop e (BitVec.ofNat 64 off)
        if write then s else s.hostRead (List.replicate n 0xFF)
      | .ok (ctx, va, ks) =>
        if s.behindParked ks then s
        else if write then (sectorRuns (n + 1) va.toNat bytes).foldl (fun (s : State) p => s.windowStore ctx p) s
        else s.windowLoad ctx va ks)

/-- The operation of an AtomicOp: 0 FetchAdd, 1 Swap, 2 CAS (R160). -/
def hostAOp (op : Nat) : AOp := match op with | 0 => .amo 0 | 1 => .amo 8 | _ => .cas

/-- A locked read-modify-write by the hub (R160). -/
def State.hubAtomic (s : State) (r : Req) (ks : List Nat) : State :=
  let s := (s.hostHurt ks).reform ks
  let old := s.num r.tgt.key r.w
  let s := s.hostRead (leBytes r.w old)
  match (r.op.effect r.w old r.b r.c).1 with
  | some v => s.putTarget r.org.ctx r.va r.tgt (leBytes r.w v)
  | none => s

/-- HOST_ATOMICOP: at the home slice of an MS region, else by the hub (R160), which reads and writes another module's memory by messages, one AtomicOp
at a time; dropped as other accesses through windows are (R328). An
AtomicOp of another size, or not aligned to its size, is none of R160's. -/
def execHostAtomicop (off : Nat) (op : BitVec 2) (bytes : Nat) (a b : Nat) (s : State) : Out :=
  let good := (bytes == 4 || bytes == 8 || (bytes == 16 && op == 2)) && op != 3
  .next (
    if !good ∨ 2 ^ 36 < off + bytes ∨ off % bytes ≠ 0 ∨ s.hostParked then s
    else match s.window off bytes .atomic with
      | .error e => (s.hostDrop e (BitVec.ofNat 64 off)).hostRead (List.replicate bytes 0xFF)
      | .ok (ctx, va, ks) =>
        match s.translate ctx va .atomic with
        | .error _ => s
        | .ok t =>
          let r : Req := ⟨hostAOp op.toNat, va, t, bytes, a % 2 ^ (8 * bytes), b % 2 ^ (8 * bytes), 0, .none, hostOrg ctx, false⟩
          if t.ms then s.arriveReq r
          else if s.behindParked ks then s
          else if t.cls = 4 then
            (if s.remotes.any (fun q => q.rmw.isSome) then s else s.hostLoad t va bytes 0 (hostOrg ctx) (some (r.op, r.b, r.c)))
          else s.hubAtomic r ks)

/-! What travels to the host (R160, R161, R393). -/

/-- The bytes in host memory that an operation writes. -/
def HostOp.range (o : HostOp) : Nat × Nat :=
  match o with
  | .write _ a bs _ => (a, bs.length)
  | .publish _ a _ _ _ _ => (a, 8)
  | .atomic r => (r.tgt.addr, r.w)

/-- Whose operation it is. -/
def HostOp.org (o : HostOp) : Org :=
  match o with
  | .write _ _ _ o => o
  | .publish _ _ _ _ _ o => o
  | .atomic r => r.org

/-- Two operations meet in host memory. -/
def HostOp.meets (o p : HostOp) : Bool :=
  decide (o.range.1 < p.range.1 + p.range.2) && decide (p.range.1 < o.range.1 + o.range.2)

/-- The n-th operation must wait for an earlier one at the same place (R162). -/
def State.hostBlocked (s : State) (n : Nat) (o : HostOp) : Bool := (s.hostOut.take n).any o.meets

/-- Every earlier write of a publication's task, on each of its cores, is performed (R161): its writes to the host and to other modules, its partial writes, and
the commands that were under way. -/
def State.published (s : State) (n : Nat) (xs ms : List Nat) (o : Org) : Bool :=
  match o.core with
  | none => true
  | some c =>
    let mine (g : Org) : Bool := g.core == some c || (g.core.isSome && g.serial == o.serial)
    !(s.hostOut.take n).any (fun p => mine p.org) && !(s.remotes.any fun r => r.kind != 0 && mine r.org)
      && !(s.upds.any fun u => (s.taskCores c o).any fun d => u.core == some d)
      && !(s.cores.any fun p => (p.2.xq.any fun x => xs.contains x.name) || p.2.mcmds.any fun m => ms.contains m.name)

/-- A posted write or a publication reaches the host (R161, R162). -/
def State.postHost (s : State) (n : Nat) : State :=
  match takeAt s.hostOut n with
  | none => s
  | some (o, rest) =>
    if s.hostBlocked n o ∨ !s.hub.pcieUp then s
    else match o with
      | .write _ a bs _ => { s with hostOut := rest }.put (hostKey a) bs
      | .publish _ a v xs ms g => if s.published n xs ms g then { s with hostOut := rest }.put (hostKey a) (leBytes 8 v.toNat) else s
      | .atomic _ => s

/-- A device AtomicOp fails (R389): its value is not written, its continuation not applied. -/
def State.failAtomic (s : State) (r : Req) : State :=
  s.lateFault r.org ⟨0x11, hostLoc, leBytes 1 2 ++ leBytes 1 4 ++ leBytes 1 r.opcode, some r.va⟩

/-- ATOMICOP_COMPLETION: the completion of the n-th operation, an AtomicOp, returns (R160, R389). -/
def execAtomicopCompletion (n : Nat) (ok : Bool) (s : State) : Out :=
  match takeAt s.hostOut n with
  | some (.atomic r, rest) =>
    .next (if s.hostBlocked n (.atomic r) ∨ (ok ∧ !s.hub.pcieUp) then s
      else if ok then { s with hostOut := rest }.performAtomic r
      else { s with hostOut := rest }.failAtomic r)
  | _ => .next s

/-- An operation that does not reach the host (R389, R393): a publication behind a dropped write of its task is withheld. -/
def State.loseHostOp (s : State) (o : HostOp) (behind : Bool) : State :=
  match o with
  | .write va _ _ g => s.dropHostWrite 4 va g
  | .publish va _ _ _ _ g => s.dropHostWrite (if behind then 5 else 4) va g
  | .atomic r => s.failAtomic r

/-- The publications of a task that are behind a dropped write of it are withheld (R393). -/
def State.withhold (s : State) (g : Org) : State :=
  let (gone, kept) := s.hostOut.partition fun o => match o with | .publish _ _ _ _ _ h => h.core == g.core && h.serial == g.serial | _ => false
  gone.foldl (fun (s : State) o => s.loseHostOp o true) { s with hostOut := kept }

/-- HOST_WRITE_DROPPED: the host returns an error for the n-th operation, a write (R393). -/
def execHostWriteDropped (n : Nat) (s : State) : Out :=
  match takeAt s.hostOut n with
  | none => .next s
  | some (o, rest) =>
    match o with
    | .atomic _ => .next s
    | _ => .next (({ s with hostOut := rest }.loseHostOp o false).withhold o.org)

/-- PCIE_LINK_DOWN: the host link goes down, and what was on its way is lost (R393). -/
def execPcieLinkDown (s : State) : Out :=
  if !s.hub.pcieUp then .next s
  else
    let l := s.hostOut
    let s := { s.modHub (fun h => { h with pcieUp := false }) with hostOut := [] }
    .next (l.zipIdx.foldl (fun (s : State) p =>
      s.loseHostOp p.1 ((l.take p.2).any fun q => q.org.core == p.1.org.core && q.org.serial == p.1.org.serial)) s)

end Sys2Proof.Machine
end

