-- ==== Sys2Proof/Machine/Route.lean ====
section
/-! DEFINITION. The routing engine of a die: XROUTE, XRSNAP, XEXPA and XEXPR at issue, the pass, the snapshot and the expert slots (13, R294
to R304; 12, R289 to R291; 22, R417). -/
namespace Sys2Proof.Machine

/-! Issue: a command takes its queue entry and its place in the die's engine queue. -/

/-- A command enqueued with the routing engine of its core's die (R296). -/
def State.askEngine (s : State) (x : XCmd) : Attempt State := do
  let t ← s.enqueueX x
  .ok (t.modDie (dieOf s.iss.core) fun d => { d with rq := d.rq ++ [(s.iss.core, x.ord)] })

/-- XROUTE at issue (R289). -/
def execXroute (f : XF) (topk : BitVec 3) (mode : BitVec 2) (s : State) : Out :=
  s.under f.g (settle (do
    let i := Instr.xroute f topk mode
    let x := s.xcmd i
    s.wordOk x
    let (b, t) ← s.goodRec 4 0x08 x.sr
    let r := Shape.parse b
    need ((r.fmt == 0 || r.fmt == 2) && r.rank == 2 && r.trows == 32) (s.refuseX i 2 (some x.sr))
    t.askEngine { x with srec := b }))

/-- XRSNAP at issue (R290). -/
def execXrsnap (f : XF) (clear : BitVec 1) (s : State) : Out :=
  s.under f.g (settle (do
    let i := Instr.xrsnap f clear
    let x := s.xcmd i
    s.wordOk x
    s.alignX i 6 x.dr
    (match s.spanKeys s.iss.core s.iss.src.ctxid .g x.dr 0x880 .write with
     | .error e => .error (s.outOfMap 1 4 0 0 e)
     | .ok _ => .ok () : Attempt Unit)
    s.askEngine x))

/-- XEXPA at issue (R291). -/
def execXexpa (f : XF) (expert : SReg) (s : State) : Out :=
  s.under f.g (settle (do
    let i := Instr.xexpa f expert
    let x := s.xcmd i
    s.wordOk x
    let (b, t) ← s.goodRec 4 0x0A x.sr
    let r := Shape.parse b
    need (r.idxfmt == 0 && s.carriedOk s.iss.src.ctxid r) (s.refuseX i 2 (some x.sr))
    let x := { x with srec := b }
    need (r.clip == 0 || x.src.whole) (s.refuseX i 3 (some x.sr))
    s.blockIn x.src .read 4 (r.rime == 2)
    t.askEngine x))

/-- XEXPR at issue (R291). -/
def execXexpr (f : XF) (expert : SReg) (s : State) : Out :=
  s.under f.g (settle (do
    let x := s.xcmd (.xexpr f expert)
    s.wordOk x
    s.askEngine x))

/-! The routing descriptor (R294, R295). -/

/-- A routing descriptor. -/
structure RouteDesc where
  bias : Nat
  repl : Nat
  idxout : Nat
  wout : Nat
  lists : Nat
  hist : Nat
  recbase : Nat
  ntgt : Nat
  tpe : Nat
  larg : Nat
  flags : Nat
  rest : Nat
  deriving DecidableEq, Repr

/-- The descriptor that 128 bytes hold (R294). -/
def RouteDesc.parse (b : List Byte) : RouteDesc where
  bias := byteNum b 0 8
  repl := byteNum b 8 8
  idxout := byteNum b 0x10 8
  wout := byteNum b 0x18 8
  lists := byteNum b 0x20 8
  hist := byteNum b 0x28 8
  recbase := byteNum b 0x30 8
  ntgt := byteNum b 0x38 2
  tpe := byteNum b 0x3A 2
  larg := byteNum b 0x3C 1
  flags := byteNum b 0x3D 1
  rest := byteNum b 0x3E 66

/-- The descriptor breaks a rule of R294, for E experts. -/
def RouteDesc.bad (d : RouteDesc) (e : Nat) : Bool :=
  decide (d.ntgt < 1 ∨ d.ntgt > 512 ∨ d.tpe < 1 ∨ d.tpe > 2048 ∨ (d.larg > 3 ∧ d.larg ≠ 0xFF) ∨ d.flags > 1 ∨ d.rest ≠ 0)
    || decide (d.bias % 4 ≠ 0 ∨ d.repl % 16 ≠ 0 ∨ d.idxout % 4 ≠ 0 ∨ d.wout % 4 ≠ 0 ∨ d.lists % 4 ≠ 0 ∨ d.hist % 4 ≠ 0 ∨ d.recbase % 128 ≠ 0)
    || (d.repl == 0 && decide (e > d.ntgt))

/-- HACC. -/
def RouteDesc.hacc (d : RouteDesc) : Bool := d.flags == 1

/-- The score record breaks a rule of R294. -/
def scoreBad (r : Shape) (k : Nat) : Bool :=
  let e := r.ext.getD 0 0
  let t := r.ext.getD 1 0
  decide (r.rank ≠ 2 ∨ r.rowdim ≠ 1 ∨ r.coldim ≠ 0 ∨ r.idxfmt ≠ 0 ∨ (r.space ≠ 0 ∧ r.space ≠ 3) ∨ e < 1 ∨ e > 512 ∨ t < 1 ∨ t > 65536 ∨ k > e)

/-- The targets of an expert: its replica entry, or itself alone (R295). -/
def replTargets (b : List Byte) (e : Nat) : List Nat :=
  let n := byteNum b 0 1
  if n = 0 then [e] else (List.range n).map fun i => byteNum b (2 + 2 * i) 2

/-- A replica entry breaks R295. -/
def replBad (b : List Byte) (e ntgt : Nat) : Bool :=
  decide (byteNum b 0 1 > 4 ∨ byteNum b 1 1 ≠ 0 ∨ byteNum b 10 6 ≠ 0) || (replTargets b e).any fun x => decide (ntgt ≤ x)

/-- What a pass reads and may touch, translated (R296): the descriptor, the record, the biases, the targets of each expert. -/
structure RouteIn where
  desc : RouteDesc
  shape : Shape
  bias : Nat → FVal
  targets : Nat → List Nat
  score : Nat → Nat → FVal

/-- Experts and tokens of a pass. -/
def RouteIn.experts (p : RouteIn) : Nat := p.shape.ext.getD 0 0
/-- See `RouteIn.experts`. -/
def RouteIn.tokens (p : RouteIn) : Nat := p.shape.ext.getD 1 0

/-! The choice of experts and weights (R296). -/

/-- RoundFp32 under RNE. -/
def roundFp32 (v : FVal) : FVal := decodeF 0 (roundF 0 .rne false v)

/-- The biased score as it is compared: NaN counts as minus infinity. -/
def biased (v b : FVal) : FVal :=
  let x := roundFp32 (v.add .rne b)
  if x.isNan then .inf true else x

/-- The numbers of the k largest of a list, larger first, equal ones by lower number. -/
def topPicks (b : List FVal) (k : Nat) (left : List Nat) : List Nat :=
  match k with
  | 0 => []
  | k + 1 =>
    match left with
    | [] => []
    | e :: l =>
      let best := l.foldl (fun a e => if (b.getD a FVal.zero).lt (b.getD e FVal.zero) then e else a) e
      best :: topPicks b k (left.filter (· != best))

/-- The FP32 sum of a list in order. -/
def sumFp32 (l : List FVal) : FVal := match l with | [] => FVal.zero | a :: l => l.foldl (fun x y => roundFp32 (x.add .rne y)) a

/-- Normalise (R296): mode 0 sigmoid, 1 softmax over the selected experts. -/
def normalise (mode : Nat) (l : List FVal) : List FVal :=
  if l.any FVal.isNan then l.map fun _ => .nan false
  else
    let m := match l with | [] => FVal.zero | a :: l => l.foldl FVal.max2 a
    let log2e := decodeF 0 0x3FB8AA3B
    let g := if mode = 0 then l.map fun v => roundFp32 (transc 3 v)
      else l.map fun v => roundFp32 (transc 0 (roundFp32 ((v.add .rne m.opp).mul log2e)))
    let total := sumFp32 g
    g.map fun x => roundFp32 (x.div total)

/-- One entry of a token's row. -/
structure RouteEnt where
  target : Option Nat
  merged : Bool
  dropped : Bool
  weight : FVal
  deriving DecidableEq, Repr

/-- The index entry (R297). -/
def RouteEnt.index (e : RouteEnt) : Nat := (e.target.getD 0xFFFF) + 2 ^ 16 * e.merged.toNat + 2 ^ 17 * e.dropped.toNat

/-- The running state of a pass: counts by target, uses and selections by expert, rows, and the list entries as target, token and
rank. -/
structure RouteAcc where
  cnt : Tbl Nat
  rr : Tbl Nat
  sel : Tbl Nat
  rows : List (List RouteEnt)
  app : List (Nat × Nat × Nat)
  deriving DecidableEq, Repr

/-- One selected expert of a token (R296). -/
def RouteAcc.rank (a : RouteAcc) (p : RouteIn) (t : Nat) (row : List RouteEnt) (e : Nat) (w : FVal) : RouteAcc × List RouteEnt :=
  let l := p.targets e
  let use := a.rr.get e 0
  let x := l.getD (use % l.length) e
  let a := { a with sel := a.sel.set e (a.sel.get e 0 + 1), rr := a.rr.set e (use + 1) }
  if row.any fun q => q.target == some x then
    (a, (row.map fun q => if q.target = some x then { q with weight := roundFp32 (q.weight.add .rne w), merged := true } else q)
      ++ [⟨none, false, false, FVal.zero⟩])
  else
    let n := a.cnt.get x 0
    let room := decide (n < p.desc.tpe * 32)
    ({ a with cnt := a.cnt.set x (n + 1), app := if room then a.app ++ [(x, t, row.length)] else a.app },
      row ++ [⟨some x, false, !room, w⟩])

/-- One token (R296). -/
def RouteAcc.token (p : RouteIn) (k mode : Nat) (a : RouteAcc) (t : Nat) : RouteAcc :=
  let scores := (List.range p.experts).map (p.score t)
  let b := scores.zipIdx.map fun q => biased q.1 (p.bias q.2)
  let picks := topPicks b k (List.range p.experts)
  let w := normalise mode (picks.map fun e => scores.getD e FVal.zero)
  let (a, row) := (picks.zip w).foldl (fun (x : RouteAcc × List RouteEnt) q => x.1.rank p t x.2 q.1 q.2) (a, [])
  { a with rows := a.rows ++ [row] }

/-- RoutePass (R296). -/
def RouteIn.run (p : RouteIn) (k mode : Nat) : RouteAcc := (List.range p.tokens).foldl (RouteAcc.token p k mode) ⟨[], [], [], [], []⟩

/-! Outputs (R297). -/

/-- The 4-byte words of an output, as addresses and values; none where its address is 0. -/
def wordsAt (base : Nat) (l : List Nat) : List (Nat × Nat) :=
  if base = 0 then [] else l.zipIdx.map fun p => (base + 4 * p.2, p.1)

/-- A saturating addition: the limit and the flag. -/
def satAdd (limit a b : Nat) : Nat × Bool := if a + b > limit then (limit, true) else (a + b, false)

/-- The histogram, the total and the flag word (R297), over the words that memory holds under HACC. -/
def histWords (old : Nat → Nat) (hacc : Bool) (ntgt : Nat) (cnt : Tbl Nat) : List Nat :=
  let c (x : Nat) : Nat := cnt.get x 0
  let total := ((List.range ntgt).map c).foldl (· + ·) 0
  if !hacc then (List.range ntgt).map c ++ [total, 0]
  else
    let w (x : Nat) : Nat :=
      let (n, sat) := satAdd 0xFFFFFF (old x % 2 ^ 24) (c x)
      n + (if sat ∨ old x / 2 ^ 31 % 2 = 1 then 2 ^ 31 else 0)
    let (n, sat) := satAdd 0xFFFFFFFF (old ntgt) total
    (List.range ntgt).map w ++ [n, if sat ∨ old (ntgt + 1) % 2 = 1 then 1 else 0]

/-- Every word that a pass writes. -/
def RouteIn.out (p : RouteIn) (k : Nat) (a : RouteAcc) (old : Nat → Nat) : List (Nat × Nat) :=
  let d := p.desc
  let lists := if d.lists = 0 then [] else (List.range d.ntgt).flatMap fun x =>
    ((a.app.filter fun q => q.1 == x).zipIdx).map fun q => (d.lists + x * d.tpe * 128 + 4 * q.2, q.1.2.1 + 2 ^ 17 * q.1.2.2)
  wordsAt d.idxout (a.rows.flatMap fun r => (List.range k).map fun i => (r.getD i ⟨none, false, false, FVal.zero⟩).index)
    ++ wordsAt d.wout (a.rows.flatMap fun r => (List.range k).map fun i => roundF 0 .rne false (r.getD i ⟨none, false, false, FVal.zero⟩).weight)
    ++ lists
    ++ wordsAt d.hist (histWords old d.hacc d.ntgt a.cnt)

/-- The launches of a pass (R299): one word for every non-empty tile of every target, with its value. -/
def RouteIn.launches (p : RouteIn) (a : RouteAcc) : List (Nat × Nat) :=
  let d := p.desc
  if d.recbase = 0 then []
  else (List.range d.ntgt).flatMap fun x =>
    let n := min (a.cnt.get x 0) (d.tpe * 32)
    (List.range ((n + 31) / 32)).map fun j => (d.recbase + (x * d.tpe + j) * 128, x * 2 ^ 32 + j * 2 ^ 16 + min 32 (n - 32 * j))

/-! The pass at the engine. -/

/-- Why a pass does not start: a broken rule, an address out of map with kind, element, reason and address, damaged bytes, or bytes of another module
that are on their way, with the state that asks for them. -/
inductive RouteErr where
  | rule
  | map (kind elem : Nat) (e : Nat × Word)
  | poison (key : Nat)
  | wait (t : State)

/-- The keys of a range of the G space that a pass touches. -/
def State.passKeys (s : State) (x : XCmd) (a n : Nat) (acc : Acc) : Except RouteErr (List Nat) :=
  match s.spanKeys (x.org.core.getD 0) x.org.ctx .g (BitVec.ofNat 64 a) n acc with
  | .ok ks => .ok ks
  | .error e => .error (.map (if acc = .write then 1 else 0) 0 e)

/-- Bytes that a pass reads: asked for where another module holds them, undamaged, rime entries among them formed (R82, R125, R384). -/
def State.passRead (s : State) (x : XCmd) (ks : List Nat) : Except RouteErr State :=
  match s.awaitFar x.org x.farName ks with
  | some t => .error (.wait t)
  | none => match s.hurtKey ks with
    | some k => .error (.poison k)
    | none => .ok (s.reform ks)

/-- The bytes of a range that a pass reads; none where its address is 0. -/
def State.passBytes (s : State) (x : XCmd) (a n : Nat) : Except RouteErr (List Byte × State) := do
  if a = 0 then .ok ([], s)
  else
    let ks ← s.passKeys x a n .read
    let t ← s.passRead x ks
    .ok (ks.map (Memory.read t.mem), t)

/-- Score (t, e) of a record: keys, or the fault with its element's place in its block (R294). -/
def State.scoreKeys (s : State) (x : XCmd) (t e : Nat) : Except RouteErr (List Nat × Nat) :=
  let b := x.src
  match s.elemKeys b .read [e, t, 0, 0, 0] with
  | .ok ks => .ok ks
  | .error err => .error (.map 0 (t % b.r.trows * b.r.tcols + e % b.r.tcols) err)

/-- A pass starts (R296): everything is read, every address translated. -/
def State.startPass (s : State) (x : XCmd) (k : Nat) : Except RouteErr (RouteIn × State) := do
  let r := x.src.r
  let ne := r.ext.getD 0 0
  let nt := r.ext.getD 1 0
  if x.dr.toNat % 64 ≠ 0 then .error .rule
  let dk ← s.passKeys x x.dr.toNat 128 .read
  let s ← s.passRead x dk
  let d := RouteDesc.parse (dk.map (Memory.read s.mem))
  if scoreBad r k || d.bad ne then .error .rule
  let (bias, s) ← s.passBytes x d.bias (4 * ne)
  let (repl, s) ← s.passBytes x d.repl (16 * ne)
  let ent (e : Nat) : List Byte := (repl.drop (16 * e)).take 16
  if d.repl ≠ 0 ∧ (List.range ne).any fun e => replBad (ent e) e d.ntgt then .error .rule
  if s.slotForeign r x.src.core x.org.ctx then .error (.map 0 0 (7, addrWord (r.addr [0, 0, 0, 0, 0]).1))
  let scores ← (List.range nt).mapM fun t => (List.range ne).mapM fun e => s.scoreKeys x t e
  let s ← s.passRead x (scores.flatten.flatMap (·.1))
  let reach (a n : Nat) (acc : Acc) : Except RouteErr Unit := if a = 0 then .ok () else (s.passKeys x a n acc).map fun _ => ()
  reach d.idxout (4 * nt * k) .write
  reach d.wout (4 * nt * k) .write
  reach d.lists (128 * d.ntgt * d.tpe) .write
  reach d.hist (4 * d.ntgt + 8) .write
  let (_, s) ← if d.hacc then s.passBytes x d.hist (4 * d.ntgt + 8) else .ok ([], s)
  .ok ({ desc := d, shape := r
         bias := fun e => if d.bias = 0 then FVal.zero else decodeF 0 (byteNum bias (4 * e) 4)
         targets := fun e => if d.repl = 0 then [e] else replTargets (ent e) e
         score := fun t e => decodeF r.fmt (s.elemGet r.fmt ((scores.getD t []).getD e ([], 0))) }, s)

/-- Bytes in the pieces of an engine: runs of neighbours within a 32-byte sector (R146). -/
def enginePieces (l : List (Nat × Byte)) : List (Nat × List Byte) :=
  match l with
  | [] => []
  | (a, b) :: l =>
    match enginePieces l with
    | (n, bs) :: r => if n = a + 1 ∧ n % 32 ≠ 0 then (a, b :: bs) :: r else (a, [b]) :: (n, bs) :: r
    | [] => [(a, [b])]

/-- Words written at G addresses by an engine, piece by piece; those in another module are sent (R82, R146, R385). -/
def State.putWords (s : State) (x : XCmd) (l : List (Nat × Nat)) : State :=
  let key (a : Nat) : Option Nat := (s.translate x.org.ctx (BitVec.ofNat 64 a) .write).toOption.map Target.key
  let bytes := l.flatMap fun w => (leBytes 4 w.2).zipIdx.map fun p => (w.1 + p.2, p.1)
  let keys := bytes.filterMap fun p => key p.1
  let s := (enginePieces bytes).foldl (fun (s : State) p =>
    match s.translate x.org.ctx (BitVec.ofNat 64 p.1) .write with
    | .ok t => s.putTarget x.org.ctx (BitVec.ofNat 64 p.1) t p.2
    | .error _ => s) s
  (s.heal keys).flushFar x.org x.farName keys

/-- Some word goes to the host while the link is down (R393). -/
def State.wordsCut (s : State) (x : XCmd) (l : List (Nat × Nat)) : Option Word :=
  (l.find? fun p => match s.translate x.org.ctx (BitVec.ofNat 64 p.1) .write with | .ok t => s.cut t.key | .error _ => false).map
    fun p => BitVec.ofNat 64 p.1

/-- The routing engine of a core's die as a reporting unit (R356). -/
def routeLoc (c : Nat) : Loc := locDie 12 (dieOf c)

/-- The continuation word of a launch: KIND 1, or 2 to argument LARG, AMOUNT 1 (R299). -/
def launchWord (larg record : Nat) : Word :=
  if larg = 0xFF then BitVec.ofNat 64 (2 ^ 56 + 2 ^ 52 + record) else BitVec.ofNat 64 (2 ^ 56 + 2 * 2 ^ 52 + larg * 2 ^ 48 + record)

/-- One launch sent; a record that no word can name lies outside the map. -/
def State.launch (s : State) (o : Org) (larg record v : Nat) : State :=
  let w := launchWord larg (record % 2 ^ 48)
  if record < 2 ^ 48 then s.sendCont 8 w (BitVec.ofNat 64 v) o
  else s.launchFault (sendingLoc (12, 0) o) 8 0 0 w (BitVec.ofNat 64 record) o

/-- sel added to the die's counters at one instant, saturating (R298). -/
def Die.addSel (d : Die) (sel : Tbl Nat) : Die :=
  let (c, f) := sel.foldl (fun (a : Tbl Nat × List Nat) p =>
    let (v, sat) := satAdd 0xFFFFFFFF (a.1.get p.1 0) p.2
    (a.1.set p.1 v, if sat && !a.2.contains p.1 then p.1 :: a.2 else a.2)) (d.counters, d.sticky)
  { d with counters := c, sticky := f, passes := min (d.passes + 1) (2 ^ 64 - 1) }

/-- The engine has served a command of its queue. -/
def State.popRq (s : State) (q : Nat × Nat) : State := s.modDie (dieOf q.1) fun d => { d with rq := d.rq.filter (· != q) }

/-- The pass performed (R296 to R299): outputs, counters, launches; or the engine waits for what it reads of other modules. -/
def State.doPass (s : State) (c : Nat) (x : XCmd) (k mode : Nat) : State :=
  let served (t : State) : State := t.popRq (c, x.ord)
  match s.startPass x k with
  | .error (.wait t) => t
  | .error .rule => served (x.gone c (s.lateFault x.org (refused (routeLoc c) 4 0x08 1 7 (some x.dr))))
  | .error (.map kind elem e) => served (x.gone c (s.lateFault x.org (mapFault (routeLoc c) kind e.1 4 0 elem e.2)))
  | .error (.poison key) => served (x.gone c (s.cmdConsume x.cur x.org (routeLoc c) 5 (some key)))
  | .ok (p, s) =>
    let a := p.run k mode
    let old (n : Nat) : Nat :=
      match s.translate x.org.ctx (BitVec.ofNat 64 (p.desc.hist + 4 * n)) .read with | .ok t => s.num t.key 4 | .error _ => 0
    let out := p.out k a old
    match s.wordsCut x out with
    | some va => served ((s.popX c x).dropHostWrite 4 va x.org)
    | none =>
      let s := (s.sealIf x.cur x.org).putWords x out
      let s := s.modDie (dieOf c) fun d => d.addSel a.sel
      let s := (p.launches a).foldl (fun (s : State) l => s.launch x.org p.desc.larg l.1 l.2) s
      served (s.putX c { x with stage := 3, valid := p.tokens })

/-! Snapshots (R301). -/

/-- The 0x880 bytes of a snapshot. -/
def Die.snapshot (d : Die) (frame : Nat) : List Byte :=
  (List.range 512).flatMap (fun e => leBytes 4 (d.counters.get e 0))
    ++ (List.range 64).map (fun n => BitVec.ofNat 8 ((List.range 8).foldl (fun a i => a + (if d.sticky.contains (8 * n + i) then 2 ^ i else 0)) 0))
    ++ leBytes 8 frame ++ leBytes 8 d.passes ++ List.replicate 48 0

/-- XRSNAP served (R290, R301). -/
def State.doSnap (s : State) (c : Nat) (x : XCmd) (clear : Bool) : State :=
  let d := s.die (dieOf c)
  let bytes := d.snapshot s.frame
  match s.spanKeys c x.org.ctx .g x.dr 0x880 .write with
  | .error (r, a) => x.gone c (s.lateFault x.org (mapFault (routeLoc c) 1 r 4 0 0 a))
  | .ok ks =>
    if ks.any s.cut then (s.popX c x).dropHostWrite 4 x.dr x.org
    else
      let s := (s.sealIf x.cur x.org).putWords x ((List.range (0x880 / 4)).map fun n => (x.dr.toNat + 4 * n, byteNum bytes (4 * n) 4))
      let s := if clear then s.modDie (dieOf c) fun d => { d with counters := [], sticky := [], passes := 0 } else s
      s.putX c { x with stage := 3, valid := min d.passes 0xFFFFFFFF }

/-! Expert slots (R302, R303). -/

/-- The expert id of a command. -/
def XCmd.expert (x : XCmd) : Nat := x.e1.toNat % 2 ^ 16

/-- The slot that holds an expert of a context. -/
def Die.expertOf (d : Die) (ctx id : Nat) : Option (Nat × Expert) :=
  d.experts.find? fun p => p.2.ctx == ctx && p.2.expert == id && p.2.st != .empty

/-- Bytes of a block's data in a slot (R302). -/
def slotData (r : Shape) : Nat := (r.trows * r.tcols * elemBits r.fmt + 7) / 8

/-- Bytes that a block takes in a slot: data rounded up to 256, and 256 for each tile (R303). -/
def slotNeed (r : Shape) : Nat := (slotData r + 255) / 256 * 256 + 256 * (r.trows / 32 * (r.tcols / 32))

/-- The clock hand's sweeps (R303): the slot taken, with the table and the hand after it. -/
def sweep (n hand : Nat) (t : Tbl Expert) : Option Nat × Nat × Tbl Expert :=
  match n with
  | 0 => (none, hand, t)
  | n + 1 =>
    let e := t.get hand Expert.empty
    let next := (hand + 1) % 64
    if e.st ≠ .loading ∧ e.refs = 0 ∧ !e.use then (some hand, next, t)
    else sweep n next (t.set hand { e with use := false })

/-- XEXPA served (R303): a slot acquired, a load begun, or STATUS 3; it waits while the expert's load is in flight. -/
def State.doAcquire (s : State) (c : Nat) (x : XCmd) : State :=
  let die := dieOf c
  let d := s.die die
  if slotNeed x.src.r > s.hub.slotsz then
    (x.gone c (s.lateFault x.org (refused (routeLoc c) 4 0x0A 1 6 (some x.sr)))).popRq (c, x.ord)
  else match d.expertOf x.org.ctx x.expert with
    | some (n, e) =>
      if e.st ≠ .resident then s
      else
        let s := s.sealIf x.cur x.org
        if e.refs = 0xFFFF then (s.putX c { x with stage := 3, status := 3, valid := 0xFFFFFFFF }).popRq (c, x.ord)
        else ((s.modDie die fun d => { d with experts := d.experts.set n { e with refs := e.refs + 1, use := true } }).putX c
          { x with stage := 3, valid := n }).popRq (c, x.ord)
    | none =>
      let s := s.sealIf x.cur x.org
      match sweep 128 d.hand d.experts with
      | (none, hand, t) =>
        ((s.modDie die fun d => { d with hand := hand, experts := t }).putX c { x with stage := 3, status := 3, valid := 0xFFFFFFFF }).popRq (c, x.ord)
      | (some n, hand, t) =>
        let e := t.get n Expert.empty
        (s.modDie die fun d => { d with hand := hand, experts := t.set n { e with ctx := x.org.ctx, expert := x.expert, st := .loading } }).putX c
          { x with stage := 2, valid := n }

/-- XEXPR served (R291, R303). -/
def State.doRelease (s : State) (c : Nat) (x : XCmd) : State :=
  let die := dieOf c
  let s := s.sealIf x.cur x.org
  match (s.die die).expertOf x.org.ctx x.expert with
  | none => s.putX c { x with stage := 3, valid := 0xFFFFFFFF }
  | some (n, e) =>
    let refs := if e.st = .loading then e.refs else e.refs - 1
    (s.modDie die fun d => { d with experts := d.experts.set n { e with refs := refs } }).putX c { x with stage := 3, valid := refs }

/-- A load whose command is gone leaves its slot empty (DEDUCED, log 32). -/
def State.dropLoads (s : State) (die : Nat) : State :=
  s.modDie die fun d => { d with experts := d.experts.map fun p => if p.2.st = .loading then (p.1, Expert.empty) else p }

/-- The command at the head of a die's engine queue, or none where it is gone. -/
def State.rqHead (s : State) (q : Nat × Nat) : Option XCmd := (s.core q.1).xq.find? fun x => x.ord == q.2 && !x.refetch

/-- What a die's routing engine is busy with, or serves next: the oldest command that its core's engine has begun, or one that is gone (R268, R296). -/
def State.rqNext (s : State) (die : Nat) : Option (Nat × Nat) :=
  let l := (s.die die).rq
  let busy (q : Nat × Nat) : Bool := (s.rqHead q).any fun x => x.stage == 2
  let due (q : Nat × Nat) : Bool := (s.rqHead q).all fun x => (s.core q.1).inEngine x
  (l.find? busy).or (l.find? due)

/-- ROUTE_PASS: the routing engine of a die serves the next command of its queue (R296). -/
def execRoutePass (die : Nat) (s : State) : Out :=
  match s.rqNext die with
  | none => .next s
  | some q =>
    match s.rqHead q with
    | none => .next ((s.dropLoads die).popRq q)
    | some x =>
      if x.stage ≠ 0 then .next s
      else match x.instr with
        | .xroute _ topk mode => .next (s.doPass q.1 x (topk.toNat + 1) mode.toNat)
        | .xrsnap _ clear => .next ((s.doSnap q.1 x (clear == 1)).popRq q)
        | .xexpa _ _ => .next (s.doAcquire q.1 x)
        | .xexpr _ _ => .next ((s.doRelease q.1 x).popRq q)
        | _ => .next (s.popRq q)

/-- A block moved into a slot of a die (R302): data, then the rime of its tiles as a move carries it (R278), with the damage that comes with it (R383).
Answers whether an entry was formed on reading, and whether one was written with UNVER. -/
def State.loadSlot (s : State) (die slot : Nat) (b : Block) : State × Bool × Bool :=
  let (ents, formed, s) := if b.r.rime = 2 then s.carriedEntries b else ([], false, s)
  let key (off : Nat) : Nat := s.slotKey die slot off
  let w := elemBits b.r.fmt
  let wire := b.cells.foldl (fun (m : Wire) p =>
    let i := (p.1 * b.r.tcols + p.2) * w
    m.lay (key (i / 8)) (i % 8) w (s.cellBits b .read p.1 p.2)) []
  let base := (slotData b.r + 255) / 256 * 256
  let entry (q : Nat × Nat) : RimeEnt := match ents.find? fun r => r.1 == q with
    | some (_, e) => e
    | none => ⟨s.tileSums b .read q.1 q.2, !(b.r.rime == 2), 0⟩
  let t := (wire.foldl (fun (s : State) q => s.put q.1 [BitVec.ofNat 8 q.2.2]) s).heal (wire.map (·.1))
  let t := b.tiles.zipIdx.foldl (fun (t : State) q => t.putRime (key (base + 256 * q.2)) (entry q.1)) t
  let t := (b.cells.filter fun p => s.cellHurt b .read p.1 p.2).foldl (fun (t : State) p =>
    t.poisonRange (key ((p.1 * b.r.tcols + p.2) * w / 8)) ((w + 7) / 8)) t
  let t := if b.r.rime ≠ 2 then t else b.tiles.zipIdx.foldl (fun (t : State) q =>
    (s.entryHurt b q.1.1 q.1.2).foldl (fun (t : State) n => t.poisonRange (key (base + 256 * q.2 + 32 * n)) 1) t) t
  (t, formed, b.tiles.any fun q => (entry q).unver)

/-- EXPERT_SLOT_LOAD_DONE: the load that a die's routing engine is busy with is complete (R303). -/
def execExpertSlotLoadDone (die : Nat) (s : State) : Out :=
  match s.rqNext die with
  | none => .next s
  | some q =>
    match s.rqHead q with
    | none => .next s
    | some x =>
      if x.stage ≠ 2 then .next s
      else
        let b := x.src
        match s.awaitFar x.org x.farName (s.blockKeys b.asRead .read) with
        | some t => .next t
        | none =>
          let hurt := s.hurtKey (s.dataKeys b .read ++ s.rimeKeys b.asRead.plain .read)
          let (s, formed, unver) := (s.reform (s.dataKeys b .read)).loadSlot die x.valid b
          let s := match hurt with | some k => s.carryPoison x.org (routeLoc q.1) k | none => s
          let s := s.modDie die fun d =>
            { d with experts := d.experts.set x.valid { d.experts.get x.valid Expert.empty with refs := 1, use := true, st := .resident } }
          .next ((s.putX q.1 { x with stage := 3, status := 256 * formed.toNat + 512 * unver.toNat }).popRq q)

end Sys2Proof.Machine
end

