-- ==== Sys2Proof/Machine/Mailbox.lean ====
section
/-! DEFINITION. Bring-up, the mailbox and its commands, and the kill of a context (15, R327, R330, R332 to R337; 04, R80, R85; 19, R377, R378;
22, R418). -/
namespace Sys2Proof.Machine

/-! Map images (R80, R85). -/

/-- A number of n bytes in an image. -/
def imgNum (b : List Byte) (off n : Nat) : Nat := leNat ((b.drop off).take n)

/-- The entries of a table in an image that are not zero, at most n: entry i holds w bytes. -/
def imgTable (w : Nat) (b : List Byte) (i n : Nat) : List (Nat × Nat) :=
  match n with
  | 0 => []
  | n + 1 => let v := leNat (b.take w); if v = 0 then imgTable w (b.drop w) (i + 1) n else (i, v) :: imgTable w (b.drop w) (i + 1) n

/-- The map that an image lays out (R80). -/
def CtxMap.parse (b : List Byte) : CtxMap where
  dwbase := imgNum b 0 4
  dwsize := imgNum b 4 4
  regions := (imgTable 16 (b.drop 0x40) 0 4096).map fun p => (p.1, BitVec.ofNat 128 p.2)
  pages := (imgTable 8 (b.drop 0x10040) 0 16384).map fun p => (p.1, BitVec.ofNat 64 p.2)
  rdescs := (List.range 16).map fun n =>
    let d := b.drop (0x30040 + 32 * n)
    (n, ⟨imgNum d 0 8, imgNum d 8 8, imgNum d 16 4, imgNum d 20 4, imgNum d 24 4, imgNum d 28 1⟩)

/-- A region entry that firmware refuses (R85): a reserved TYPE or TCLASS, an attribute on a class that does not allow it, a flat region or a
page that reaches past the capacity of its target. An absent entry, TYPE 0, names no region, and its other fields are not looked at (DEDUCED, log 52). -/
def State.regionBad (s : State) (m : CtxMap) (e : Quad) : Bool :=
  let ty := entFld e 71 2
  let cls := entFld e 73 4
  let cap := classCapacity s.grade cls
  ty != 0 && (ty == 3 || decide (4 < cls) || (entBit e 67 && decide (1 < cls)) || (entBit e 66 && cls != 3) || (entBit e 65 && decide (2 < cls))
    || (entBit e 70 && decide (1 < cls))
    || (if ty = 1 then decide (cap < entFld e 0 64 + entFld e 84 12 * 2 ^ 21)
        else m.pages.any fun p => p.1 / 2048 == entFld e 0 3 && p.2.getLsbD 0 && decide (cap < (p.2.toNat / 2 ^ 21 + 1) * 2 ^ 21)))

/-- The window of a map overlaps another context's, or reaches into the expert slots (R75, R85). An empty window overlaps none. -/
def State.windowBad (s : State) (ctx : Nat) (m : CtxMap) : Bool :=
  decide (64 * 2 ^ 20 < (m.dwbase + m.dwsize) * 2 ^ 20 + s.slotArea)
    || (List.range 16).any fun c =>
      let o := s.map c
      c != ctx && (s.ctx c).resident && decide (m.dwsize ≠ 0 ∧ o.dwsize ≠ 0 ∧ m.dwbase < o.dwbase + o.dwsize ∧ o.dwbase < m.dwbase + m.dwsize)

/-- Firmware refuses a map (R85). -/
def State.mapBad (s : State) (ctx : Nat) (m : CtxMap) : Bool := m.regions.any (fun p => s.regionBad m p.2) || s.windowBad ctx m

/-- A core has nothing of a context: no task, no command, no store, no send and no result under way (R85). -/
def Core.quiet (k : Core) (ctx : Nat) : Bool :=
  let mine (o : Org) : Bool := o.ctx == ctx
  !((match k.task with | some b => b.ctx == ctx | none => false) || k.xq.any (fun x => mine x.org) || k.mcmds.any (fun m => mine m.org)
    || k.drains.any (fun d => mine d.cmd.org) || (k.gate ++ k.releasing).any (fun e => mine e.org)
    || (k.ctxid == ctx && !(k.sending.isEmpty && k.held.isEmpty && k.vpend.isEmpty)))

/-- Nothing of a context runs or is outstanding (R85): in a core, at a home slice, on its way to the host or another module, or arriving from one; a kill
under way is complete first (R378). -/
def State.quiet (s : State) (ctx : Nat) : Bool :=
  let mine (o : Org) : Bool := o.ctx == ctx
  s.cores.all (fun p => p.2.quiet ctx)
    && !(s.reqs.any fun r => mine r.org) && !(s.parked.any fun p => mine p.req.org) && !((s.conts ++ s.cancels).any fun c => mine c.org)
    && !(s.upds.any fun u => u.ctx == ctx) && !(s.hostOut.any fun o => mine o.org) && !(s.remotes.any fun r => mine r.org)
    && !(s.lates.any fun l => mine l.iss.org) && !(s.landing.any fun f => flitFld f 28 4 == ctx)
    && (match (s.ctx ctx).kill with | .running _ => false | _ => true)

/-- A 256-byte unit of memory holds an entry of a rime region that a descriptor of a context names (R84, R124). -/
def State.describes (s : State) (ctx unit : Nat) : Bool :=
  (s.vasOf ctx (unit * 256)).any fun va => ((s.map ctx).tileAt va).isSome

/-- Every tag of every descriptor of a context is reform-pending, as a tag is that nothing has set (R124). -/
def State.resetTags (s : State) (ctx : Nat) : State := { s with tags := s.tags.filter fun p => !s.describes ctx p.1 }

/-- A map takes effect, in every map store (R85; the stores hold one map): the context is resident, the tags of its descriptors are set (R124), its
queues are released. -/
def State.installMap (s : State) (ctx : Nat) (m : CtxMap) : State :=
  (s.modCtx ctx fun x => { x with map := m, resident := true, frozen := false, kill := .none }).resetTags ctx

/-! Bring-up (R335). -/

/-- MODULE_RESET: registers, tables, slots and valves take their reset values (R57, R62, R254, R317); memory and the frame counter, of which the
spec says nothing, stay (DEDUCED, log 13). -/
def execModuleReset (s : State) : Out :=
  .next { State.reset with
    mem := s.mem
    poison := s.poison
    rflags := s.rflags
    tags := s.tags
    grade := s.grade
    frame := s.frame
    steps := s.steps
    serials := s.serials
    turn := s.turn
    iss := s.iss
    hub := { Hub.reset with flash := s.hub.flash } }

/-- The machine ring is configured, and takes what the controller has kept (R360). -/
def State.openRing (s : State) (addr size : Nat) : State :=
  let kept := s.hub.mring.store
  let s := s.modHub fun h => { h with mring := { h.mring with configured := true, addr := addr, size := size, store := [] } }
  let m := s.hub.mring
  kept.foldl State.ringPut (if m.ovf then s.put (hostKey (addr + 16)) (leBytes 8 (2 ^ 63 + m.lost)) else s)

/-! Images in module flash (R335). -/

/-- An image of module flash: as it was written, else as it left manufacture (DESIGN CHOICE, log 13). -/
def State.image (s : State) (n : Nat) : List Byte := (s.hub.flash.find n).getD (Config.flashImage n)

/-- Image n as bring-up takes it: the first copy that verifies, with a good signature and a security version not below the fused counter (R335). -/
def State.goodImage (s : State) (n : Nat) : Option (List Byte) :=
  [2 * n, 2 * n + 1].findSome? fun k =>
    if Config.imageSigned (s.image k) && decide (Config.fusedVersion ≤ Config.imageVersion (s.image k)) then some (s.image k) else none

/-- What firmware takes from its configuration at step 5 is in range: the machine ring (R360) and the slot size (R302); else the step fails (DEDUCED, log 13). -/
def bootSizesOk (cfg : BootConfig) : Bool :=
  ((List.range 15).any fun n => cfg.ringSize == 2 ^ (n + 6)) && cfg.slotsz % 65536 == 0 && decide (65536 ≤ cfg.slotsz ∧ cfg.slotsz ≤ 8 * 65536)

/-- The first step of bring-up that fails, 0 where none does (R335): the images are verified at steps 1 and 2; of the later steps the tests of the module tell
(DESIGN CHOICE, log 13). -/
def State.failingStep (s : State) (cfg : BootConfig) : Nat :=
  let given := if 3 ≤ cfg.failStep ∧ cfg.failStep ≤ 7 then cfg.failStep else 0
  if (s.goodImage 0).isNone then 1
  else if ((List.range 7).any fun n => (s.goodImage (n + 1)).isNone) then 2
  else if bootSizesOk cfg ∨ given = 3 ∨ given = 4 then given
  else 5

/-- Step 4: cluster capabilities, as the tests find them (R323, R335). -/
def State.bringClusters (s : State) (cfg : BootConfig) : State :=
  (List.range 8).foldl (fun (s : State) d =>
    s.modDie d fun x => { x with wide := cfg.wide.getD d 0xFFFF, thr := cfg.thr.getD d 0, off := cfg.off.getD d 0 }) s

/-- Step 5: token balance and floor, FLOWCAP, TTARGET, the coolant table, slot size, queue area, machine ring, and the map of context 0 (R36, R308, R317, R330,
R335). -/
def State.bringTables (s : State) (cfg : BootConfig) : State :=
  let s := s.modHub fun h =>
    { h with
      balance := min 6400 cfg.balance
      govern := min 6400 cfg.balance
      floor := min cfg.floor (min 6400 cfg.balance)
      flowcap := cfg.flowcap
      ttarget := cfg.ttarget
      slotsz := cfg.slotsz }
  let s := (List.range 8).foldl (fun (s : State) d => s.modDie d fun x => { x with qovf := cfg.qovf }) s
  let s := cfg.cool.foldl (fun (s : State) p => if p.1 < 260 then (s.writeZone p.1 p.2).getD s else s) s
  let s := s.openRing cfg.ringAddr cfg.ringSize
  let m := CtxMap.parse cfg.map0
  if s.mapBad 0 m then s else s.installMap 0 m

/-- Step 6: the module's number, the channels of the system, and the routing tables; what no route reaches is lost (R335, R431). -/
def State.bringPorts (s : State) (cfg : BootConfig) : State :=
  let m := cfg.module % 2048
  let s := (s.modHub fun h => { h with module := m, links := wholeFabric m cfg.links }).loadRoutes
  s.modHub fun h => { h with lostMods := s.cutOff ++ h.lostMods }

/-- POWER_GOOD: the controller runs the steps of R335 on flash, on the site's configuration and on what its tests give; BOOTERR names the first that
fails, and where no copy of an image verifies RECOVERY is set. -/
def execPowerGood (cfg : BootConfig) (s : State) : Out :=
  if s.hub.ready ∨ s.hub.recovery ∨ s.hub.booterr ≠ 0 then .next s
  else
    let fail := s.failingStep cfg
    let reached (n : Nat) : Bool := decide (fail = 0 ∨ n < fail)
    let s := if reached 4 then s.bringClusters cfg else s
    let s := if reached 5 then s.bringTables cfg else s
    let s := if reached 6 then s.bringPorts cfg else s
    .next (if fail = 0 then s.modHub fun h => { h with ready := true }
      else s.modHub fun h => { h with booterr := fail + 256 * (cfg.failCause % 256), recovery := decide (fail ≤ 2) })

/-! The mailbox (R332). -/

/-- Bytes of the request in the buffer. -/
def State.reqNum (s : State) (off n : Nat) : Nat := imgNum s.hub.mbreq off n

/-- The length of the request's body. -/
def State.reqLen (s : State) : Nat := s.reqNum 4 4

/-- The body's n-th 8-byte field. -/
def State.reqField (s : State) (n : Nat) : Nat := s.reqNum (16 + 8 * n) 8

/-- The controller serves a command: it is the one asked for, and not in recovery (R332, R335). -/
def State.asked (s : State) (cmd : Nat) : Bool := s.hub.mbbusy && !s.hub.recovery && s.reqNum 0 2 == cmd

/-- A command served where it is asked for and its body is long enough: else status 2 (R332). -/
def State.serve (s : State) (cmd len : Nat) (go : State) : Out :=
  .next (if !s.asked cmd then s else if s.reqLen < len ∨ 4080 < s.reqLen then s.respond 2 [] else go)

/-- MBDOOR: the request is taken, unless one is being served (R332). A command that there is none of is answered at once; in recovery only the
writing of images is accepted (R335). -/
def execMbdoor (request : List Byte) (s : State) : Out :=
  if s.hub.mbbusy ∨ !(s.hub.ready || s.hub.recovery) then .next s
  else
    let s := s.modHub fun h => { h with mbreq := (request ++ List.replicate 4096 0).take 4096, mbbusy := true }
    let known := decide (1 ≤ s.reqNum 0 2 ∧ s.reqNum 0 2 ≤ 8)
    .next (if known = s.hub.recovery then s.respond 2 [] else s)

/-- MBDONE_CLEAR: HUBSTAT written, MBDONE cleared by a one (R327). -/
def execMbdoneClear (v : Word) (s : State) : Out := .next (s.modHub fun h => { h with mbdone := h.mbdone && !v.getLsbD 2 })

/-- The piece of a LOADMAP request (R333): its context, FIRST, LAST, offset and data. -/
structure MapPiece where
  ctx : Nat
  first : Bool
  last : Bool
  offset : Nat
  data : List Byte
  deriving DecidableEq, Repr

/-- The piece that the request carries. -/
def State.piece (s : State) : MapPiece :=
  let flags := s.reqNum 17 1
  ⟨s.reqNum 16 1, flags % 2 == 1, flags / 2 % 2 == 1, s.reqNum 20 4, (s.hub.mbreq.drop 24).take (s.reqLen - 8)⟩

/-- The image so far with a piece added, or none where the piece breaks a rule (R333). -/
def State.addPiece (s : State) (p : MapPiece) : Option (List Byte) :=
  let whole (b : List Byte) : Option (List Byte) := if p.last ∧ b.length ≠ 197184 then none else some b
  if p.first then (if p.offset = 0 then whole p.data else none)
  else match s.hub.partialMap with
    | some (c, b) => if c = p.ctx ∧ b.length = p.offset then whole (b ++ p.data) else none
    | none => none

/-- A partial load replaced. -/
def State.setPartial (s : State) (x : Option (Nat × List Byte)) : State := s.modHub fun h => { h with partialMap := x }

/-- LOADMAP served: a context that is not quiet is waited for (R85). -/
def State.loadPiece (s : State) : State :=
  let p := s.piece
  if p.ctx = 0 ∨ 15 < p.ctx ∨ 4 ≤ s.reqNum 17 1 ∨ s.reqNum 18 2 ≠ 0 then s.respond 2 []
  else match s.addPiece p with
    | none => (s.setPartial none).respond 3 []
    | some b =>
      if !p.last then (s.setPartial (some (p.ctx, b))).respond 0 []
      else if !s.quiet p.ctx then s
      else
        let m := CtxMap.parse b
        let s := s.setPartial none
        if s.mapBad p.ctx m then s.respond 1 [] else (s.installMap p.ctx m).respond 0 []

/-- LOADMAP (R85, R333). -/
def execLoadmap (s : State) : Out := s.serve 1 9 s.loadPiece

/-- KILL: the kill sequence of a context; the response is written when kill is complete (R332, R365, R377). -/
def execKill (s : State) : Out :=
  let c := s.reqField 0
  s.serve 2 8 (
    if c = 0 ∨ 15 < c then s.respond 2 []
    else if s.hub.killWanted.isSome then s
    else if (s.ctx c).kill = .complete then s.respond 0 []
    else (s.modHub fun h => { h with killWanted := some c }).startKill c (locDie 20 8) none)

/-- Bytes that do not change from one report to the next: free (DESIGN CHOICE, log 15). -/
def fixedBytes (from_ n : Nat) : List Byte := (List.range n).map fun k => Config.freeByte (2 ^ 64) (from_ + k)

/-- CLCAP of a die (R323); throttles of the governor and the coolant controller show in THR (R425, R427). -/
def State.clcap (s : State) (n : Nat) : Nat :=
  let d := s.die n
  d.wide.toNat + 2 ^ 32 * d.off.toNat + 2 ^ 48 * ((List.range 16).map fun c => if s.throttled (16 * n + c) then 2 ^ c else 0).sum

/-- Image n that the module runs (R336): the one that bring-up took. -/
def State.runImage (s : State) (n : Nat) : List Byte := (s.goodImage n).getD (s.image (2 * n))

/-- The report of R336; the identity key and the signature are free, and the digest is a function that the spec does not give (DESIGN CHOICE,
log 15). -/
def State.report (s : State) : List Byte :=
  fixedBytes 0 32 ++ (s.hub.mbreq.drop 16).take 32 ++ leBytes 8 s.frame ++ leBytes 8 s.grade.toNat
    ++ (List.range 8).flatMap (fun d => leBytes 8 (s.clcap d))
    ++ (List.range 8).flatMap (fun n => (Config.digest (s.runImage n) ++ List.replicate 32 0).take 32)
    ++ (List.range 8).flatMap (fun n => leBytes 4 (Config.imageVersion (s.runImage n)))
    ++ (List.range 2420).map (Config.freeByte s.steps)

/-- ATTEST (R336). -/
def execAttest (s : State) : Out := s.serve 3 32 (s.respond 0 s.report)

/-- A slot's owner as a number. -/
def Owner.code : Owner → Nat | .free => 0 | .core c => 1 + c | .gang n => 2 ^ 16 + n

/-- The words of the bank of a unit (R362). -/
def State.bankWords (s : State) (l : Loc) : List Nat :=
  (List.range 9).map fun n => ((s.hub.banks.get (bankKey l) ErrBank.empty).word n).toNat

/-- A continuation in a queue as numbers. -/
def Cont.nums (c : Cont) : List Nat :=
  match c.send with
  | .tdec w v => [c.origin, w.toNat, v.toNat]
  | .tspawn a => [a.toNat]
  | .tarm a w => [a.toNat, w.toNat]
  | .publish a v => [a.toNat, v.toNat]

/-- The contents of a debug object (R337) as numbers. Which class shows the bank of a unit outside the cores is the model's (DESIGN CHOICE, log 15). -/
def State.debugObject (s : State) (cls index : Nat) : List Nat :=
  match cls with
  | 0 => (List.range 4096).map fun n => (s.csrGet index n).toNat
  | 1 =>
    let b := (s.core (index % 512)).banks.getD (index / 2 ^ 13) Bank.clear
    (List.range 1024).map (fun n => (b.entries.get (index / 512 % 16 * 1024 + n) 0).toNat) ++ (List.range 1024).map fun n => (b.cls.get n 0).toNat
  | 2 =>
    (s.die index).queue.flatMap (fun q => [q.record.toNat, q.ctx, q.ready, q.prio, q.kept, q.stage, q.gang.toNat, q.resume.toNat, q.clmask, q.wide.toNat,
        q.coolcls, q.release])
      ++ [8, 9, 10, 11, 12, 15].flatMap (fun u => s.bankWords (locDie u index))
      ++ (List.range 4).flatMap fun p => s.bankWords (portLoc (4 * index + p) 0)
  | 3 =>
    let k := s.cluster index
    [(k.lease.holder.map (· + 1)).getD 0, k.lease.count, k.lease.cycles]
      ++ (List.range 4).flatMap (fun n => match (s.core (4 * index + n)).claim with | some (b, m) => [b, m] | none => [])
      ++ k.slots.flatMap fun p => [p.1, p.2.owner.code]
  | 4 => ((s.core index).gate ++ (s.core index).releasing).flatMap fun e => e.va.toNat :: e.bytes.map (·.toNat)
  | 5 =>
    (s.parked.filter fun p => keySpace p.req.tgt.key == 0 && sliceNo p.req.tgt.key == index).flatMap
        (fun p => [p.entry, p.req.va.toNat, p.req.opcode, p.req.w, p.req.b, p.req.c, p.tick])
      ++ (s.conts.filter fun c => c.slice == some index).flatMap Cont.nums
      ++ s.bankWords ⟨13, index / 36, index / 12 % 3, index % 12, 0⟩ ++ s.bankWords ⟨14, index / 36, index / 12 % 3, 0, 0⟩
  | 6 =>
    let d := (s.map (index / 16)).rdescs.get (index % 16) ⟨0, 0, 0, 0, 0, 0⟩
    (List.range ((d.rows + 31) / 32)).flatMap fun ti => (List.range ((d.cols + 31) / 32)).map fun tj =>
      match s.entryKey (index / 16) d ti tj with | some k => s.tag k.1 | none => 0
  | 7 =>
    let h := s.hub.coolthr
    [h.pmax, h.pmin, h.flowlow, h.ttrip, h.thot, h.voidn] ++ zones.flatMap fun z =>
      let x := s.zone z
      [x.shared.toNat, x.fenced.toNat, x.owner, x.max, x.min, x.grant, x.valve, x.zsens0.toNat, x.zsens1.toNat] ++
        if z = 0 then [16, 18, 19, 20].flatMap fun u => s.bankWords (locDie u 8) else []
  | _ =>
    let d := s.die index
    (List.range 64).flatMap (fun n => let e := d.experts.get n Expert.empty; [e.ctx, e.expert, e.refs, e.use.toNat, if e.st = .resident then 2 else if e.st = .loading then 1 else 0])
      ++ d.counters.flatMap (fun p => [p.1, p.2]) ++ d.sticky ++ [d.passes, d.hand]

/-- The index names an object of the class, and no disabled cluster (R337). -/
def State.debugIndex (s : State) (cls i : Nat) : Bool :=
  let core (c : Nat) : Bool := decide (c < 512) && s.enabled (dieOf c) (clusterOf c % 16)
  match cls with
  | 0 | 4 => core i
  | 1 => decide (i < 2 ^ 14) && core (i % 512)
  | 2 | 8 => decide (i < 8)
  | 3 => decide (i < 128) && s.enabled (i / 16) (i % 16)
  | 5 => decide (i < 288)
  | 6 => decide (i < 256)
  | 7 => i == 0
  | _ => false

/-- DEBUGREAD: bytes of one object at one instant; nothing changes (R337). -/
def execDebugread (s : State) : Out :=
  let len := s.reqField 3
  s.serve 4 32 (
    if !s.debugIndex (s.reqField 0) (s.reqField 1) ∨ len < 1 ∨ 4032 < len then s.respond 2 []
    else s.respond 0 (((Config.debugBytes (s.reqField 0) (s.debugObject (s.reqField 0) (s.reqField 1))).drop (s.reqField 2)).take len))

/-- SETPERM: the test permission of a context (R138, R332). -/
def execSetperm (s : State) : Out :=
  s.serve 5 16 (
    if 15 < s.reqField 0 ∨ 1 < s.reqField 1 then s.respond 2 []
    else (s.modCtx (s.reqField 0) fun x => { x with test := s.reqField 1 == 1 }).respond 0 [])

/-- COOLSET: an entry of the coolant allocation table (R317, R332). -/
def execCoolset (s : State) : Out :=
  s.serve 6 16 (
    if 259 < s.reqField 0 ∨ 2 ^ 32 ≤ s.reqField 1 then s.respond 2 []
    else match s.writeZone (s.reqField 0) (s.reqField 1) with
      | some t => t.respond 0 []
      | none => s.respond 1 [])

/-- SETTRAP: the trap register of a context from 1 to 15 (R332, R418). -/
def execSettrap (s : State) : Out :=
  let v := BitVec.ofNat 64 (s.reqField 1)
  s.serve 7 16 (
    if s.reqField 0 = 0 ∨ 15 < s.reqField 0 ∨ v &&& ~~~traprecMask ≠ 0 then s.respond 2 []
    else (s.modCtx (s.reqField 0) fun x => { x with traprec := v }).respond 0 [])

/-- TOKGIVE: TOKX on the descriptor of the body; the response holds its result (R225, R310, R330). One TOKX at a time awaits its peer. -/
def execTokgive (s : State) : Out :=
  let peer := s.reqNum 16 2
  let tokens := s.reqNum 20 4
  s.serve 8 16 (
    if 2047 < peer ∨ peer = s.hub.module ∨ tokens < 1 ∨ 6400 < tokens ∨ s.reqNum 18 2 ≠ 0 ∨ s.reqNum 24 8 ≠ 0 then s.respond 0 (leBytes 8 4)
    else if s.tokWaits mailboxCore then s.tokJoin mailboxCore
    else match (s.tokLeave mailboxCore).giveTokens peer tokens (some (mailboxCore, 0)) with
      | .error r => (s.tokLeave mailboxCore).respond 0 (leBytes 8 r)
      | .ok s => s)

/-- FLASH_IMAGE_WRITE: in recovery, a piece of an image of module flash is written (R335). The spec gives the request no layout; the body holds the number of
the image, 2 × image + copy, the offset of the piece in 8 bytes, and its bytes, after which the image ends (DESIGN CHOICE, log 13). -/
def execFlashImageWrite (s : State) : Out :=
  .next (if !s.hub.recovery ∨ !s.hub.mbbusy then s
    else if s.reqLen < 17 ∨ 4080 < s.reqLen ∨ 16 ≤ s.reqField 0 ∨ 2 ^ 32 ≤ s.reqField 1 then s.respond 2 []
    else
      let n := s.reqField 0
      let off := s.reqField 1
      let data := (s.hub.mbreq.drop 32).take (s.reqLen - 16)
      (s.modHub fun h => { h with flash := h.flash.set n ((s.image n ++ List.replicate off 0).take off ++ data) }).respond 0 [])

/-! The kill of a context (R377, R378). -/

/-- Step 1: queues frozen, windows closed. -/
def State.killWindows (s : State) (ctx : Nat) : State :=
  (s.modCtx ctx fun x => { x with frozen := true }).modHub fun h =>
    { h with wins := h.wins.map fun p => if p.2.ctx = ctx then (p.1, { p.2 with en := false }) else p }

/-- What a core drops of a killed context (steps 3 and 4). -/
def Core.dropCtx (k : Core) (ctx : Nat) : Core :=
  { k with
    gate := k.gate.filter (·.org.ctx != ctx)
    releasing := k.releasing.filter (·.org.ctx != ctx)
    sending := if k.task.isNone && k.ctxid == ctx then [] else k.sending
    xq := k.xq.filter (·.org.ctx != ctx)
    slotq := k.slotq.filter (·.org.ctx != ctx)
    arrayq := k.arrayq.filter (·.org.ctx != ctx)
    drains := k.drains.filter (·.cmd.org.ctx != ctx) }

/-- A core of a killed context abandoned: nothing is committed any more. -/
def State.abandon (s : State) (c : Nat) : State :=
  (s.endMember c).modCore c fun k => { k with releasing := [], held := [], sending := [], committing := false, forming := [] }

/-- Steps 2 to 4: tasks abandoned without freezing, gates and formation buffers discarded, commands dropped, those of the routing engines
with them (DESIGN CHOICE, log 9). -/
def State.killTasks (s : State) (ctx : Nat) : State :=
  let mine := (s.cores.filter fun p => match p.2.task with | some b => b.ctx == ctx | none => false).map (·.1)
  let gangs := mine.filterMap fun c => (s.core c).task.map fun b => (clusterOf c, b.serial)
  let s := mine.foldl State.abandon s
  let s := gangs.foldl (fun (s : State) p => s.freeSlots p.1 (.gang p.2)) s
  { s with cores := s.cores.map fun p => (p.1, p.2.dropCtx ctx) }

/-- A flit of the module that carries an access of a killed context. -/
def State.flitOf (s : State) (ctx : Nat) (f : Flit) : Bool :=
  let kind := flitFld f 25 3
  if kind = 2 ∨ kind = 3 then flitFld f 28 4 == ctx
  else decide (kind < 2) && s.remotes.any fun r =>
    r.org.ctx == ctx && r.kind == kind && r.module == flitFld f 0 11 && r.rctx == flitFld f 28 4 && r.tag == flitFld f 32 16

/-- Partial writes by piece: each with those that are joined to it. -/
def updPieces (l : List Upd) : List (List Upd) :=
  match l with
  | [] => []
  | u :: l =>
    match updPieces l with
    | (v :: p) :: ps => if v.joined then (u :: v :: p) :: ps else [u] :: (v :: p) :: ps
    | ps => [u] :: ps

/-- Step 5: slices drop parked atomics and continuations, and complete or drop requests; rime caches complete the updates received; nothing of
the context travels to the host or another module any more (R378). -/
def State.killSlices (s : State) (ctx : Nat) : State :=
  let ups := s.upds.filter (·.ctx == ctx)
  let s := (updPieces ups).foldl State.performUpds { s with upds := s.upds.filter (·.ctx != ctx) }
  State.trimWaiting { s with
    parked := s.parked.filter (·.req.org.ctx != ctx)
    behind := s.behind.filter (·.org.ctx != ctx)
    reqs := s.reqs.filter (·.org.ctx != ctx)
    conts := s.conts.filter (·.org.ctx != ctx)
    cancels := s.cancels.filter (·.org.ctx != ctx)
    hostOut := s.hostOut.filter (·.org.ctx != ctx)
    flitsOut := s.flitsOut.filter (!s.flitOf ctx ·)
    remotes := s.remotes.filter (·.org.ctx != ctx)
    landing := s.landing.filter fun f => flitFld f 28 4 != ctx
    hub := { s.hub with
      hubcsr := s.hub.hubcsr.filter (·.ctx != ctx)
      swmsgs := s.hub.swmsgs.filter (·.ctx != ctx)
      switch := s.hub.switch.filter fun p => p.1 / 64 != ctx } }

/-- Step 6: kill complete: queued tasks discarded, expert slots emptied, the trap register at its reset value, the response written. -/
def State.killDone (s : State) (ctx : Nat) : State :=
  let s := (List.range 8).foldl (fun (s : State) d => s.modDie d fun x =>
    { x with
      queue := x.queue.filter (·.ctx != ctx)
      resv := x.resv.filter (·.ctx != ctx)
      experts := x.experts.map fun p => if p.2.st ≠ .empty ∧ p.2.ctx = ctx then (p.1, Expert.empty) else p }) { s with notices := s.notices.filter (·.ctx != ctx) }
  let s := s.modCtx ctx fun x => { x with kill := .complete, resident := false, traprec := 0 }
  if s.hub.killWanted = some ctx then (s.modHub fun h => { h with killWanted := none }).respond 0 [] else s

/-- CONTEXT_KILL: the next step of the kill of a context, each complete before the next begins (R377). -/
def execContextKill (ctx : Nat) (s : State) : Out :=
  let next (t : State) (n : Nat) : State := t.modCtx ctx fun x => { x with kill := .running n }
  .next (match (s.ctx ctx).kill with
    | .running 1 => next (s.killWindows ctx) 2
    | .running 2 => next (s.killTasks ctx) 5
    | .running 5 => next (s.killSlices ctx) 6
    | .running _ => s.killDone ctx
    | _ => s)

end Sys2Proof.Machine
end

