-- ==== Sys2Proof/Machine/Bar0.lean ====
section
/-! DEFINITION. The registers of BAR 0, the messages of the interrupt vectors, the configuration space, and firmware's writes to context 0's memory (15, R325, R326, R327,
R330, R331). -/
namespace Sys2Proof.Machine

/-! Interrupt vectors (R331). Their table and masks are those of the MSI-X definition (PRESUMED, log 34). -/

/-- A word of the MSI-X table: the address of an entry, or its data below its mask bit; entries are masked after reset. -/
def State.msixWord (s : State) (n : Nat) : Word := s.hub.msixTable.get n (if n % 2 = 1 then 0x1_0000_0000 else 0)

/-- A vector is masked. -/
def State.masked (s : State) (v : Nat) : Bool := (s.msixWord (2 * v + 1)).getLsbD 32

/-- The pending bit array: signalled vectors that are masked. -/
def State.pendingBits (s : State) : Word := packed ((List.range 18).map fun v => ((s.hub.msix.getLsbD v && s.masked v).toNat, v))

/-- The message of a signalled vector that is not masked is written to the host, at most once a tick (R331). -/
def State.sendMsix (s : State) (v : Nat) : State :=
  if 18 ≤ v ∨ !s.hub.msix.getLsbD v ∨ s.masked v ∨ !s.hub.pcieUp ∨ s.hub.msixSent.find v = some s.frame then s
  else
    let data := (s.msixWord (2 * v + 1)).toNat % 2 ^ 32
    (s.modHub fun h => { h with msix := h.msix &&& ~~~(1#18 <<< v), msixSent := h.msixSent.set v s.frame }).put
      (hostKey (s.msixWord (2 * v)).toNat) (leBytes 4 data)

/-! Registers (R326, R327). -/

/-- HUBSTAT (R327). -/
def State.hubstat (s : State) : Word :=
  let h := s.hub
  packed [(h.booterr % 65536, 16), (h.mbbusy.toNat, 3), (h.mbdone.toNat, 2), (h.ready.toNat, 1), (h.recovery.toNat, 0)]

/-- HUBID (R326). -/
def State.hubid (s : State) : Word := packed [(s.hub.module % 2048, 48), (s.grade.toNat % 2 ^ 48, 0)]

/-- A window descriptor as a word (R328). -/
def Win.word (w : Win) : Word := packed [(w.en.toNat, 63), (w.vreg % 4096, 4), (w.ctx % 16, 0)]

/-- In recovery and in a fenced module only HUBSTAT, HUBID and the mailbox answer (R327, R365; DEDUCED, log 34). -/
def State.reduced (s : State) : Bool := s.hub.recovery || s.hub.fenced

/-- A BAR 0 register read (R326): ports, MBDOOR and what is not listed read zero. -/
def State.bar0Read (s : State) (off : Nat) : Word :=
  if off = 0 then s.hubstat
  else if off = 8 then s.hubid
  else if 0x20000 ≤ off ∧ off < 0x21000 then BitVec.ofNat 64 (imgNum s.hub.mbreq (off - 0x20000) 8)
  else if 0x21000 ≤ off ∧ off < 0x22000 then BitVec.ofNat 64 (imgNum s.hub.mbresp (off - 0x21000) 8)
  else if s.reduced then 0
  else if 0x1000 ≤ off ∧ off < 0x1080 then (s.hub.wins.get ((off - 0x1000) / 8) ⟨false, 0, 0⟩).word
  else if 0x30000 ≤ off ∧ off < 0x30400 then s.msixWord ((off - 0x30000) / 8)
  else if off = 0x31000 then s.pendingBits
  else 0

/-- Eight bytes written in the request buffer; while a request is served, whether they land is free (R332; DESIGN CHOICE, log 34). -/
def State.writeRequest (s : State) (off : Nat) (v : Word) : State :=
  if s.hub.mbbusy && Config.freeBit s.steps 0 then s
  else s.modHub fun h =>
    let b := (h.mbreq ++ List.replicate 4096 0).take 4096
    { h with mbreq := b.take off ++ leBytes 8 v.toNat ++ b.drop (off + 8) }

/-- A BAR 0 register written (R326): what is not listed ignores writes. -/
def State.bar0Write (s : State) (off : Nat) (v : Word) : Out :=
  if off = 0 then execMbdoneClear v s
  else if 0x20000 ≤ off ∧ off < 0x21000 then .next (s.writeRequest (off - 0x20000) v)
  else if off = 0x22000 then execMbdoor s.hub.mbreq s
  else if s.reduced then .next s
  else if 0x1000 ≤ off ∧ off < 0x1080 then execWinnWrite ((off - 0x1000) / 8) v s
  else if 0x10000 ≤ off ∧ off < 0x10080 then execDecrementPortWrite ((off - 0x10000) / 8) v s
  else if 0x30000 ≤ off ∧ off < 0x30400 then
    let n := (off - 0x30000) / 8
    .next (s.modHub fun h => { h with msixTable := h.msixTable.set n (v &&& (if n % 2 = 1 then 0x1_FFFF_FFFF else 0xFFFF_FFFF_FFFF_FFFC)) })
  else .next s

/-- An access of the host to BAR 0: only aligned 8-byte accesses reach a register, any other reads zero or writes nothing (R326). -/
def State.bar0 (s : State) (off : Nat) (write : Bool) (bs : List Byte) : Out :=
  if !s.hub.pcieUp then .next s
  else if bs.length ≠ 8 ∨ off % 8 ≠ 0 then .next (if write then s else s.hostRead (List.replicate bs.length 0))
  else if write then s.bar0Write off (BitVec.ofNat 64 (leNat bs))
  else .next (s.hostRead (leBytes 8 (s.bar0Read off).toNat))

/-! Configuration space (R325). The layout is that of a PCI function's header (PRESUMED, log 34); what the spec does not give of it is free. -/

/-- The base address that the host has given BAR 0, number 0, or BAR 2, number 1. -/
def State.barBase (s : State) (n : Nat) : Word := s.hub.bars.getD n 0

/-- The address bits of a BAR that the host sets: BAR 0 is 1 MiB, BAR 2 is 64 GiB (R325). -/
def barMask (n : Nat) : Word := if n = 0 then ~~~0xF_FFFF else ~~~0xF_FFFF_FFFF

/-- A dword of the configuration space: class code, header type, the two BARs of 64 bits, the second one prefetchable, and no other. -/
def State.configWord (s : State) (n : Nat) : Nat :=
  match n with
  | 2 => 0x120000 * 256 + leNat (fixedBytes 1000 1)
  | 3 => leNat (fixedBytes 1001 2)
  | 4 => (s.barBase 0).toNat % 2 ^ 32 + 4
  | 5 => (s.barBase 0).toNat / 2 ^ 32
  | 6 => (s.barBase 1).toNat % 2 ^ 32 + 12
  | 7 => (s.barBase 1).toNat / 2 ^ 32
  | 8 | 9 | 12 => 0
  | n => leNat (fixedBytes (1004 + 4 * n) 4)

/-- A dword of the configuration space written: of what the spec gives, only the BARs take writes. -/
def State.configSet (s : State) (n v : Nat) : State :=
  let set (k : Nat) (w : Nat) : State := s.modHub fun h => { h with bars := h.bars.set k (BitVec.ofNat 64 w &&& barMask k) }
  match n with
  | 4 => set 0 ((s.barBase 0).toNat / 2 ^ 32 * 2 ^ 32 + v)
  | 5 => set 0 ((s.barBase 0).toNat % 2 ^ 32 + v * 2 ^ 32)
  | 6 => set 1 ((s.barBase 1).toNat / 2 ^ 32 * 2 ^ 32 + v)
  | 7 => set 1 ((s.barBase 1).toNat % 2 ^ 32 + v * 2 ^ 32)
  | _ => s

/-- A configuration access of the host: bytes of one dword, read, or written among those that stand. -/
def State.config (s : State) (off : Nat) (write : Bool) (bs : List Byte) : State :=
  let n := off / 4
  let old := leBytes 4 (s.configWord n)
  if !s.hub.pcieUp ∨ bs = [] ∨ 4 < off % 4 + bs.length ∨ 4096 ≤ off then s
  else if write then s.configSet n (leNat (old.take (off % 4) ++ bs ++ old.drop (off % 4 + bs.length)))
  else s.hostRead ((old.drop (off % 4)).take bs.length)

/-! Firmware (R330). -/

/-- Firmware writes bytes of context 0's memory, where its map permits it (R330). -/
def State.firmWrites (s : State) (va : Word) (bs : List Byte) : State :=
  match s.spanKeys 0 0 .g va bs.length .write with
  | .error _ => s
  | .ok ks => if s.hub.fenced || !s.hosts 0 || s.behindParked ks then s
      else (sectorRuns (bs.length + 1) va.toNat bs).foldl (fun (s : State) p => s.windowStore 0 p) s

end Sys2Proof.Machine
end

