-- ==== Sys2Proof/Machine/Dispatch.lean ====
section
/-! DEFINITION. One arm per constructor of Instr: the meaning of each instruction and event. -/
namespace Sys2Proof.Machine

def exec (i : Instr) (s : State) : Host.Outcome State Fault Refusal :=
  match i with
  | .nop => Sys2Proof.Machine.execNop s
  | .add g d a b => Sys2Proof.Machine.execAdd g d a b s
  | .sub g d a b => Sys2Proof.Machine.execSub g d a b s
  | .mul g d a b => Sys2Proof.Machine.execMul g d a b s
  | .mulh g d a b => Sys2Proof.Machine.execMulh g d a b s
  | .mulhn g d a b => Sys2Proof.Machine.execMulhn g d a b s
  | .div g d a b => Sys2Proof.Machine.execDiv g d a b s
  | .divn g d a b => Sys2Proof.Machine.execDivn g d a b s
  | .rem g d a b => Sys2Proof.Machine.execRem g d a b s
  | .remn g d a b => Sys2Proof.Machine.execRemn g d a b s
  | .and_ g d a b => Sys2Proof.Machine.execAnd g d a b s
  | .or_ g d a b => Sys2Proof.Machine.execOr g d a b s
  | .xor g d a b => Sys2Proof.Machine.execXor g d a b s
  | .andn g d a b => Sys2Proof.Machine.execAndn g d a b s
  | .shl g d a b => Sys2Proof.Machine.execShl g d a b s
  | .shr g d a b => Sys2Proof.Machine.execShr g d a b s
  | .sra g d a b => Sys2Proof.Machine.execSra g d a b s
  | .rol g d a b => Sys2Proof.Machine.execRol g d a b s
  | .min_ g d a b => Sys2Proof.Machine.execMin g d a b s
  | .max_ g d a b => Sys2Proof.Machine.execMax g d a b s
  | .minn g d a b => Sys2Proof.Machine.execMinn g d a b s
  | .maxn g d a b => Sys2Proof.Machine.execMaxn g d a b s
  | .clz g d a => Sys2Proof.Machine.execClz g d a s
  | .popc g d a => Sys2Proof.Machine.execPopc g d a s
  | .sext g d a n => Sys2Proof.Machine.execSext g d a n s
  | .zext g d a n => Sys2Proof.Machine.execZext g d a n s
  | .bfx g d a b len => Sys2Proof.Machine.execBfx g d a b len s
  | .bfi g d a b c len => Sys2Proof.Machine.execBfi g d a b c len s
  | .sel g d a b cond => Sys2Proof.Machine.execSel g d a b cond s
  | .cmp g d a b cc => Sys2Proof.Machine.execCmp g d a b cc s
  | .plog g d a b t => Sys2Proof.Machine.execPlog g d a b t s
  | .lea g d a b sh => Sys2Proof.Machine.execLea g d a b sh s
  | .addi g d a imm => Sys2Proof.Machine.execAddi g d a imm s
  | .andi g d a imm => Sys2Proof.Machine.execAndi g d a imm s
  | .ori g d a imm => Sys2Proof.Machine.execOri g d a imm s
  | .xori g d a imm => Sys2Proof.Machine.execXori g d a imm s
  | .shli g d a sh => Sys2Proof.Machine.execShli g d a sh s
  | .shri g d a sh => Sys2Proof.Machine.execShri g d a sh s
  | .srai g d a sh => Sys2Proof.Machine.execSrai g d a sh s
  | .li g d imm => Sys2Proof.Machine.execLi g d imm s
  | .lih g d a imm => Sys2Proof.Machine.execLih g d a imm s
  | .muli g d a imm => Sys2Proof.Machine.execMuli g d a imm s
  | .addpc g d imm => Sys2Proof.Machine.execAddpc g d imm s
  | .cmpi g d a imm cc => Sys2Proof.Machine.execCmpi g d a imm cc s
  | .br g off => Sys2Proof.Machine.execBr g off s
  | .brp g cond off => Sys2Proof.Machine.execBrp g cond off s
  | .brz g a off => Sys2Proof.Machine.execBrz g a off s
  | .brnz g a off => Sys2Proof.Machine.execBrnz g a off s
  | .brr g a off => Sys2Proof.Machine.execBrr g a off s
  | .call g off => Sys2Proof.Machine.execCall g off s
  | .callr g a => Sys2Proof.Machine.execCallr g a s
  | .ret g => Sys2Proof.Machine.execRet g s
  | .loop g lc a off => Sys2Proof.Machine.execLoop g lc a off s
  | .loopi g lc count off => Sys2Proof.Machine.execLoopi g lc count off s
  | .lbrk g lc off => Sys2Proof.Machine.execLbrk g lc off s
  | .ld g d base size space off => Sys2Proof.Machine.execLd g d base size space off s
  | .st g v base size space off => Sys2Proof.Machine.execSt g v base size space off s
  | .ldp g d base space off => Sys2Proof.Machine.execLdp g d base space off s
  | .stp g v base space off => Sys2Proof.Machine.execStp g v base space off s
  | .amo g d addr b k op w => Sys2Proof.Machine.execAmo g d addr b k op w s
  | .cas g d addr b c w => Sys2Proof.Machine.execCas g d addr b c w s
  | .casc g d addr b c k w => Sys2Proof.Machine.execCasc g d addr b c k w s
  | .amoct g d addr b c k op cc w => Sys2Proof.Machine.execAmoct g d addr b c k op cc w s
  | .fred g addr b k op fmt => Sys2Proof.Machine.execFred g addr b k op fmt s
  | .tspawn g a => Sys2Proof.Machine.execTspawn g a s
  | .tdec g a b => Sys2Proof.Machine.execTdec g a b s
  | .tarm g a b => Sys2Proof.Machine.execTarm g a b s
  | .tdone g a => Sys2Proof.Machine.execTdone g a s
  | .freeze g a planes => Sys2Proof.Machine.execFreeze g a planes s
  | .fence g => Sys2Proof.Machine.execFence g s
  | .xfence g before after scope => Sys2Proof.Machine.execXfence g before after scope s
  | .gsync g => Sys2Proof.Machine.execGsync g s
  | .tswap g n => Sys2Proof.Machine.execTswap g n s
  | .publish g a b => Sys2Proof.Machine.execPublish g a b s
  | .csrr g d csr => Sys2Proof.Machine.execCsrr g d csr s
  | .csrw g d a csr => Sys2Proof.Machine.execCsrw g d a csr s
  | .csrs g d a csr => Sys2Proof.Machine.execCsrs g d a csr s
  | .csrc g d a csr => Sys2Proof.Machine.execCsrc g d a csr s
  | .trap g a code => Sys2Proof.Machine.execTrap g a code s
  | .icinv g scope => Sys2Proof.Machine.execIcinv g scope s
  | .srfence g => Sys2Proof.Machine.execSrfence g s
  | .eread g d sel => Sys2Proof.Machine.execEread g d sel s
  | .tokx g d a => Sys2Proof.Machine.execTokx g d a s
  | .vix g index bs fsel foff bi => Sys2Proof.Machine.execVix g index bs fsel foff bi s
  | .vnop e => Sys2Proof.Machine.execVnop e s
  | .vadd e => Sys2Proof.Machine.execVadd e s
  | .vsub e => Sys2Proof.Machine.execVsub e s
  | .vmul e => Sys2Proof.Machine.execVmul e s
  | .vfma e => Sys2Proof.Machine.execVfma e s
  | .vfms e => Sys2Proof.Machine.execVfms e s
  | .vfnma e => Sys2Proof.Machine.execVfnma e s
  | .vmin e => Sys2Proof.Machine.execVmin e s
  | .vmax e => Sys2Proof.Machine.execVmax e s
  | .vabs e => Sys2Proof.Machine.execVabs e s
  | .vneg e => Sys2Proof.Machine.execVneg e s
  | .vcpys e => Sys2Proof.Machine.execVcpys e s
  | .vrcp e => Sys2Proof.Machine.execVrcp e s
  | .vrsq e => Sys2Proof.Machine.execVrsq e s
  | .vsqrt e => Sys2Proof.Machine.execVsqrt e s
  | .vdiv e => Sys2Proof.Machine.execVdiv e s
  | .vexp2 e => Sys2Proof.Machine.execVexp2 e s
  | .vlog2 e => Sys2Proof.Machine.execVlog2 e s
  | .vtanh e => Sys2Proof.Machine.execVtanh e s
  | .vsigm e => Sys2Proof.Machine.execVsigm e s
  | .vcmpf e => Sys2Proof.Machine.execVcmpf e s
  | .vclass e => Sys2Proof.Machine.execVclass e s
  | .vrndi e => Sys2Proof.Machine.execVrndi e s
  | .vscale e => Sys2Proof.Machine.execVscale e s
  | .vdot2 e => Sys2Proof.Machine.execVdot2 e s
  | .viadd e => Sys2Proof.Machine.execViadd e s
  | .visub e => Sys2Proof.Machine.execVisub e s
  | .vimul e => Sys2Proof.Machine.execVimul e s
  | .vimulh e => Sys2Proof.Machine.execVimulh e s
  | .vimad e => Sys2Proof.Machine.execVimad e s
  | .vand e => Sys2Proof.Machine.execVand e s
  | .vor e => Sys2Proof.Machine.execVor e s
  | .vxor e => Sys2Proof.Machine.execVxor e s
  | .vshl e => Sys2Proof.Machine.execVshl e s
  | .vshr e => Sys2Proof.Machine.execVshr e s
  | .vsra e => Sys2Proof.Machine.execVsra e s
  | .vimin e => Sys2Proof.Machine.execVimin e s
  | .vimax e => Sys2Proof.Machine.execVimax e s
  | .vicmp e => Sys2Proof.Machine.execVicmp e s
  | .vsel e => Sys2Proof.Machine.execVsel e s
  | .vpopc e => Sys2Proof.Machine.execVpopc e s
  | .vclz e => Sys2Proof.Machine.execVclz e s
  | .vbfx e => Sys2Proof.Machine.execVbfx e s
  | .viabs e => Sys2Proof.Machine.execViabs e s
  | .vsat e => Sys2Proof.Machine.execVsat e s
  | .vmov e => Sys2Proof.Machine.execVmov e s
  | .vlane e => Sys2Proof.Machine.execVlane e s
  | .vgrp e => Sys2Proof.Machine.execVgrp e s
  | .vqlog e => Sys2Proof.Machine.execVqlog e s
  | .vqcnt e => Sys2Proof.Machine.execVqcnt e s
  | .vld e => Sys2Proof.Machine.execVld e s
  | .vst e => Sys2Proof.Machine.execVst e s
  | .vldx e => Sys2Proof.Machine.execVldx e s
  | .vstx e => Sys2Proof.Machine.execVstx e s
  | .vldg e => Sys2Proof.Machine.execVldg e s
  | .vstg e => Sys2Proof.Machine.execVstg e s
  | .vamo e => Sys2Proof.Machine.execVamo e s
  | .vcas e => Sys2Proof.Machine.execVcas e s
  | .vstt e => Sys2Proof.Machine.execVstt e s
  | .vnbr e => Sys2Proof.Machine.execVnbr e s
  | .vperm e => Sys2Proof.Machine.execVperm e s
  | .vbcl e => Sys2Proof.Machine.execVbcl e s
  | .vrsum e => Sys2Proof.Machine.execVrsum e s
  | .vrmax e => Sys2Proof.Machine.execVrmax e s
  | .vrmin e => Sys2Proof.Machine.execVrmin e s
  | .vscan e => Sys2Proof.Machine.execVscan e s
  | .vgbc e => Sys2Proof.Machine.execVgbc e s
  | .vcvt e => Sys2Proof.Machine.execVcvt e s
  | .vpack e => Sys2Proof.Machine.execVpack e s
  | .vunpk e => Sys2Proof.Machine.execVunpk e s
  | .vmxq e => Sys2Proof.Machine.execVmxq e s
  | .vmxd e => Sys2Proof.Machine.execVmxd e s
  | .vrimec e => Sys2Proof.Machine.execVrimec e s
  | .vsamp e => Sys2Proof.Machine.execVsamp e s
  | .mnop g => Sys2Proof.Machine.execMnop g s
  | .mlease g n => Sys2Proof.Machine.execMlease g n s
  | .mrels g => Sys2Proof.Machine.execMrels g s
  | .mclaim g d n => Sys2Proof.Machine.execMclaim g d n s
  | .mfree g => Sys2Proof.Machine.execMfree g s
  | .mlds f => Sys2Proof.Machine.execMlds f s
  | .msts g slot sa sb sc pitch => Sys2Proof.Machine.execMsts g slot sa sb sc pitch s
  | .mtran g dst src => Sys2Proof.Machine.execMtran g dst src s
  | .mma f => Sys2Proof.Machine.execMma f s
  | .mmah f => Sys2Proof.Machine.execMmah f s
  | .mzero g plane => Sys2Proof.Machine.execMzero g plane s
  | .mdrain f => Sys2Proof.Machine.execMdrain f s
  | .mdrainh f => Sys2Proof.Machine.execMdrainh f s
  | .msamp f => Sys2Proof.Machine.execMsamp f s
  | .maccld f => Sys2Proof.Machine.execMaccld f s
  | .xnop g => Sys2Proof.Machine.execXnop g s
  | .xcopy f => Sys2Proof.Machine.execXcopy f s
  | .xgath f => Sys2Proof.Machine.execXgath f s
  | .xscat f => Sys2Proof.Machine.execXscat f s
  | .xfill f => Sys2Proof.Machine.execXfill f s
  | .xput f addr => Sys2Proof.Machine.execXput f addr s
  | .xtbl f => Sys2Proof.Machine.execXtbl f s
  | .xcoll f peer rel op => Sys2Proof.Machine.execXcoll f peer rel op s
  | .xroute f topk mode => Sys2Proof.Machine.execXroute f topk mode s
  | .xrsnap f clear => Sys2Proof.Machine.execXrsnap f clear s
  | .xexpa f expert => Sys2Proof.Machine.execXexpa f expert s
  | .xexpr f expert => Sys2Proof.Machine.execXexpr f expert s
  | .xfmt f first count => Sys2Proof.Machine.execXfmt f first count s
  | .xrime f mode => Sys2Proof.Machine.execXrime f mode s
  | .loadReturn n => Sys2Proof.Machine.execLoadReturn n s
  | .tableAccessComplete core => Sys2Proof.Machine.execTableAccessComplete core s
  | .saveComplete core => Sys2Proof.Machine.execSaveComplete core s
  | .gateReleaseComplete core => Sys2Proof.Machine.execGateReleaseComplete core s
  | .switchArrival n => Sys2Proof.Machine.execSwitchArrival n s
  | .swapTick core => Sys2Proof.Machine.execSwapTick core s
  | .switchAbort n => Sys2Proof.Machine.execSwitchAbort n s
  | .nancntAccess op d v => Sys2Proof.Machine.execNancntAccess op d v s
  | .lfsrseedWrite v => Sys2Proof.Machine.execLfsrseedWrite v s
  | .rimeinjWrite v => Sys2Proof.Machine.execRimeinjWrite v s
  | .swgroupWrite v => Sys2Proof.Machine.execSwgroupWrite v s
  | .errbaseWrite ctx v => Sys2Proof.Machine.execErrbaseWrite ctx v s
  | .errsizeWrite ctx v => Sys2Proof.Machine.execErrsizeWrite ctx v s
  | .errtailWrite ctx v => Sys2Proof.Machine.execErrtailWrite ctx v s
  | .errflagsWrite ctx v => Sys2Proof.Machine.execErrflagsWrite ctx v s
  | .hubCsrAnswer core => Sys2Proof.Machine.execHubCsrAnswer core s
  | .errorBankWrite unit v => Sys2Proof.Machine.execErrorBankWrite unit v s
  | .registerWrite csr v => Sys2Proof.Machine.execRegisterWrite csr v s
  | .leaseGrant cluster => Sys2Proof.Machine.execLeaseGrant cluster s
  | .leaseExpiry cluster => Sys2Proof.Machine.execLeaseExpiry cluster s
  | .mmahFetch core => Sys2Proof.Machine.execMmahFetch core s
  | .kChunk core => Sys2Proof.Machine.execKChunk core s
  | .slotCommandComplete core => Sys2Proof.Machine.execSlotCommandComplete core s
  | .planeCommandComplete core => Sys2Proof.Machine.execPlaneCommandComplete core s
  | .mdrainhWritesPerformed core => Sys2Proof.Machine.execMdrainhWritesPerformed core s
  | .msampWaitExpiry core => Sys2Proof.Machine.execMsampWaitExpiry core s
  | .xgathRowStep core n => Sys2Proof.Machine.execXgathRowStep core n s
  | .xtblHeaderCheck core n => Sys2Proof.Machine.execXtblHeaderCheck core n s
  | .fillComplete core n => Sys2Proof.Machine.execFillComplete core n s
  | .xcollRelease core n => Sys2Proof.Machine.execXcollRelease core n s
  | .routePass die => Sys2Proof.Machine.execRoutePass die s
  | .expertSlotLoadDone die => Sys2Proof.Machine.execExpertSlotLoadDone die s
  | .xCommandComplete core n => Sys2Proof.Machine.execXCommandComplete core n s
  | .applyContinuation n => Sys2Proof.Machine.execApplyContinuation n s
  | .applyCancel n => Sys2Proof.Machine.execApplyCancel n s
  | .atomicAtHomeSlice n => Sys2Proof.Machine.execAtomicAtHomeSlice n s
  | .fredApply n => Sys2Proof.Machine.execFredApply n s
  | .lineRepair key bytes => Sys2Proof.Machine.execLineRepair key bytes s
  | .atomwaitExpiry n => Sys2Proof.Machine.execAtomwaitExpiry n s
  | .floorBroadcast => Sys2Proof.Machine.execFloorBroadcast s
  | .lineTimeSweep owner => Sys2Proof.Machine.execLineTimeSweep owner s
  | .incrementalUpdate n => Sys2Proof.Machine.execIncrementalUpdate n s
  | .readyNotice n => Sys2Proof.Machine.execReadyNotice n s
  | .occupancyBroadcast die => Sys2Proof.Machine.execOccupancyBroadcast die s
  | .dispatch die => Sys2Proof.Machine.execDispatch die s
  | .priorityAgeing die => Sys2Proof.Machine.execPriorityAgeing die s
  | .releaseReached die => Sys2Proof.Machine.execReleaseReached die s
  | .preemptionRequest die => Sys2Proof.Machine.execPreemptionRequest die s
  | .forcedYield core => Sys2Proof.Machine.execForcedYield core s
  | .hangWatchdog core => Sys2Proof.Machine.execHangWatchdog core s
  | .vacateWaitExpiry cluster => Sys2Proof.Machine.execVacateWaitExpiry cluster s
  | .moduleReset => Sys2Proof.Machine.execModuleReset s
  | .powerGood cfg => Sys2Proof.Machine.execPowerGood cfg s
  | .decrementPortWrite ctx v => Sys2Proof.Machine.execDecrementPortWrite ctx v s
  | .winnWrite n v => Sys2Proof.Machine.execWinnWrite n v s
  | .bar2Access off write bytes => Sys2Proof.Machine.execBar2Access off write bytes s
  | .hostAtomicop off op bytes a b => Sys2Proof.Machine.execHostAtomicop off op bytes a b s
  | .atomicopCompletion n ok => Sys2Proof.Machine.execAtomicopCompletion n ok s
  | .hostWriteDropped n => Sys2Proof.Machine.execHostWriteDropped n s
  | .pcieLinkDown => Sys2Proof.Machine.execPcieLinkDown s
  | .mbdoor request => Sys2Proof.Machine.execMbdoor request s
  | .mbdoneClear v => Sys2Proof.Machine.execMbdoneClear v s
  | .loadmap => Sys2Proof.Machine.execLoadmap s
  | .kill => Sys2Proof.Machine.execKill s
  | .attest => Sys2Proof.Machine.execAttest s
  | .debugread => Sys2Proof.Machine.execDebugread s
  | .setperm => Sys2Proof.Machine.execSetperm s
  | .coolset => Sys2Proof.Machine.execCoolset s
  | .settrap => Sys2Proof.Machine.execSettrap s
  | .tokgive => Sys2Proof.Machine.execTokgive s
  | .flashImageWrite => Sys2Proof.Machine.execFlashImageWrite s
  | .contextKill ctx => Sys2Proof.Machine.execContextKill ctx s
  | .clcapWrite die v => Sys2Proof.Machine.execClcapWrite die v s
  | .remoteLoad f => Sys2Proof.Machine.execRemoteLoad f s
  | .remoteStore f => Sys2Proof.Machine.execRemoteStore f s
  | .put f => Sys2Proof.Machine.execPut f s
  | .collectiveStep f => Sys2Proof.Machine.execCollectiveStep f s
  | .response f => Sys2Proof.Machine.execResponse f s
  | .management m => Sys2Proof.Machine.execManagement m s
  | .heartbeat => Sys2Proof.Machine.execHeartbeat s
  | .peerLost m => Sys2Proof.Machine.execPeerLost m s
  | .linkDown port => Sys2Proof.Machine.execLinkDown port s
  | .laneLoss port lane => Sys2Proof.Machine.execLaneLoss port lane s
  | .faultNotice origin seq lost => Sys2Proof.Machine.execFaultNotice origin seq lost s
  | .loadCompleteNotice src => Sys2Proof.Machine.execLoadCompleteNotice src s
  | .tokenGrant src num tokens => Sys2Proof.Machine.execTokenGrant src num tokens s
  | .tokxAckTimeout peer => Sys2Proof.Machine.execTokxAckTimeout peer s
  | .tokenOutcomeQuery peer => Sys2Proof.Machine.execTokenOutcomeQuery peer s
  | .governorWindow avg dieUse clusterUse => Sys2Proof.Machine.execGovernorWindow avg dieUse clusterUse s
  | .stepAnnouncement die step tick => Sys2Proof.Machine.execStepAnnouncement die step tick s
  | .stepChange die => Sys2Proof.Machine.execStepChange die s
  | .energyCounterUpdate cores dies hub total => Sys2Proof.Machine.execEnergyCounterUpdate cores dies hub total s
  | .valveSetting => Sys2Proof.Machine.execValveSetting s
  | .grantCounts zone => Sys2Proof.Machine.execGrantCounts zone s
  | .sensorSample readings => Sys2Proof.Machine.execSensorSample readings s
  | .purgeStart zone => Sys2Proof.Machine.execPurgeStart zone s
  | .purgePulse zone => Sys2Proof.Machine.execPurgePulse zone s
  | .purgeGap zone => Sys2Proof.Machine.execPurgeGap zone s

end Sys2Proof.Machine
end

