-- ==== Sys2Proof/Machine/Issue.lean ====
section
/-! DEFINITION. Issuing a bundle: the fetch, the order in which faults are examined, what holds a bundle, and the issue slots
together (03, R49 to R53, R65; 07, R140, R149; 22, R405 to R409). -/
namespace Sys2Proof.Machine

/-- The lines that an instruction cache of 32 KiB holds (R65; DESIGN CHOICE, log 27). -/
def icacheLines : Nat := 256

/-- A fetch: from the cache where the line stands, else from memory; the line then stands first (R65). -/
def State.fetchLine (s : State) (c : Nat) (t : Target) (pc : Word) : List Byte × State :=
  let line := pc &&& ~~~127
  match (s.core c).icache.find? fun p => p.1 == line with
  | some p => (p.2, s)
  | none =>
    let bs := s.get (t.key / 128 * 128) 128
    (bs, s.modCore c fun k => { k with icache := ((line, bs) :: k.icache).take icacheLines })

/-- The 256 bits of the bundle at an address (R49, R163). -/
def bundleOf (line : List Byte) (pc : Word) : BundleWord := BitVec.ofNat 256 (leNat ((line.drop (pc.toNat % 128)).take 32))

/-- The bits of an issue slot as a record gives them (R408). -/
def slotBits (w : BundleWord) (slot : Nat) : List Byte :=
  match slot with
  | 1 => leBytes 8 (w.extractLsb' 8 64).toNat
  | 2 => leBytes 8 (w.extractLsb' 72 48).toNat
  | 3 => leBytes 8 (w.extractLsb' 120 64).toNat
  | 4 => leBytes 8 (w.extractLsb' 184 64).toNat
  | _ => leBytes 1 (w.extractLsb' 0 8).toNat ++ leBytes 1 (w.extractLsb' 248 8).toNat

/-- An undefined-instruction fault (R164, R408). -/
def State.undefined (s : State) (w : BundleWord) (e : DecErr) : State :=
  s.takeFault ⟨1, locCore (if e.slot = 2 then 1 else 0) s.iss.core (if e.slot = 2 then 0 else 0xFF),
    leBytes 1 e.slot ++ leBytes 1 e.reason ++ leBytes 2 e.pos ++ slotBits w e.slot, none⟩

/-- A header or trailer bit that must be zero (R164). -/
def headerBad (w : BundleWord) : Option DecErr :=
  if w.extractLsb' 4 4 ≠ 0 ∨ w.extractLsb' 248 8 ≠ 0 then
    (match decodeBundle w with | .error e => if e.slot = 0 then some e else none | .ok _ => none)
  else none

/-- The decoding of each issue slot, in the order C, V, M, X (R163, R407). -/
def slots (w : BundleWord) : List (Except DecErr (Option Instr)) :=
  [slotOf (w.getLsbD 0) (decodeC (w.extractLsb' 8 64)), slotOf (w.getLsbD 1) (decodeV (vBits w)),
   slotOf (w.getLsbD 2) (decodeM (w.extractLsb' 120 64)), slotOf (w.getLsbD 3) (decodeX (w.extractLsb' 184 64))]

/-- The instructions of the slots that decode. -/
def presentOf (l : List (Except DecErr (Option Instr))) : List Instr :=
  l.filterMap fun x => match x with | .ok o => o | .error _ => none

/-- The scalar registers of a core that a value is on its way to (R50). -/
def State.busy (s : State) (c : Nat) : List SReg :=
  let ofReq (r : Req) : List SReg := match r.dest with | .sreg k d => if k = c then [d] else [] | _ => []
  s.rets.flatMap (fun r => if r.core = c then r.writes.map (·.1) else [])
    ++ s.reqs.flatMap ofReq ++ s.parked.flatMap (fun p => ofReq p.req)
    ++ s.hostOut.flatMap (fun o => match o with | .atomic r => ofReq r | _ => [])
    ++ s.remotes.flatMap (fun r => if r.org.core = some c then r.dest else [])
    ++ (s.core c).slotq.flatMap (fun m => writesS m.instr)
    ++ s.hub.hubcsr.flatMap (fun a => if a.core = c then [a.d] else [])
    ++ s.hub.transfers.flatMap (fun t => match t.dest with | some (k, d) => if k = c then [d] else [] | none => [])

/-- The instruction accesses memory on the core path (R139): the V issue slot where some group's entry does. -/
def State.corePath (s : State) (c : Nat) (i : Instr) : Bool :=
  match i with
  | .ld _ _ _ _ _ _ | .st _ _ _ _ _ _ | .ldp _ _ _ _ _ | .stp _ _ _ _ _ | .amo _ _ _ _ _ _ _ | .cas _ _ _ _ _ _
  | .casc _ _ _ _ _ _ _ | .amoct _ _ _ _ _ _ _ _ _ | .fred _ _ _ _ _ _ => true
  | .vix _ index _ _ _ _ =>
    let k := s.core c
    (List.range 16).any fun g =>
      let op := ((k.banks.getD k.active Bank.clear).entries.get (g * 1024 + index.toNat) 0).toNat / 2 ^ 118
      decide (0x200 ≤ op ∧ op ≤ 0x208) || op == 0x305
  | _ => false

/-- The instruction accesses memory on the core path before the phase's freeze (R140): all but stores to the G space. -/
def State.ungated (s : State) (c : Nat) (i : Instr) : Bool :=
  match i with
  | .st _ _ _ _ space _ => space != 0
  | .stp _ _ _ space _ => space != 0
  | .vix _ index _ _ _ _ =>
    let k := s.core c
    (List.range 16).any fun g =>
      match decodeEntry ((k.banks.getD k.active Bank.clear).entries.get (g * 1024 + index.toNat) 0) with
      | some j => touchesNow j
      | none => false
  | _ => s.corePath c i

/-- The path of an engine command (R147). -/
def enginePath (i : Instr) : Option Nat :=
  match i with
  | .xcopy _ | .xgath _ | .xscat _ | .xfill _ | .xput _ _ | .xtbl _ | .xcoll _ _ _ _ | .xroute _ _ _ | .xrsnap _ _
  | .xexpa _ _ | .xexpr _ _ | .xfmt _ _ _ | .xrime _ _ => some (xPath i)
  | _ => mPath i

/-- The core's logical time has run too far ahead of the floor (R143). -/
def State.tooFar (s : State) (c : Nat) : Bool :=
  let d := ((s.core c).ltime + 2 ^ 48 - s.lfloor) % 2 ^ 48
  decide (2 ^ 40 < d ∧ d < 2 ^ 47)

/-- The format entry that an issue slot selects (R118). -/
def State.fmtUsed (s : State) (c : Nat) (i : Instr) : Option Nat :=
  let at_ (fsel : BitVec 2) (foff : Nat) : Option Nat := some ((((s.core c).regs.getLc fsel.toNat).toNat + foff) % 16)
  match i with
  | .vix _ _ _ fsel foff _ => at_ fsel foff.toNat
  | .mlds f => at_ f.fsel f.foff.toNat
  | .mma f => at_ f.fsel f.foff.toNat
  | .mmah f => at_ f.fsel f.foff.toNat
  | .mdrain f => at_ f.fsel f.foff.toNat
  | .mdrainh f => at_ f.fsel f.foff.toNat
  | .msamp f => at_ f.fsel f.foff.toNat
  | _ => none

/-- An XFMT under way writes a format entry (R118). -/
def Core.fmtPending (k : Core) (n : Nat) : Bool :=
  k.xq.any fun x => match x.instr with | .xfmt _ a b => decide (a.toNat ≤ n ∧ n ≤ a.toNat + b.toNat) | _ => false

/-- What holds a bundle before its slots are looked at (R50, R118, R140, R143, R149, R274): among others, an access that no freeze releases
waits for the stores that the last freeze released, and every core-path access for the atomics of earlier bundles. -/
def State.blocked (s : State) (c : Nat) (l : List Instr) : Bool :=
  let busy := s.busy c
  let k := s.core c
  k.xq.any (fun x => x.refetch)
    || l.any (fun i => (readsS i ++ writesS i).any fun r => r != 0 && busy.contains r)
    || (!k.vpend.isEmpty && l.any fun i => match i with | .vix _ _ _ _ _ _ => true | _ => false)
    || (l.any (s.corePath c) && (s.atomicOut c || s.hostAtomicOut c || s.tooFar c || s.fenceHolds c 0))
    || (l.any (s.ungated c) && s.storesOut c)
    || l.any (fun i => match enginePath i with | some p => s.fenceHolds c p | none => false)
    || l.any fun i => match s.fmtUsed c i with | some n => k.fmtPending n | none => false

/-- FREEZE and TDONE end the phase (R213, R214). -/
def endsPhase (i : Instr) : Bool := match i with | .freeze _ _ _ | .tdone _ _ => true | _ => false

/-- The slots act one after another on what the earlier ones left; sources are those at issue (R49). -/
def runSlots (l : List Instr) (s : State) : Out :=
  match l with
  | [] => .next s
  | i :: l =>
    match exec i s with
    | .next t => if t.iss.st = .ok then runSlots l t else .next t
    | o => o

/-- The slots act in the order C, V, M, X, but FREEZE and TDONE last: they do not act where a VSAMP of the bundle has found a mismatch, since
that fails the phase in which the bundle stands (R213, R214, R248). -/
def actSlots (l : List Instr) (s : State) : Out :=
  match runSlots (l.filter fun i => !endsPhase i) s with
  | .next t => if t.iss.st = .ok ∧ t.iss.samp = [] then runSlots (l.filter endsPhase) t else .next t
  | o => o

/-- The outcome of examining the slots one by one, each alone (R407): a fault or a hold with its state, or none. -/
inductive Exam where
  | clear
  | faulted (s : State)
  | held (s : State)
  | stop (o : Out)

/-- An MCLAIM whose destination the C issue slot writes too (R52, R408). -/
def clash (c m : Except DecErr (Option Instr)) : Option DecErr :=
  match c, m with
  | .ok (some i), .ok (some j) =>
    if clashes i j then some ⟨3, 5, 160 + lowBit ((writesS j).headD 0)⟩ else none
  | _, _ => none
where
  /-- The lowest set bit of a register field. -/
  lowBit (r : SReg) : Nat := ((List.range 6).find? fun n => r.getLsbD n).getD 0

/-- The slots examined in order; a hold counts only where no slot fails to decode. -/
def examine (s : State) (w : BundleWord) (broken : Bool) (l : List (Except DecErr (Option Instr))) : Exam :=
  match l with
  | [] => .clear
  | x :: l =>
    match x with
    | .error e => .faulted (s.undefined w e)
    | .ok none => examine s w broken l
    | .ok (some i) =>
      match exec i s with
      | .next t =>
        if t.iss.st = .faulted then .faulted t
        else if t.iss.st = .held ∧ !broken then .held t
        else examine s w broken l
      | o => .stop o

/-- The slots with the M slot's clash in its place. -/
def withClash (l : List (Except DecErr (Option Instr))) : List (Except DecErr (Option Instr)) :=
  match l with
  | [c, v, m, x] => (match clash c m with | some e => [c, v, .error e, x] | none => l)
  | l => l

/-- Some slot does not decode. -/
def anyBad (l : List (Except DecErr (Option Instr))) : Bool := l.any fun x => match x with | .error _ => true | .ok _ => false

/-- The bundle in issue has acted: it counts as issued, and the next bundle is the one chosen (R51). What it read from other
modules is let go. -/
def State.advancePc (s : State) (c : Nat) : State :=
  { s.modCore c fun k => { k with issued := k.issued + 1, pc := if k.task.isSome then s.iss.npc else k.pc } with far := s.far.del (coreFar c) }

/-- The issue context of a bundle (R49). -/
def State.enter (s : State) (c : Nat) (pc : Word) : State := { s with iss := ⟨c, pc, s.core c, .ok, pc + 32, 0, 0, 0, 0, 0, [], false⟩ }

/-- The state in which the slots of a bundle are examined: an SRFENCE that acts has emptied the shape-record cache, so that the bundle's own
commands read their records again (R223). -/
def State.fenced (s : State) (c : Nat) (is : List Instr) : State :=
  if is.any fun i => match i with | .srfence g => s.guard g | _ => false then s.modCore c fun k => { k with srcache := [] } else s

/-- The slots of a bundle issue together: held, faulted, or all act (R49, R50, R405). -/
def State.issueBundle (s : State) (c : Nat) (w : BundleWord) : Out :=
  let l := withClash (slots w)
  let is := presentOf l
  if s.blocked c is then .next s.hold
  else match headerBad w with
    | some e => .next (s.undefined w e)
    | none =>
      match examine (s.fenced c is) w (anyBad l) l with
      | .faulted t => .next t
      | .held t => .next t
      | .stop o => o
      | .clear =>
        match actSlots is s with
        | .next t => .next (match t.iss.st with | .ok => (t.advancePc c).sampFail c | .held => s.hold | _ => t)
        | o => o

/-- A core issues (R49): its bundle is fetched, decoded and issued. -/
def State.issueAt (s : State) (c : Nat) : Out :=
  let k := s.core c
  let s := s.enter c k.pc
  match s.translate k.ctxid k.pc .fetch with
  | .error r => .next (s.takeFault (mapFault (locCore 0 c 0xFF) 3 r 7 0 0 k.pc))
  | .ok t =>
    let (line, s) := s.fetchLine c t k.pc
    s.issueBundle c (bundleOf line k.pc)

/-- One action of a bundle that is still to come (R140, R144). -/
def State.actLate (s : State) (a : LateAct) : Out :=
  match a with
  | .entry g i => execEntry i { s with iss := { s.iss with group := g } }
  | .load sp ea ks got dest size =>
    .next (match s.readStop (loadOp dest) (cmSpace sp) ea ks with
      | some t => t
      | none =>
        let s := s.reform ks
        (s.noteLoad ks).loadDone (cmSpace sp) dest size (got ++ ks.map (s.loadByte s.iss.core)))
  | .store sp ks bs =>
    .next (if s.copyOutReads s.iss.core ks || (sp == 1 && ks.any fun k => s.bankLocked s.iss.core (k % 2 ^ 22)) then s.hold
      else s.chipStore (cmSpace sp) ks bs)

/-- What the last bundle of a core has still to do goes on by one action, once its atomics are performed (R140, R144). -/
def State.lateStep (s : State) (c : Nat) (l : Late) : Out :=
  match l.todo with
  | [] => .next { s with lates := s.lates.filter fun x => x.iss.core != c }
  | a :: rest =>
    if s.atomicOut c || s.hostAtomicOut c then .next s.hold
    else match { s with lates := s.lates.filter (fun x => x.iss.core != c), iss := { l.iss with st := .ok } }.actLate a with
      | .next t =>
        match t.iss.st with
        | .held => .next { t with lates := s.lates }
        | .faulted => .next t
        | _ =>
          let t := { t with far := t.far.del (coreFar c) }
          .next (if rest = [] then t else { t with lates := t.lates ++ [⟨l.iss, rest⟩] })
      | o => o

/-- What the core's last bundle has still to do. -/
def State.lateOf (s : State) (c : Nat) : Option Late := s.lates.find? fun l => l.iss.core == c

/-- The core's next bundle, or what it stalls in, would not go on now. -/
def State.stuckAt (s : State) (c : Nat) : Bool :=
  match s.lateOf c with
  | some l => (match s.lateStep c l with | .next t => t.iss.st == .held | _ => false)
  | none =>
  match (s.core c).hold with
  | .none | .filling | .swapped | .synced => match s.issueAt c with | .next t => t.iss.st == .held | _ => false
  | .freezing _ _ | .ending _ => !s.canFreeze c
  | .retiring _ => !s.writesDone c
  | .gsync => match (s.core c).task with | some b => !s.barrierMet (s.coresOf b.serial) | none => false
  | .swap _ | .saving => true

/-- The core is held only by a parked atomic (R387): without those that are parked the core would go on. -/
def State.heldByPark (s : State) (c : Nat) : Bool := !s.parked.isEmpty && s.stuckAt c && !{ s with parked := [] }.stuckAt c

/-- A core's turn: what holds it goes on, else its bundle issues. Nothing issues in a fenced module or a killed context (R365,
R377). -/
def State.coreTurn (s : State) (c : Nat) : Out :=
  let k := s.core c
  if k.task.isNone || s.hub.fenced then .next s
  else match s.lateOf c with
  | some l => s.lateStep c l
  | none =>
    match k.hold with
    | .none | .filling | .swapped | .synced => s.issueAt c
    | _ => .next (s.poll c)

end Sys2Proof.Machine
end

