-- ==== Sys2Proof/Machine/Turn.lean ====
section
/-! DEFINITION. Who moves next, and what moves that is no event of the opcode table: posted writes, the host, ports, errors of the
stores; and the passing of time (DESIGN CHOICE, log 1, DESIGN CHOICE, log 2). -/
namespace Sys2Proof.Machine

/-! The turns. -/

/-- The turn that follows step n: free (DESIGN CHOICE, log 2). -/
def chooseTurn (n : Nat) : Turn :=
  let i := Config.nextIndex n
  match Config.nextKind n with
  | 0 => .wait
  | 1 => .issue (i % 512)
  | 2 => .drain (i % 512)
  | 3 => .post i
  | 4 => .host i (Config.nextBytes n)
  | 5 => .port
  | 6 => .damage i
  | 7 => .corrected i
  | 8 => .upset (i % 512) (i / 512 % 17)
  | 9 => .lostState (i % 16)
  | 10 => .lostModule
  | 11 => .bar0 (i / 2 % 2 ^ 20) (i % 2 == 1) (Config.nextBytes n)
  | 12 => .message (i % 18)
  | 13 => .firmDec (BitVec.ofNat 64 i)
  | 14 => .firmStore (BitVec.ofNat 64 i) (Config.nextBytes n)
  | 15 => .firmThr (BitVec.ofNat 64 i)
  | 16 => .firmTarget (BitVec.ofNat 16 i).toInt
  | 18 => .outbound (i % 288)
  | 19 => .config (i / 2 % 4096) (i % 2 == 1) (Config.nextBytes n)
  | 17 => .firmZone (i / 2 ^ 32) (i % 2 ^ 32)
  | _ => match Config.nextEvent n with | some e => .event e | none => .wait

/-- A row of the opcode table that happens by itself. Instructions happen in bundles, table entries in groups, and the effects of CSR
instructions in those; firmware writes privileged registers and error banks (R362, R374). -/
def isEvent (i : Instr) : Bool :=
  (encode i).isNone && (tableOp i).isNone &&
    match i with
    | .nancntAccess _ _ _ | .lfsrseedWrite _ | .rimeinjWrite _ | .swgroupWrite _ | .errbaseWrite _ _ | .errsizeWrite _ _ | .errtailWrite _ _
    | .errflagsWrite _ _ => false
    | .registerWrite csr _ => decide (0x800 ≤ csr.toNat)
    | _ => true

/-- The host writes its own memory, or another module its memory as this one sees it (DESIGN CHOICE, log 18). -/
def State.hostWrites (s : State) (addr : Nat) (bs : List Byte) : State :=
  s.put (if addr < 2 ^ 64 then hostKey addr else spaceKey 8 (addr % 2 ^ 80)) bs

/-- A port sends: management goes first; flits rest during a recovery (R334, R432). -/
def State.portSends (s : State) : State :=
  match s.mgmtOut with
  | _ :: rest => { s with mgmtOut := rest }
  | [] => if s.hub.recStep = 0 then { s with flitsOut := s.flitsOut.drop 1 } else s

/-- A core's cluster is enabled: a disabled one has no stores (R13). -/
def State.coreEnabled (s : State) (c : Nat) : Bool := s.enabled (dieOf c) (clusterOf c % 16)

/-- A key names a byte of a store that stands in this module (R13, R16). -/
def State.stored (s : State) (key : Nat) : Bool :=
  let off := key % 2 ^ 80
  match keySpace key with
  | 0 => decide (keyStack key < 24)
  | 1 => true
  | 3 => decide (off / 2 ^ 22 < 512) && s.coreEnabled (off / 2 ^ 22)
  | 4 => decide (off / 2 ^ 22 < 128) && s.coreEnabled (off / 2 ^ 22 * 4)
  | 5 => decide (off < 8 * 2 ^ 26)
  | 6 => decide (off / 65536 < 512) && s.coreEnabled (off / 65536)
  | _ => false

/-- A sector added to those that are damaged. -/
def addSector (l : List Nat) (n : Nat) : List Nat := if l.contains n then l else n :: l

/-- Damage to a 32-byte sector (R382, R383): of memory by granule; of operand slots from 2 ^ 90, by cluster × 2 ^ 16 + slot × 128 + sector; of the
accumulator and margin stores from 2 ^ 91, by core × 2 ^ 17 + plane × 2 ^ 14 + sector. -/
def State.hurt (s : State) (g : Nat) : State :=
  if 2 ^ 91 ≤ g then
    let n := g - 2 ^ 91
    let c := n / 2 ^ 17
    if 512 ≤ c ∨ 8256 < n % 2 ^ 14 ∨ !s.coreEnabled c then s
    else s.putPlane c (n / 2 ^ 14 % 8) { s.plane c (n / 2 ^ 14 % 8) with poison := addSector (s.plane c (n / 2 ^ 14 % 8)).poison (n % 2 ^ 14) }
  else if 2 ^ 90 ≤ g then
    let n := g - 2 ^ 90
    let k := n / 2 ^ 16
    if 128 ≤ k ∨ 72 < n % 128 ∨ !s.coreEnabled (4 * k) then s
    else s.putSlot k (n / 128 % 512) { s.slot k (n / 128 % 512) with poison := addSector (s.slot k (n / 128 % 512)).poison (n % 128) }
  else if s.stored (g * 32) ∧ !s.poison.contains g then { s with poison := g :: s.poison }
  else s

/-- The unit whose store holds a key (R356). -/
def keyLoc (key : Nat) : Loc :=
  let off := key % 2 ^ 80
  match keySpace key with
  | 0 => ⟨14, keyDie key, keyStack key % 3, keySlice key, keyChannel key⟩
  | 1 => locDie 15 (keyDie key)
  | 3 => locCore 5 (off / 2 ^ 22) (bankOf (off % 2 ^ 22))
  | 4 => ⟨6, off / 2 ^ 22 / 16, off / 2 ^ 22 % 16, off % 2 ^ 22 / 2 ^ 20, 0xFF⟩
  | 5 => locDie 10 (keyDie key)
  | _ => locCore 1 (off / 4096 / 16) (off / 4096 % 16)

/-- The record of a corrected read (R382): how many bits were wrong is free (DESIGN CHOICE, log 7). -/
def State.correctedRec (s : State) (l : Loc) (addr : Nat) : ErrRec :=
  { mkRec 0x16 0 l (leBytes 1 0 ++ [Config.freeByte s.steps 0]) (some (BitVec.ofNat 64 addr)) none with phys := true }

/-- A corrected read (R382): what is read stands, and is written back; a record tells. Of a line of HBM or deep memory it may be a die's L2 that reads its
copy. Numbers are those of `State.hurt`, for memory of its bytes; from 2 ^ 92 on they name a table, format, register, latch, gate or shadow entry
of a core, by core × 2 ^ 21 + group × 2 ^ 16 + entry, group 16 being the sequencer; the entry stands as the address (DESIGN CHOICE, log 7). -/
def State.correct (s : State) (key : Nat) : State :=
  if 2 ^ 92 ≤ key then
    let n := key - 2 ^ 92
    let c := n / 2 ^ 21
    let g := n / 2 ^ 16 % 32
    if 512 ≤ c ∨ 16 < g ∨ !s.coreEnabled c then s
    else s.post (s.correctedRec (if g < 16 then locCore 1 c g else locCore 0 c 0xFF) (n % 2 ^ 16))
  else if 2 ^ 91 ≤ key then
    let n := key - 2 ^ 91
    let c := n / 2 ^ 17
    if 512 ≤ c ∨ 8256 < n % 2 ^ 14 ∨ !s.coreEnabled c then s
    else s.post (s.correctedRec (locCore 4 c (n / 2 ^ 14 % 8)) (storeAddr (n / 2 ^ 14 % 8) (n % 2 ^ 14)))
  else if 2 ^ 90 ≤ key then
    let n := key - 2 ^ 90
    let k := n / 2 ^ 16
    if 128 ≤ k ∨ 72 < n % 128 ∨ !s.coreEnabled (4 * k) then s
    else s.post (s.correctedRec (locCluster 3 k (n / 128 % 512 / 2)) (storeAddr (n / 128 % 512) (n % 128)))
  else if s.stored key then
    let copies := (List.range 8).filter fun d => decide (keySpace key ≤ 1) && ((s.die d).l2.find (lineOf key)).isSome
    s.post (s.correctedRec (match copies.getD (Config.nextIndex s.steps % 9) 8 with | 8 => keyLoc key | d => locDie 9 d) key)
  else s

/-- Consumption of an uncorrectable register, latch, table or format entry (R384): by a group, or by the sequencer. Such an entry is found
damaged when it is read, and its reader consumes it (DEDUCED, log 7). -/
def State.consumeReg (s : State) (c group : Nat) : State :=
  if (s.core c).task.isNone then s
  else
    let r := mkRec 0x17 1 (if group < 16 then locCore 1 c group else locCore 0 c 0xFF) (leBytes 1 (if group < 16 then 2 else 1))
      (some (BitVec.ofNat 64 (Config.nextIndex s.steps % 2 ^ 16))) (some (s.orgOf c))
    s.strike c { r with phys := true }

/-- An event that goes on in a fenced module (R365): the mailbox and the controllers behind it, accesses of the host, which complete without effect, and what
runs for no context: the governor, the coolant controller and the counters (DEDUCED, log 34). -/
def goesOn (i : Instr) : Bool :=
  match i with
  | .moduleReset | .powerGood _ | .mbdoor _ | .mbdoneClear _ | .loadmap | .kill | .attest | .debugread | .setperm | .coolset | .settrap | .tokgive
  | .flashImageWrite | .contextKill _ | .decrementPortWrite _ _ | .bar2Access _ _ _ | .hostAtomicop _ _ _ _ _ | .pcieLinkDown | .clcapWrite _ _
  | .errorBankWrite _ _ | .registerWrite _ _ | .tokxAckTimeout _ | .governorWindow _ _ _ | .stepChange _ | .energyCounterUpdate _ _ _ _ | .valveSetting
  | .grantCounts _ | .sensorSample _ | .vacateWaitExpiry _ | .purgeStart _ | .purgePulse _ | .purgeGap _ => true
  | _ => false

/-- The turn is one that a fenced module does not take (R365): of its contexts, its memory and its fabric. -/
def State.rests (s : State) : Bool :=
  s.hub.fenced && match s.turn with
    | .issue _ | .drain _ | .outbound _ | .post _ | .port | .upset _ _ | .lostState _ => true
    | .event i => !goesOn i
    | _ => false

/-- One turn. -/
def State.act (s : State) : Out :=
  if s.rests then .next s
  else match s.turn with
  | .wait => .next s
  | .issue c => s.coreTurn c
  | .drain c => .next (s.drainOne c)
  | .outbound n => .next (s.sendOutbound n)
  | .post n => .next (s.postHost n)
  | .host a bs => .next (s.hostWrites a bs)
  | .port => .next s.portSends
  | .damage g => .next (s.hurt g)
  | .corrected k => .next (s.correct k)
  | .upset c g => .next (s.consumeReg c g)
  | .lostState c => .next (if (s.ctx c).resident then s.startKill c (locDie 20 8) none else s)
  | .lostModule => .next (s.fenceModule (locDie 20 8))
  | .bar0 off w bs => s.bar0 off w bs
  | .config off w bs => .next (s.config off w bs)
  | .message v => .next (s.sendMsix v)
  | .firmDec v => .next (s.firmPort v)
  | .firmStore va bs => .next (s.firmWrites va bs)
  | .firmThr v => .next (s.writeThr v)
  | .firmTarget t => .next (s.modHub fun h => { h with ttarget := t })
  | .firmZone z e => .next (if z < 260 then (s.writeZone z e).getD s else s)
  | .event i => if isEvent i then exec i { s with iss := { Issue.idle with core := Config.nextIndex s.steps % 512 } } else .next s

/-! Time (DESIGN CHOICE, log 1). -/

/-- The core's watchdog counts every cycle but those in which a parked atomic alone holds the core (R374, R387). -/
def State.watches (s : State) (c : Nat) : Bool := !s.heldByPark c

/-- Cycles pass on a core (R61, R69, R142, R266, R374). -/
def State.ageCore (s : State) (c : Nat) (k : Core) : Core :=
  let n := Config.elapsedCycles s.steps (dieOf c)
  { k with
    phase := if k.task.isSome && s.watches c then { k.phase with cycles := k.phase.cycles + n } else k.phase
    waitpeer := match k.hold with | .swap _ => min 0xFFFFFF (k.waitpeer + n) | _ => k.waitpeer
    ltime := (k.ltime + (n + 15) / 16) % 2 ^ 48
    arrayq := k.arrayq.map fun m => match m.instr with | .msamp _ => { m with waited := m.waited + n } | _ => m }

/-- Cycles pass on a die, and a wait for a place is counted from when its condition began to hold (R43). -/
def State.ageDie (s : State) (d : Nat) (x : Die) : Die :=
  { x with
    cycle := (x.cycle + Config.elapsedCycles s.steps d) % 2 ^ 64
    queue := x.queue.map fun q => { q with since := if s.waiting d q then q.since.or (some s.frame) else none } }

/-- Time passes, and the next turn is chosen. -/
def State.advance (s : State) : State :=
  { s with
    frame := (s.frame + Config.elapsedTicks s.steps) % 2 ^ 64
    steps := s.steps + 1
    cores := allCores.map fun c => (c, s.ageCore c (s.core c))
    clusters := s.clusters.map fun p => (p.1, { p.2 with lease := { p.2.lease with cycles := p.2.lease.cycles - Config.elapsedCycles s.steps (p.1 / 16) } })
    dies := (List.range 8).map fun d => (d, s.ageDie d (s.die d))
    iss := Issue.idle
    turn := chooseTurn s.steps }

end Sys2Proof.Machine
end

