-- ==== Sys2Proof/Machine/Step.lean ====
section
/-! DEFINITION. One step of the module: the agent whose turn it is moves, time passes, and the next turn is chosen. -/
namespace Sys2Proof.Machine

/-- One step (DESIGN CHOICE, log 2). -/
def step (s : State) : Host.Outcome State Fault Refusal :=
  match s.act with
  | .next t => .next t.advance
  | .fault f => .fault f
  | .refused r => .refused r

/-- The region entry of the program that withFetchWord places: flat, class 0, all permissions, memory-side, 4 GiB (R81). -/
def fetchRegion : Quad := BitVec.ofNat 128 (2048 * 2 ^ 84 + 2 ^ 71 + 2 ^ 70 + 2 ^ 69 + 2 ^ 68 + 2 ^ 67)

/-- The task that withFetchWord places: of context 0, on core 0 (DESIGN CHOICE, log 3). -/
def fetchTask : Binding := ⟨0x100000, 0, 1, 0, false, 0, 0, 0, 0, 0, 0, false, 0, false, 0, 0, 0, [], none⟩

/-- The state with an instruction where the next step fetches and runs it: core 0 runs a task of context 0 at address 0, which lies at the
start of HBM, and it is core 0's turn (DESIGN CHOICE, log 3). -/
def State.withFetchWord (s : State) (nbits w : Nat) : State :=
  let s := s.modCtx 0 fun x => { x with map := { x.map with regions := x.map.regions.set 0 fetchRegion }, resident := true, kill := .none }
  let s := s.modHub fun h => { h with fenced := false }
  let s := s.modCore 0 fun k => { k with pc := 0, ctxid := 0, task := some fetchTask, taskrec := 0x100000, hold := .none, icache := [] }
  { s with mem := Memory.writeL s.mem 0 (leBytes 128 (w % 2 ^ nbits)), turn := .issue 0 }

end Sys2Proof.Machine
end

