-- ==== Sys2Proof/WellFormed.lean ====
section
/-! DEFINITION. Well-formed instructions: those whose fields an encoding admits (08, R164 to R179; 22, R408, R409, R411). -/
namespace Sys2Proof

/-- A guarded length field of BFX and BFI: 1 to 64 (R201). -/
def lenOk (n : BitVec 7) : Bool := decide (1 ≤ n.toNat ∧ n.toNat ≤ 64)

/-- The offset of a loop's back-edge: not forward (R205). -/
def backOk (off : BitVec 32) : Bool := off == 0 || off.msb

/-- The fields of control-slot instructions that have reserved values. -/
def fieldsC (i : Instr) : Bool :=
  match i with
  | .bfx _ _ _ _ len => lenOk len
  | .bfi _ _ _ _ _ len => lenOk len
  | .cmp _ _ _ _ cc => decide (cc.toNat < 6)
  | .cmpi _ _ _ _ cc => decide (cc.toNat < 6)
  | .loop _ _ _ off => backOk off
  | .loopi _ _ _ off => backOk off
  | .ld _ _ _ size _ _ => size != 7
  | .st _ _ _ size _ _ => size.getLsbD 0 == false
  | .ldp _ d _ _ _ => d != 63
  | .stp _ v _ _ _ => v != 63
  | .amo _ _ _ _ _ op _ => decide (op.toNat < 9)
  | .amoct _ _ _ _ _ _ op cc _ => decide (op.toNat < 9 ∧ cc.toNat < 6)
  | .fred _ _ _ _ op fmt => (op == 0 || op == 4 || op == 5) && decide (fmt.toNat < 5)
  | .xfence _ _ _ scope => decide (scope.toNat < 5)
  | .eread _ _ sel => decide (sel.toNat < 0x10A)
  | _ => true

/-- The fields of matrix-slot commands that have reserved values (R256, R259, R263). -/
def fieldsM (i : Instr) : Bool :=
  match i with
  | .mlds f => f.pitch != 0 && decide (1 ≤ f.fmt.toNat ∧ f.fmt.toNat ≤ 7)
  | .msts _ _ _ _ _ pitch => pitch != 0
  | .mma f => slotRangeOk f.a f.chunks && slotRangeOk f.b f.chunks
  | .mdrain f => f.pitch != 0 && regionOk f.reg
  | .mdrainh f => regionOk f.reg
  | .maccld f => f.pitch != 0 && regionOk f.reg
  | _ => true

/-- An X command with a buffer: COUT and BUF exclude each other, and the buffer number is zero without BUF (R269, R274). -/
def buffered (f : XF) : Bool := !(f.cout == 1 && f.bufv == 1) && (f.bufv == 1 || f.buf == 0)

/-- An X command without a buffer (R269). -/
def unbuffered (f : XF) : Bool := f.bufv == 0 && f.buf == 0

/-- An X command with neither flag (R269). -/
def unflagged (f : XF) : Bool := unbuffered f && f.cout == 0

/-- The fields of copy-slot commands that are unused or have reserved values (R269 to R292). -/
def fieldsX (i : Instr) : Bool :=
  match i with
  | .xcopy f => buffered f
  | .xgath f => buffered f && f.cout == 0
  | .xscat f => unbuffered f
  | .xfill f => buffered f && f.sc == 0
  | .xput f _ => unbuffered f
  | .xcoll f _ _ _ => unbuffered f
  | .xtbl f => unflagged f && f.dr == 0 && f.dc == 0 && f.sc == 0
  | .xroute f _ mode => unflagged f && f.dc == 0 && f.sc == 0 && mode.getLsbD 1 == false
  | .xrsnap f _ => unflagged f && f.dc == 0 && f.sr == 0 && f.sc == 0
  | .xexpa f _ => unflagged f && f.dr == 0 && f.dc == 0
  | .xexpr f _ => unflagged f && f.dr == 0 && f.dc == 0 && f.sr == 0 && f.sc == 0
  | .xfmt f first count => unflagged f && f.dr == 0 && f.dc == 0 && f.sc == 0 && decide (first.toNat + count.toNat + 1 ≤ 16)
  | .xrime f mode => unbuffered f && f.sr == 0 && f.sc == 0 && mode != 3
  | _ => true

/-- A table entry that a fill accepts (R411). -/
def entryOk (i : Instr) : Bool :=
  match Machine.tableOp i with
  | some (op, e) => Machine.classOk op e && Machine.rowOk op e
  | none => true

/-- The fields of events that stand for something of fixed size (R334, R331). -/
def eventOk (i : Instr) : Bool :=
  match i with
  | .remoteLoad f | .remoteStore f | .put f | .collectiveStep f | .response f => decide (f.payload.length ≤ 224)
  | .lineRepair _ bs => bs.length == 128
  | .mbdoor r => decide (r.length ≤ 4096)
  | _ => true

/-- An instruction, command, entry or event that the hardware can be given. -/
def wellFormed (i : Instr) : Bool := fieldsC i && fieldsM i && fieldsX i && entryOk i && eventOk i

end Sys2Proof
end

