-- ==== Sys2Proof/Safety.lean ====
section
/-! DEFINITION. What a step keeps: the frames that claims name, the ranges of the counters, and the guard of an instruction. -/
namespace Sys2Proof.Machine

/-- Every byte of memory reads as before. -/
def SameMem (s t : State) : Prop := ∀ a, Memory.read t.mem a = Memory.read s.mem a

/-- The registers of a core that a task sees. -/
abbrev State.regs (s : State) (c : Nat) : Regs := (s.core c).regs

/-- Nothing but registers of core c is changed: no other core, no other state of the core, no byte of memory, no status, control,
exception or hub register, nothing on its way. -/
def OnlyRegs (c : Nat) (s t : State) : Prop :=
  { t with cores := s.cores } = s ∧ (∀ k, k ≠ c → t.core k = s.core k)
    ∧ { t.core c with regs := s.regs c } = s.core c ∧ SameMem s t

/-- Nothing but the listed scalar registers of core c is changed. -/
def OnlyScalars (c : Nat) (ds : List Nat) (s t : State) : Prop :=
  OnlyRegs c s t ∧ (∀ n, n ∉ ds → (t.regs c).getS n = (s.regs c).getS n)
    ∧ (t.regs c).p = (s.regs c).p ∧ (t.regs c).lc = (s.regs c).lc ∧ (t.regs c).v = (s.regs c).v
    ∧ (t.regs c).q = (s.regs c).q ∧ (t.regs c).b = (s.regs c).b

/-- Nothing but predicate d of core c is changed. -/
def OnlyPredicate (c d : Nat) (s t : State) : Prop :=
  OnlyRegs c s t ∧ (∀ n, n < 8 → n ≠ d → (t.regs c).getP n = (s.regs c).getP n)
    ∧ (t.regs c).s = (s.regs c).s ∧ (t.regs c).lc = (s.regs c).lc ∧ (t.regs c).v = (s.regs c).v
    ∧ (t.regs c).q = (s.regs c).q ∧ (t.regs c).b = (s.regs c).b

/-- Nothing but vector register d of group g of core c is changed. -/
def OnlyVector (c g d : Nat) (s t : State) : Prop :=
  OnlyRegs c s t ∧ (∀ k n, k * 64 + n ≠ g * 64 + d → (t.regs c).getV k n = (s.regs c).getV k n)
    ∧ (t.regs c).s = (s.regs c).s ∧ (t.regs c).p = (s.regs c).p ∧ (t.regs c).lc = (s.regs c).lc
    ∧ (t.regs c).q = (s.regs c).q ∧ (t.regs c).b = (s.regs c).b

/-- Nothing but loop counter n of core c and the address of the next bundle is changed. -/
def OnlyLoop (c n : Nat) (s t : State) : Prop :=
  { t with cores := s.cores, iss := { t.iss with npc := s.iss.npc } } = s ∧ (∀ k, k ≠ c → t.core k = s.core k)
    ∧ { t.core c with regs := s.regs c } = s.core c ∧ (∀ m, m ≠ n → (t.regs c).getLc m = (s.regs c).getLc m)
    ∧ { t.regs c with lc := (s.regs c).lc } = s.regs c ∧ SameMem s t

/-- Nothing but core c is changed. -/
def OnlyCore (c : Nat) (s t : State) : Prop :=
  { t with cores := s.cores } = s ∧ (∀ k, k ≠ c → t.core k = s.core k) ∧ SameMem s t

/-- The counters of the module are within their widths: FRAME and the CYCLE of every die 64 bits, the logical time of every core 48
bits (R14, R66, R143); every core and every die of the module is held; no bundle is in issue. -/
def Counters (s : State) : Prop :=
  s.frame < 2 ^ 64 ∧ (∀ d, d < 8 → (s.die d).cycle < 2 ^ 64) ∧ (∀ c, c < 512 → (s.core c).ltime < 2 ^ 48) ∧ s.iss = Issue.idle

/-- What rules out states that no run reaches: memory is in its canonical form, and every core holds two banks of tables, of which one
is active (R57, R58). -/
def Inv (s : State) : Prop := Memory.wf s.mem ∧ ∀ c, (s.core c).banks.length = 2 ∧ (s.core c).active < 2

/-- The guard of an issue slot's instruction; NOP has none (R165). -/
def guardOf (i : Instr) : Option Guard :=
  match i with
  | .add g _ _ _ | .sub g _ _ _ | .mul g _ _ _ | .mulh g _ _ _ | .mulhn g _ _ _ | .div g _ _ _ | .divn g _ _ _ | .rem g _ _ _
  | .remn g _ _ _ | .and_ g _ _ _ | .or_ g _ _ _ | .xor g _ _ _ | .andn g _ _ _ | .shl g _ _ _ | .shr g _ _ _ | .sra g _ _ _
  | .rol g _ _ _ | .min_ g _ _ _ | .max_ g _ _ _ | .minn g _ _ _ | .maxn g _ _ _ | .clz g _ _ | .popc g _ _ | .sext g _ _ _
  | .zext g _ _ _ | .bfx g _ _ _ _ | .bfi g _ _ _ _ _ | .sel g _ _ _ _ | .cmp g _ _ _ _ | .plog g _ _ _ _ | .lea g _ _ _ _
  | .addi g _ _ _ | .andi g _ _ _ | .ori g _ _ _ | .xori g _ _ _ | .shli g _ _ _ | .shri g _ _ _ | .srai g _ _ _ | .li g _ _
  | .lih g _ _ _ | .muli g _ _ _ | .addpc g _ _ | .cmpi g _ _ _ _ | .br g _ | .brp g _ _ | .brz g _ _ | .brnz g _ _ | .brr g _ _
  | .call g _ | .callr g _ | .ret g | .loop g _ _ _ | .loopi g _ _ _ | .lbrk g _ _ | .ld g _ _ _ _ _ | .st g _ _ _ _ _
  | .ldp g _ _ _ _ | .stp g _ _ _ _ | .amo g _ _ _ _ _ _ | .cas g _ _ _ _ _ | .casc g _ _ _ _ _ _ | .amoct g _ _ _ _ _ _ _ _
  | .fred g _ _ _ _ _ | .tspawn g _ | .tdec g _ _ | .tarm g _ _ | .tdone g _ | .freeze g _ _ | .fence g | .xfence g _ _ _ | .gsync g
  | .tswap g _ | .publish g _ _ | .csrr g _ _ | .csrw g _ _ _ | .csrs g _ _ _ | .csrc g _ _ _ | .trap g _ _ | .icinv g _ | .srfence g
  | .eread g _ _ | .tokx g _ _ | .vix g _ _ _ _ _ | .mnop g | .mlease g _ | .mrels g | .mclaim g _ _ | .mfree g | .msts g _ _ _ _ _
  | .mtran g _ _ | .mzero g _ | .xnop g => some g
  | .mlds f => some f.g
  | .mma f => some f.g
  | .mmah f => some f.g
  | .mdrain f => some f.g
  | .mdrainh f => some f.g
  | .msamp f => some f.g
  | .maccld f => some f.g
  | .xcopy f | .xgath f | .xscat f | .xfill f | .xput f _ | .xtbl f | .xcoll f _ _ _ | .xroute f _ _ | .xrsnap f _ | .xexpa f _
  | .xexpr f _ | .xfmt f _ _ | .xrime f _ => some f.g
  | _ => none

/-- The number of bits above the highest one bit. -/
def leadingZeros (a : Word) : Nat := ((List.range 64).find? fun n => a.getLsbD (63 - n)).getD 64

/-- What an integer, logic or immediate instruction writes to its destination register (R201 to R203), in integers where the rule
speaks of numbers: guard, destination and value. BFI has a statement of its own. -/
def scalarResult (i : Instr) (s : State) : Option (Guard × SReg × Word) :=
  let x (r : SReg) : Word := s.rd r
  match i with
  | .add g d a b => some (g, d, BitVec.ofNat 64 ((x a).toNat + (x b).toNat))
  | .sub g d a b => some (g, d, BitVec.ofInt 64 ((x a).toInt - (x b).toInt))
  | .mul g d a b => some (g, d, BitVec.ofNat 64 ((x a).toNat * (x b).toNat))
  | .mulh g d a b => some (g, d, BitVec.ofInt 64 ((x a).toInt * (x b).toInt / 2 ^ 64))
  | .mulhn g d a b => some (g, d, BitVec.ofNat 64 ((x a).toNat * (x b).toNat / 2 ^ 64))
  | .div g d a b => some (g, d, if x b = 0 then BitVec.allOnes 64 else BitVec.ofInt 64 ((x a).toInt.tdiv (x b).toInt))
  | .divn g d a b => some (g, d, if x b = 0 then BitVec.allOnes 64 else BitVec.ofNat 64 ((x a).toNat / (x b).toNat))
  | .rem g d a b => some (g, d, if x b = 0 then x a else BitVec.ofInt 64 ((x a).toInt.tmod (x b).toInt))
  | .remn g d a b => some (g, d, if x b = 0 then x a else BitVec.ofNat 64 ((x a).toNat % (x b).toNat))
  | .and_ g d a b => some (g, d, x a &&& x b)
  | .or_ g d a b => some (g, d, x a ||| x b)
  | .xor g d a b => some (g, d, x a ^^^ x b)
  | .andn g d a b => some (g, d, x a &&& ~~~(x b))
  | .shl g d a b => some (g, d, BitVec.ofNat 64 ((x a).toNat * 2 ^ ((x b).toNat % 64)))
  | .shr g d a b => some (g, d, BitVec.ofNat 64 ((x a).toNat / 2 ^ ((x b).toNat % 64)))
  | .sra g d a b => some (g, d, BitVec.ofInt 64 ((x a).toInt / 2 ^ ((x b).toNat % 64)))
  | .rol g d a b => some (g, d, x a <<< ((x b).toNat % 64) ||| x a >>> (64 - (x b).toNat % 64))
  | .min_ g d a b => some (g, d, if (x a).toInt ≤ (x b).toInt then x a else x b)
  | .max_ g d a b => some (g, d, if (x b).toInt ≤ (x a).toInt then x a else x b)
  | .minn g d a b => some (g, d, if (x a).toNat ≤ (x b).toNat then x a else x b)
  | .maxn g d a b => some (g, d, if (x b).toNat ≤ (x a).toNat then x a else x b)
  | .clz g d a => some (g, d, BitVec.ofNat 64 (leadingZeros (x a)))
  | .popc g d a => some (g, d, BitVec.ofNat 64 ((List.range 64).filter (x a).getLsbD).length)
  | .sext g d a n => some (g, d, ((x a).setWidth (n.toNat + 1)).signExtend 64)
  | .zext g d a n => some (g, d, ((x a).setWidth (n.toNat + 1)).setWidth 64)
  | .bfx g d a b len => some (g, d, BitVec.ofNat 64 ((x a).toNat / 2 ^ ((x b).toNat % 64) % 2 ^ len.toNat))
  | .sel g d a b cond => some (g, d, if s.guard cond then x a else x b)
  | .lea g d a b sh => some (g, d, BitVec.ofNat 64 ((x a).toNat + (x b).toNat * 2 ^ sh.toNat))
  | .addi g d a imm => some (g, d, BitVec.ofInt 64 ((x a).toInt + imm.toInt))
  | .andi g d a imm => some (g, d, x a &&& imm.signExtend 64)
  | .ori g d a imm => some (g, d, x a ||| imm.signExtend 64)
  | .xori g d a imm => some (g, d, x a ^^^ imm.signExtend 64)
  | .shli g d a sh => some (g, d, BitVec.ofNat 64 ((x a).toNat * 2 ^ sh.toNat))
  | .shri g d a sh => some (g, d, BitVec.ofNat 64 ((x a).toNat / 2 ^ sh.toNat))
  | .srai g d a sh => some (g, d, BitVec.ofInt 64 ((x a).toInt / 2 ^ sh.toNat))
  | .li g d imm => some (g, d, BitVec.ofInt 64 imm.toInt)
  | .lih g d a imm => some (g, d, BitVec.ofNat 64 (imm.toNat * 2 ^ 34 + (x a).toNat % 2 ^ 34))
  | .muli g d a imm => some (g, d, BitVec.ofInt 64 ((x a).toInt * imm.toInt))
  | .addpc g d imm => some (g, d, BitVec.ofInt 64 (s.iss.a.toInt + imm.toInt))
  | _ => none

/-- The outcome of a condition code of R168 on two words: eq, ne, lt, le as signed numbers, ltn, len as unsigned ones. -/
def condition (cc : BitVec 3) (x y : Word) : Bool :=
  match cc.toNat with
  | 0 => decide (x = y)
  | 1 => decide (x ≠ y)
  | 2 => decide (x.toInt < y.toInt)
  | 3 => decide (x.toInt ≤ y.toInt)
  | 4 => decide (x.toNat < y.toNat)
  | _ => decide (x.toNat ≤ y.toNat)

/-- What CMP, CMPI and PLOG write to their destination predicate (R168, R201, R203): guard, destination and value. -/
def predicateResult (i : Instr) (s : State) : Option (Guard × BitVec 3 × Bool) :=
  match i with
  | .cmp g d a b cc => some (g, d, condition cc (s.rd a) (s.rd b))
  | .cmpi g d a imm cc => some (g, d, condition cc (s.rd a) (imm.signExtend 64))
  | .plog g d a b t => some (g, d, t.getLsbD ((if s.rdP a then 2 else 0) + (if s.rdP b then 1 else 0)))
  | _ => none

/-! Reset. -/

/-- What the spec gives a core at module reset (R57, R62, R119): registers, task-writable registers, both banks, the format table. -/
def ResetCore (k : Core) : Prop :=
  (∀ n, k.regs.getS n = 0) ∧ (∀ n, n < 8 → k.regs.getP n = (n == 0)) ∧ (∀ n, k.regs.getLc n = 0)
    ∧ (∀ g n l, laneOf (k.regs.getV g n) l = 0) ∧ (∀ g n, n ≠ 0 → k.regs.getQ g n = 0) ∧ (∀ g n, k.regs.getB g n = 0)
    ∧ k.csrs = Csrs.zero ∧ k.active = 0 ∧ k.shadowSt = .complete
    ∧ (∀ b n, b < 2 → (k.banks.getD b Bank.clear).entries.get n 0 = 0 ∧ (k.banks.getD b Bank.clear).cls.get n 0 = 0)
    ∧ ∀ n, k.fmts.get n 0 = 0

/-- What the spec gives a die at module reset: PREWAIT, PHASEMAX, FORCEWAIT, ATOMWAIT, CGROUP, THR and OFF (R43, R313, R323, R374, R375,
R388), CYCLE (R66), and the expert slot table (R302). -/
def ResetDie (d : Die) : Prop :=
  d.prewait = 1000 ∧ d.phasemax = 0x01000000 ∧ d.forcewait = 1000 ∧ d.atomwait = 100000 ∧ d.cgroup = 0 ∧ d.thr = 0 ∧ d.off = 0
    ∧ d.cycle = 0 ∧ d.hand = 0 ∧ ∀ n, (d.experts.get n Expert.empty).st = .empty

/-- What the spec gives the hub at module reset: the coolant entries (R317), the energy and slip counters (R305, R307), the machine ring's
sequence counter (R360). -/
def ResetHub (s : State) : Prop :=
  (∀ z, 256 ≤ z ∨ s.enabled (z / 32) (z % 32 / 2) = true →
    (s.zone z).shared = true ∧ (s.zone z).fenced = false ∧ (s.zone z).owner = 0 ∧ (s.zone z).max = 15 ∧ (s.zone z).min = 15
      ∧ (s.zone z).grant = 15 ∧ (s.zone z).valve = 15)
    ∧ (∀ z, z < 256 → s.enabled (z / 32) (z % 32 / 2) = false →
      (s.zone z).max = 0 ∧ (s.zone z).min = 0 ∧ (s.zone z).grant = 0 ∧ (s.zone z).valve = 0)
    ∧ (∀ n, s.hub.energy.accounts.get n 0 = 0 ∧ s.hub.energy.dies.get n 0 = 0 ∧ s.hub.slips.get n 0 = 0)
    ∧ s.hub.energy.hub = 0 ∧ s.hub.energy.total = 0 ∧ s.hub.mring.seqctr = 0

/-- Every value that the spec gives for module reset. -/
def ResetValues (s : State) : Prop := (∀ c, ResetCore (s.core c)) ∧ (∀ d, ResetDie (s.die d)) ∧ ResetHub s

/-! One bundle. -/

/-- What stands after the slots of a bundle: a bundle that has acted is counted and moves on to the next one, and a sample that mismatched
fails the phase; one that is held or has faulted leaves the pc. -/
def State.afterBundle (s : State) (c : Nat) : State := if s.iss.st = .ok then (s.advancePc c).sampFail c else s

/-! Memory and atomics. -/

/-- Scalar registers other than the listed ones, and all other registers, of core c keep their values. -/
def OtherScalarsKept (c : Nat) (ds : List Nat) (s t : State) : Prop :=
  (∀ n, n ∉ ds → (t.regs c).getS n = (s.regs c).getS n) ∧ (t.regs c).p = (s.regs c).p ∧ (t.regs c).lc = (s.regs c).lc
    ∧ (t.regs c).v = (s.regs c).v ∧ (t.regs c).q = (s.regs c).q ∧ (t.regs c).b = (s.regs c).b

/-- Nothing but registers of core c, and what its phase notes of its accesses, is changed. -/
def OnlyRegsNoted (c : Nat) (s t : State) : Prop :=
  { t with cores := s.cores } = s ∧ (∀ k, k ≠ c → t.core k = s.core k)
    ∧ { t.core c with regs := s.regs c, phase := (s.core c).phase } = s.core c ∧ SameMem s t

/-- Nothing but the times of lines, and what core c has noted of its accesses, is changed. -/
def OnlyNoted (c : Nat) (s t : State) : Prop :=
  { t with cores := s.cores, lineTimes := s.lineTimes } = s ∧ (∀ k, k ≠ c → t.core k = s.core k)
    ∧ { t.core c with phase := (s.core c).phase, ltime := (s.core c).ltime } = s.core c

/-- Nothing but memory, the shadows of FRED elements, and what the phase of core c notes of its accesses, is changed. -/
def OnlyStored (c : Nat) (s t : State) : Prop :=
  { t with cores := s.cores, mem := s.mem, shadows := s.shadows } = s ∧ (∀ k, k ≠ c → t.core k = s.core k)
    ∧ { t.core c with phase := (s.core c).phase } = s.core c

/-- The effective address of a CM instruction: a register and a signed offset (R206). -/
def effAddr (s : State) (base : SReg) (off : BitVec 32) : Word := BitVec.ofInt 64 ((s.rd base).toInt + off.toInt)

/-- The value of a load by size code: b, h, w sign-extended, bn, hn, wn zero-extended, d whole (R168, R206). -/
def loadedValue (size : BitVec 3) (bs : List Byte) : Word :=
  let n := leNat bs
  match size.toNat with
  | 0 => (BitVec.ofNat 8 n).signExtend 64
  | 1 => BitVec.ofNat 64 (n % 2 ^ 8)
  | 2 => (BitVec.ofNat 16 n).signExtend 64
  | 3 => BitVec.ofNat 64 (n % 2 ^ 16)
  | 4 => (BitVec.ofNat 32 n).signExtend 64
  | 5 => BitVec.ofNat 64 (n % 2 ^ 32)
  | _ => BitVec.ofNat 64 n

/-- Nothing holds or ends a load of these bytes, or is done before it: no request is parked at their lines, no bank of the C space among
them is locked, none is damaged, and none is of a rime entry still to be formed (R125, R157, R384, R387). -/
def LoadFree (s : State) (sp : Space) (ks : List Nat) : Prop :=
  s.behindParked ks = false ∧ (sp = .c → ∀ k ∈ ks, s.bankLocked s.iss.core (k % 2 ^ 22) = false) ∧ s.loadHurt s.iss.core ks = none
    ∧ ∀ k ∈ ks, s.unformed (k / 256) = none

/-- Nothing holds a store of these bytes (R157, R276). -/
def StoreFree (s : State) (sp : Space) (ks : List Nat) : Prop :=
  s.copyOutReads s.iss.core ks = false ∧ (sp = .c → ∀ k ∈ ks, s.bankLocked s.iss.core (k % 2 ^ 22) = false)

/-- Memory holds the bytes at the keys, and every other byte reads as before. -/
def Stored (s t : State) (ks : List Nat) (bs : List Byte) : Prop :=
  (∀ n, n < bs.length → Memory.read t.mem (ks.getD n 0) = bs.getD n 0) ∧ ∀ a, a ∉ ks → Memory.read t.mem a = Memory.read s.mem a

/-- The bytes of a register, low byte first. -/
def regBytes (n : Nat) (v : Word) : List Byte := (List.range n).map fun i => v.extractLsb' (8 * i) 8

/-- What AMO, CAS, CASC and AMOCT write on w bytes that hold `old`, if they write (R208). -/
def atomicWrites (o : AOp) (w old b c : Nat) : Option Nat :=
  let signed (n : Nat) : Int := (BitVec.ofNat (8 * w) n).toInt
  let amo (op : Nat) : Nat :=
    match op with
    | 0 => (old + b) % 2 ^ (8 * w)
    | 1 => Nat.land old b
    | 2 => Nat.lor old b
    | 3 => Nat.xor old b
    | 4 => if signed old ≤ signed b then old else b
    | 5 => if signed b ≤ signed old then old else b
    | 6 => min old b
    | 7 => max old b
    | _ => b
  match o with
  | .amo op => some (amo op)
  | .cas | .casc => if old = b then some c else none
  | .amoct op _ => some (amo op)
  | .fred _ _ => none

/-- Whether the continuation of an atomic is applied (R208): AMO's always, CASC's where it has written, AMOCT's where the new value meets
its condition with the third operand. -/
def atomicFires (o : AOp) (w old b c : Nat) : Bool :=
  match o with
  | .amo _ => true
  | .cas => false
  | .casc => decide (old = b)
  | .amoct _ cc =>
    let n := (atomicWrites o w old b c).getD 0
    condition (BitVec.ofNat 3 cc) (if cc = 2 ∨ cc = 3 then BitVec.ofInt 64 (BitVec.ofNat (8 * w) n).toInt else BitVec.ofNat 64 n)
      (if cc = 2 ∨ cc = 3 then BitVec.ofInt 64 (BitVec.ofNat (8 * w) c).toInt else BitVec.ofNat 64 c)
  | .fred _ _ => false

/-- An atomic that its region permits is on its way: to its home slice, or for the host's memory to the host, after which the phase cannot
be run again (R158, R160, R369). -/
def State.requested (s : State) (r : Req) : State :=
  if r.tgt.cls = 3 then { s with hostOut := s.hostOut ++ [HostOp.atomic r] }.sealPhase s.iss.org else { s with reqs := s.reqs ++ [r] }

/-- The register fields of the task-writable control registers that take writes; RIMEINJ has a rule of its own (R66, R70, R101, R135,
R137). -/
def csrMask (n : Nat) : Option Word :=
  match n with
  | 0x022 => some (BitVec.allOnes 64)
  | 0x030 | 0x031 | 0x035 | 0x060 => some 0xFFFFFFFF
  | 0x032 => some 0x0000FFFF00000007
  | 0x033 => some 0x1F
  | 0x051 => some 0x03FF003F
  | _ => none

/-- Nothing but registers of core c, its task-writable control registers and its lane generators is changed. -/
def OnlyRegsCsrs (c : Nat) (s t : State) : Prop :=
  { t with cores := s.cores } = s ∧ (∀ k, k ≠ c → t.core k = s.core k)
    ∧ { t.core c with regs := s.regs c, csrs := (s.core c).csrs, lfsr := (s.core c).lfsr } = s.core c ∧ SameMem s t

/-! Table operations. -/

/-- The lanes of a result have landed where a table operation of the group in issue puts them (R56, R229): in the enabled lanes of its
destination register, unless that write is suppressed, and of the latch that captures them; every other register and latch is as before. -/
def LanesLand (e : Entry) (f : Nat → Lane) (s t : State) : Prop :=
  let c := s.iss.core
  let g := s.grp
  let d := e.dest.toNat
  let n := e.latch.toNat
  (∀ l, l < 32 → laneOf ((t.regs c).getV g d) l = if quiet e = false ∧ s.on e g l = true then f l else laneOf ((s.regs c).getV g d) l)
    ∧ (∀ h m, h * 64 + m ≠ g * 64 + d → (t.regs c).getV h m = (s.regs c).getV h m)
    ∧ { t.regs c with v := (s.regs c).v } = s.regs c
    ∧ (∀ l, l < 32 → laneOf ((t.core c).latch g n).lanes l = if e.capv = 1 ∧ s.on e g l = true then f l else laneOf ((s.core c).latch g n).lanes l)
    ∧ ((t.core c).latch g n).landed = (e.capv == 1 || ((s.core c).latch g n).landed)
    ∧ ∀ h m, h * 8 + m ≠ g * 8 + n → (t.core c).latch h m = (s.core c).latch h m

/-- The bits of a mask result have landed (R62, R229): in the enabled lanes of the destination mask, q0 taking none, and as all ones or all
zeros in the latch; every other register and latch is as before. -/
def MaskLands (e : Entry) (f : Nat → Bool) (s t : State) : Prop :=
  let c := s.iss.core
  let g := s.grp
  let d := e.dest.toNat - 64
  let n := e.latch.toNat
  (∀ l, l < 32 → ((t.regs c).getQ g d).getLsbD l =
      if d ≠ 0 ∧ quiet e = false ∧ s.on e g l = true then f l else ((s.regs c).getQ g d).getLsbD l)
    ∧ (∀ h m, h * 8 + m ≠ g * 8 + d → (t.regs c).getQ h m = (s.regs c).getQ h m)
    ∧ { t.regs c with q := (s.regs c).q } = s.regs c
    ∧ (∀ l, l < 32 → laneOf ((t.core c).latch g n).lanes l =
        if e.capv = 1 ∧ s.on e g l = true then (if f l then 0xFFFFFFFF else 0) else laneOf ((s.core c).latch g n).lanes l)
    ∧ ((t.core c).latch g n).landed = (e.capv == 1 || ((s.core c).latch g n).landed)
    ∧ ∀ h m, h * 8 + m ≠ g * 8 + n → (t.core c).latch h m = (s.core c).latch h m

/-- Nothing but registers and latches of the issuing core is changed, and its NANCNT by a count that saturates (R100). -/
def OnlyGroup (nans : Nat) (s t : State) : Prop :=
  let c := s.iss.core
  { t with cores := s.cores } = s ∧ (∀ k, k ≠ c → t.core k = s.core k)
    ∧ { t.core c with regs := s.regs c, latches := (s.core c).latches, csrs := (s.core c).csrs } = s.core c
    ∧ (t.core c).csrs = { (s.core c).csrs with
        nancnt := if nans = 0 then (s.core c).csrs.nancnt else BitVec.ofNat 64 (min ((s.core c).csrs.nancnt.toNat + nans) (2 ^ 32 - 1)) }

/-- A floating table operation (R231): opcode, sources read, entry, and its exact value with the products that NANZ counts. -/
def floatTable (i : Instr) : Option (Nat × Nat × Entry × FOp) :=
  match i with
  | .vadd e => some (0x001, 2, e, fun _ m a b _ => (a.add m b, 0))
  | .vsub e => some (0x002, 2, e, fun _ m a b _ => (a.add m b.opp, 0))
  | .vmul e => some (0x003, 2, e, fun z _ a b _ => nanzMul z a b)
  | .vfma e => some (0x004, 3, e, fun z m a b c => ((nanzMul z a b).1.add m c, (nanzMul z a b).2))
  | .vfms e => some (0x005, 3, e, fun z m a b c => ((nanzMul z a b).1.add m c.opp, (nanzMul z a b).2))
  | .vfnma e => some (0x006, 3, e, fun z m a b c => (c.add m (nanzMul z a b).1.opp, (nanzMul z a b).2))
  | .vmin e => some (0x007, 2, e, fun _ _ a b _ => (a.min2 b, 0))
  | .vmax e => some (0x008, 2, e, fun _ _ a b _ => (a.max2 b, 0))
  | .vabs e => some (0x009, 1, e, fun _ _ a _ _ => (a.abs, 0))
  | .vneg e => some (0x00A, 1, e, fun _ _ a _ _ => (a.opp, 0))
  | .vcpys e => some (0x00B, 2, e, fun _ _ a b _ => (if b.neg then a.abs.opp else a.abs, 0))
  | .vrcp e => some (0x00C, 1, e, fun _ _ a _ _ => ((FVal.fin false 1 0).div a, 0))
  | .vrsq e => some (0x00D, 1, e, fun _ _ a _ _ => (a.rsqrt, 0))
  | .vsqrt e => some (0x00E, 1, e, fun _ _ a _ _ => (a.sqrt, 0))
  | .vdiv e => some (0x00F, 2, e, fun _ _ a b _ => (a.div b, 0))
  | .vrndi e => some (0x016, 1, e, fun _ m a _ _ => (match a.toInt m with | some i => FVal.fin a.neg i.natAbs 0 | none => a, 0))
  | _ => none

/-- Element k of sources A, B and C of an entry in a lane of the group in issue (R104, R228). -/
def State.elems (s : State) (e : Entry) (l k : Nat) : Nat × Nat × Nat :=
  let w := tyWidth e.ty.toNat
  (elemAt w (s.va e l) k, elemAt w (s.vb e l) k, elemAt w (s.vc e l) k)

/-- An integer table operation (R234, R235): opcode, entry, and the number of which a result element keeps the low bits. -/
def intTable (i : Instr) : Option (Nat × Entry × (Nat → Nat → Nat → Int)) :=
  let typed (e : Entry) (a : Nat) : Int := tyInt e.ty.toNat a
  let two (e : Entry) : Int := (2 ^ tyWidth e.ty.toNat : Nat)
  let sh (e : Entry) (b : Nat) : Int := (2 ^ (b % tyWidth e.ty.toNat) : Nat)
  match i with
  | .viadd e => some (0x100, e, fun a b _ => (a : Int) + b)
  | .visub e => some (0x101, e, fun a b _ => (a : Int) - b)
  | .vimul e => some (0x102, e, fun a b _ => (a : Int) * b)
  | .vimulh e => some (0x103, e, fun a b _ => typed e a * typed e b / two e)
  | .vimad e => some (0x104, e, fun a b c => (a : Int) * b + c)
  | .vshl e => some (0x108, e, fun a b _ => (a : Int) * sh e b)
  | .vshr e => some (0x109, e, fun a b _ => (a : Int) / sh e b)
  | .vsra e => some (0x10A, e, fun a b _ => typed e a / sh e b)
  | .vimin e => some (0x10B, e, fun a b _ => min (typed e a) (typed e b))
  | .vimax e => some (0x10C, e, fun a b _ => max (typed e a) (typed e b))
  | .viabs e => some (0x112, e, fun a _ _ => ((signedOf (tyWidth e.ty.toNat) a).natAbs : Int))
  | .vsat e => some (0x113, e, fun a b _ =>
      let r := if e.fn = 1 then typed e a - typed e b else typed e a + typed e b
      if tySigned e.ty.toNat then max (-(two e / 2)) (min (two e / 2 - 1) r) else max 0 (min (two e - 1) r))
  | _ => none

/-- A table operation on whole lanes (R234, R235, R242, R245): opcode, entry and the lanes of its result. -/
def laneTable (i : Instr) (s : State) : Option (Nat × Entry × (Nat → Lane)) :=
  let byte (x : Lane) (n : Nat) : BitVec 8 := x.extractLsb' (8 * n) 8
  let half (x : Lane) (n : Nat) : BitVec 16 := x.extractLsb' (16 * n) 16
  match i with
  | .vand e => some (0x105, e, fun l => s.va e l &&& s.vb e l)
  | .vor e => some (0x106, e, fun l => s.va e l ||| s.vb e l)
  | .vxor e => some (0x107, e, fun l => s.va e l ^^^ s.vb e l)
  | .vsel e => some (0x10E, e, fun l => if (s.iss.src.regs.getQ s.grp e.fn.toNat).getLsbD l then s.va e l else s.vb e l)
  | .vpopc e => some (0x10F, e, fun l => BitVec.ofNat 32 ((List.range 32).filter (s.va e l).getLsbD).length)
  | .vclz e => some (0x110, e, fun l => BitVec.ofNat 32 (((List.range 32).find? fun n => (s.va e l).getLsbD (31 - n)).getD 32))
  | .vbfx e => some (0x111, e, fun l =>
      let b := (s.vb e l).toNat
      let n := b / 2 ^ 8 % 32 + 1
      let f := s.va e l >>> (b % 32)
      if e.fn = 1 then (f.setWidth n).signExtend 32 else (f.setWidth n).setWidth 32)
  | .vmov e => some (0x114, e, s.va e)
  | .vlane e => some (0x115, e, fun l => s.va e l + BitVec.ofNat 32 l * s.vb e l)
  | .vgrp e => some (0x116, e, fun l => s.va e l + BitVec.ofNat 32 s.grp * s.vb e l)
  | .vqcnt e => some (0x118, e, fun _ => BitVec.ofNat 32 ((List.range 32).filter (s.iss.src.regs.getQ s.grp e.sa.toNat).getLsbD).length)
  | .vnbr e => some (0x280, e, laneOf (s.iss.src.regs.getV ((s.grp + e.fn.toNat) % 16) e.sa.toNat))
  | .vperm e => some (0x281, e, fun l => s.va e ((s.vb e l).toNat % 32))
  | .vbcl e => some (0x282, e, fun _ => s.va e ((s.vb e 0).toNat % 32))
  | .vgbc e => some (0x287, e, laneOf (s.iss.src.regs.getV e.fn.toNat e.sa.toNat))
  | .vpack e => some (0x301, e, fun l =>
      let a := s.va e l
      let b := s.vb e l
      match e.fn.toNat with
      | 0 => half b 0 ++ half a 0
      | 1 => half b 1 ++ half a 1
      | 2 => byte b 2 ++ byte b 0 ++ byte a 2 ++ byte a 0
      | _ => byte b 3 ++ byte b 1 ++ byte a 3 ++ byte a 1)
  | .vunpk e => some (0x302, e, fun l =>
      let fn := e.fn.toNat
      let a := s.va e l
      if fn ≥ 8 then (if fn % 2 = 1 then (byte a (fn / 2 % 4)).signExtend 32 else (byte a (fn / 2 % 4)).setWidth 32)
      else if fn % 2 = 1 then (half a (fn / 2 % 2)).signExtend 32 else (half a (fn / 2 % 2)).setWidth 32)
  | _ => none

/-- A table operation whose result is a mask (R168, R169, R234): opcode, entry and the bits of its result. -/
def maskTable (i : Instr) (s : State) : Option (Nat × Entry × (Nat → Bool)) :=
  match i with
  | .vicmp e => some (0x10D, e, fun l =>
      let a := s.va e l
      let b := s.vb e l
      match e.fn.toNat with
      | 0 => decide (a = b)
      | 1 => decide (a ≠ b)
      | 2 => decide (a.toInt < b.toInt)
      | 3 => decide (a.toInt ≤ b.toInt)
      | 4 => decide (a.toNat < b.toNat)
      | _ => decide (a.toNat ≤ b.toNat))
  | .vqlog e => some (0x117, e, fun l =>
      let q (n : BitVec 7) : Bool := (s.iss.src.regs.getQ s.grp n.toNat).getLsbD l
      e.fn.getLsbD ((if q e.sa then 2 else 0) + (if q e.sb then 1 else 0)))
  | _ => none

/-- The byte of memory key a after the lanes of a list, in their order, have each written four bytes at a key: the last one stands. -/
def lastWrite (ls : List (Nat × Lane)) (a : Nat) (old : Byte) : Byte :=
  ls.foldl (fun b p => if p.1 ≤ a ∧ a < p.1 + 4 then p.2.extractLsb' (8 * (a - p.1)) 8 else b) old

/-- Nothing but registers and latches of the issuing core, its logical time and that of lines, and what its phase notes, is changed. -/
def OnlyLoaded (s t : State) : Prop :=
  let c := s.iss.core
  { t with cores := s.cores, lineTimes := s.lineTimes } = s ∧ (∀ k, k ≠ c → t.core k = s.core k)
    ∧ { t.core c with regs := s.regs c, latches := (s.core c).latches, phase := (s.core c).phase, ltime := (s.core c).ltime } = s.core c

end Sys2Proof.Machine
end

