-- ==== Sys2Proof/Certificates/Slice0/Obligations.lean ====
section
/-! DEFINITION. The statements for the provers: what the spec's rules say of the module, in terms of the model. -/
open Sys2Proof Sys2Proof.Machine

/-! Reset, decoding, the step. -/

/-- The state after reset holds every value that the spec gives for module reset (R57, R62, R302, R305, R317), and its counters are within
their widths; memory lists nothing and is in its canonical form, and every core has its two banks. That memory lists nothing, so
that each byte reads zero, is the model's choice (log 4). -/
def Obligations.ResetState : Prop := ResetValues State.reset ∧ Counters State.reset ∧ State.reset.mem = [] ∧ Inv State.reset

/-- MODULE_RESET gives every such value from any state; that memory and FRAME, of which the spec says nothing there, stay
is the model's choice (log 13). -/
def Obligations.ModuleReset : Prop := ∀ s : State, ∃ t, exec .moduleReset s = .next t ∧ ResetValues t ∧ SameMem s t ∧ t.frame = s.frame

/-- Decoding the bundle that an encoder makes of a well-formed instruction of an issue slot gives the instruction back, whatever its
fields (R163 to R179). -/
def Obligations.DecodeEncode : Prop :=
  ∀ (i : Instr) (w : BundleWord), wellFormed i = true → encode i = some w → ∃ b, decodeBundle w = .ok b ∧ b.single = some i

/-- Decoding the 128 bits of a table operation gives it back (R174, R176). -/
def Obligations.EntryRoundTrip : Prop := ∀ (i : Instr) (w : Quad), encodeTable i = some w → decodeEntry w = some i

/-- Words written out from the spec's encodings decode to the instructions that they stand for (R166 to R179). -/
def Obligations.SampleWords : Prop :=
  decodeC 0x2014520000001000 = .ok (.addi 2 5 5 64) ∧ decodeC 0x273000048D15A000 = .ok (.li 0 12 0x12345680)
    ∧ decodeC 0x8328824B03004000 = .ok (.amoct 0 10 8 9 11 12 0 0 1) ∧ decodeC 0xC400900000000123 = .ok (.trap 0 9 0x123)
    ∧ decodeC 0xA600000000000201 = .ok (.xfence 0 1 2 0) ∧ decodeV 0x100904800400 = .ok (.vix 0 64 9 1 2 16)
    ∧ decodeM 0x21102803004E0000 = .ok (.mma ⟨0, 2, 64, 320, 3, 0, 1, 3, 1⟩)
    ∧ decodeX 0x0545565CC0430000 = .ok (.xcopy ⟨0, 20, 21, 22, 23, 12, 0, 1, 3⟩)
    ∧ decodeEntry ((0x01110F302083A000 : BitVec 64) ++ (0 : BitVec 64)) = some (.vfma ⟨2, 1, 7, 1, 1, 1, 1, 2, 7, 2, 0, 0, 0, 0, 0, 0, 0⟩)

/-- When the 32 bytes at a core's pc decode to one instruction, whose bundle nothing holds and before which nothing of the last bundle is left
to do, the core's turn runs exactly that instruction on the state in which the bundle issues, and then what follows a bundle: the pc moves
on, and time passes (R49, R51). That a turn is one bundle of one core is the model's choice (log 2). -/
def Obligations.StepRunsDecoded : Prop :=
  ∀ (s u : State) (c : Nat) (t : Target) (line : List Byte) (s' : State) (b : Bundle) (i : Instr),
    s.turn = .issue c → (s.core c).task.isSome = true → s.hub.fenced = false → s.lateOf c = none →
    ((s.core c).hold = .none ∨ (s.core c).hold = .filling ∨ (s.core c).hold = .swapped ∨ (s.core c).hold = .synced) →
    s.translate (s.core c).ctxid (s.core c).pc .fetch = .ok t →
    (s.enter c (s.core c).pc).fetchLine c t (s.core c).pc = (line, s') →
    decodeBundle (bundleOf line (s.core c).pc) = .ok b → b.single = some i →
    s'.blocked c [i] = false → exec i s' = .next u →
    step s = .next (u.afterBundle c).advance

/-- Every constructor of Instr, instruction or event, answers a next state in every state, and so does every step of the module: whatever it meets,
the machine goes on, by its effect, by a hold or by the exception that the spec describes (R199, R405). That one agent moves at a time is the model's choice
(log 2). -/
def Obligations.NeverStops : Prop := (∀ (i : Instr) (s : State), ∃ t, exec i s = .next t) ∧ ∀ s : State, ∃ t, step s = .next t

/-- After every step FRAME and the CYCLE of each die are 64-bit numbers and each core's logical time is a 48-bit number (R14, R66, R143),
and no bundle is left half issued; a step keeps memory in its canonical form, and in every core two banks of which one is active (R57,
R58). -/
def Obligations.InvariantsKept : Prop := ∀ s t : State, step s = .next t → Counters t ∧ (Inv s → Inv t)

/-! The control issue slot. -/

/-- An instruction whose guard is false does nothing, in every issue slot (R199); NOP, MNOP, XNOP and VNOP do nothing (R201, R231, R251). -/
def Obligations.GuardFalse : Prop :=
  (∀ (i : Instr) (g : Guard) (s : State), guardOf i = some g → s.guard g = false → exec i s = .next s)
  ∧ (∀ (s : State) (g : Guard) (e : Entry), exec .nop s = .next s ∧ exec (.mnop g) s = .next s ∧ exec (.xnop g) s = .next s ∧ exec (.vnop e) s = .next s)

/-- Each integer, logic and immediate instruction but BFI writes the value of R201 to R203 to its destination register, a write to s0 being
discarded, and nothing else; BFI writes len bits of its second source at the bit that its third source names, over its first source; CMP,
CMPI and PLOG write the outcome to their destination predicate, a write to p0 being discarded (R168). -/
def Obligations.ScalarResults : Prop :=
  ((∀ (i : Instr) (s : State) (g : Guard) (d : SReg) (v : Word), wellFormed i = true → scalarResult i s = some (g, d, v) → s.guard g = true →
    ∃ t, exec i s = .next t ∧ (t.regs s.iss.core).getS d.toNat = (if d = 0 then 0 else v) ∧ OnlyScalars s.iss.core [d.toNat] s t)
  ∧ (∀ (s : State) (g : Guard) (d a b c : SReg) (len : BitVec 7), len.toNat ≤ 64 → s.guard g = true →
    ∃ t, exec (.bfi g d a b c len) s = .next t ∧ OnlyScalars s.iss.core [d.toNat] s t
      ∧ (t.regs s.iss.core).getS 0 = 0
      ∧ (d ≠ 0 → ∀ i, i < 64 → ((t.regs s.iss.core).getS d.toNat).getLsbD i =
          (if (s.rd c).toNat % 64 ≤ i ∧ i < (s.rd c).toNat % 64 + len.toNat then (s.rd b).getLsbD (i - (s.rd c).toNat % 64) else (s.rd a).getLsbD i))))
  ∧ (∀ (i : Instr) (s : State) (g : Guard) (d : BitVec 3) (v : Bool), wellFormed i = true → predicateResult i s = some (g, d, v) → s.guard g = true →
    ∃ t, exec i s = .next t ∧ (t.regs s.iss.core).getP d.toNat = (d == 0 || v) ∧ OnlyPredicate s.iss.core d.toNat s t)

/-- s0 reads zero, p0 true and q0 all ones, whatever was written to them (R62). -/
def Obligations.HardWired : Prop :=
  ∀ (r : Regs) (g n : Nat) (w : Word) (p : Bool) (m : Lane),
    (r.setS 0 w).getS 0 = 0 ∧ (r.setP 0 p).getP 0 = true ∧ (r.setQ g 0 m).getQ g 0 = 0xFFFFFFFF
      ∧ (n ≠ 0 → (r.setS n w).getS n = w ∧ (r.setQ g n m).getQ g n = m) ∧ (n ≠ 0 → n < 8 → (r.setP n p).getP n = p)

/-- BR, BRP, BRZ, BRNZ and CALL: a taken branch changes the address of the next bundle to the bundle's own plus 32 times the offset, and
nothing else; an untaken one changes nothing; CALL also writes s63 with the address of the bundle after it (R204). -/
def Obligations.BranchTargets : Prop :=
  ∀ (s : State) (g cond : Guard) (a : SReg) (off : BitVec 32), s.guard g = true →
    let u : State := { s with iss := { s.iss with npc := BitVec.ofInt 64 (s.iss.a.toInt + 32 * off.toInt) } }
    exec (.br g off) s = .next u
      ∧ exec (.brp g cond off) s = .next (if s.guard cond then u else s)
      ∧ exec (.brz g a off) s = .next (if s.rd a = 0 then u else s)
      ∧ exec (.brnz g a off) s = .next (if s.rd a = 0 then s else u)
      ∧ ∃ t, exec (.call g off) s = .next { t with iss := u.iss } ∧ t.iss = s.iss ∧ OnlyScalars s.iss.core [63] s t
          ∧ (t.regs s.iss.core).getS 63 = s.iss.a + 32

/-- BRR, CALLR and RET jump to a register's address where it is a multiple of 32, CALLR writing s63 first read; else they take the
alignment fault of the control issue slot (R204, R412). -/
def Obligations.RegisterJumps : Prop :=
  ∀ (s : State) (g : Guard) (a : SReg) (off : BitVec 32), s.guard g = true →
    let go (s : State) (p : Word) : State := { s with iss := { s.iss with npc := p } }
    let fault (op : Nat) (p : Word) : State :=
      s.takeFault ⟨2, locCore 0 s.iss.core 0xFF, leBytes 1 1 ++ leBytes 1 op ++ leBytes 2 0 ++ leBytes 1 5, some p⟩
    let p := BitVec.ofInt 64 ((s.rd a).toInt + 32 * off.toInt)
    exec (.brr g a off) s = .next (if p.toNat % 32 = 0 then go s p else fault 0x44 p)
      ∧ exec (.ret g) s = .next (if (s.rd 63).toNat % 32 = 0 then go s (s.rd 63) else fault 0x47 (s.rd 63))
      ∧ (if (s.rd a).toNat % 32 = 0 then
          ∃ t, exec (.callr g a) s = .next (go t (s.rd a)) ∧ t.iss = s.iss ∧ OnlyScalars s.iss.core [63] s t
            ∧ (t.regs s.iss.core).getS 63 = s.iss.a + 32
        else exec (.callr g a) s = .next (fault 0x46 (s.rd a)))

/-- LOOP, LOOPI and LBRK: at the bottom of a loop the counter rises by one and the body runs again while it is below the limit, else the
counter returns to 0; LBRK returns it to 0 and leaves the loop (R205). -/
def Obligations.HardwareLoops : Prop :=
  ∀ (s : State) (g : Guard) (lc : BitVec 2) (a : SReg) (count : BitVec 18) (off : BitVec 32), s.guard g = true →
    let n := (s.iss.src.regs.getLc lc.toNat).toNat + 1
    let body := BitVec.ofInt 64 (s.iss.a.toInt + 32 * off.toInt)
    (∃ t, exec (.loop g lc a off) s = .next t ∧ OnlyLoop s.iss.core lc.toNat s t
        ∧ (if n < (s.rd a).toNat % 2 ^ 32 then (t.regs s.iss.core).getLc lc.toNat = BitVec.ofNat 32 n ∧ t.iss.npc = body
           else (t.regs s.iss.core).getLc lc.toNat = 0 ∧ t.iss.npc = s.iss.npc))
      ∧ (∃ t, exec (.loopi g lc count off) s = .next t ∧ OnlyLoop s.iss.core lc.toNat s t
        ∧ (if n < count.toNat then (t.regs s.iss.core).getLc lc.toNat = BitVec.ofNat 32 n ∧ t.iss.npc = body
           else (t.regs s.iss.core).getLc lc.toNat = 0 ∧ t.iss.npc = s.iss.npc))
      ∧ ∃ t, exec (.lbrk g lc off) s = .next t ∧ OnlyLoop s.iss.core lc.toNat s t
        ∧ (t.regs s.iss.core).getLc lc.toNat = 0 ∧ t.iss.npc = body

/-! Scalar memory. -/

/-- LD and LDP in the C, K and D spaces: the bytes at the effective address land at once in the destination registers, extended as the
size code says, and nothing else changes but what the phase notes; of an access that crosses the boundary of a 32-byte sector the bytes
before it are read, and the rest is left to be done, by a read after which all the bytes land (R144, R168, R206, R369). -/
def Obligations.OnChipLoads : Prop :=
  (∀ (s : State) (g : Guard) (d base : SReg) (size : BitVec 3) (space : BitVec 2) (off : BitVec 32) (ks : List Nat),
    s.guard g = true → space ≠ 0 →
    let c := s.iss.core
    let sp := cmSpace space.toNat
    let ea := effAddr s base off
    let bs := ks.map (s.loadByte c)
    let loads (i : Instr) (n : Nat) (dest : List SReg) (code : Nat) (landed : State → Prop) : Prop :=
      let h := firstHalf ea n
      s.spanKeys c s.iss.src.ctxid sp ea n .read = .ok ks → LoadFree s sp (ks.take h) →
      ∃ t, exec i s = .next t ∧ OnlyRegsNoted c s { t with lates := s.lates }
        ∧ (h = n → t.lates = s.lates ∧ OtherScalarsKept c (dest.map (·.toNat)) s t ∧ landed t)
        ∧ (h ≠ n → t.regs c = s.regs c ∧ t.lates = (s.defer (.load sp.code (ea + BitVec.ofNat 64 h) (ks.drop h) (bs.take h) dest code)).lates)
    (size ≠ 7 → loads (.ld g d base size space off) (sizeBytes size.toNat) [d] size.toNat fun t =>
        (t.regs c).getS d.toNat = if d = 0 then 0 else loadedValue size bs)
    ∧ (d ≠ 63 → loads (.ldp g d base space off) 16 [d, d + 1] 7 fun t =>
        (t.regs c).getS d.toNat = (if d = 0 then 0 else BitVec.ofNat 64 (leNat (bs.take 8)))
          ∧ (t.regs c).getS (d.toNat + 1) = BitVec.ofNat 64 (leNat (bs.drop 8))))
  ∧ (∀ (s : State) (space : BitVec 2) (ea : Word) (ks : List Nat) (got : List Byte) (d : SReg) (size : BitVec 3), space ≠ 0 →
    let c := s.iss.core
    let sp := cmSpace space.toNat
    let bs := got ++ ks.map (s.loadByte c)
    LoadFree s sp ks → (∀ k ∈ ks, 1 < keySpace k) →
    let lands (dest : List SReg) (code : Nat) (landed : State → Prop) : Prop :=
      ∃ t, s.actLate (.load sp.code ea ks got dest code) = .next t ∧ OnlyRegsNoted c s t ∧ OtherScalarsKept c (dest.map (·.toNat)) s t ∧ landed t
    (size ≠ 7 → bs.length = sizeBytes size.toNat → lands [d] size.toNat fun t =>
        (t.regs c).getS d.toNat = if d = 0 then 0 else loadedValue size bs)
    ∧ (d ≠ 63 → bs.length = 16 → lands [d, d + 1] 7 fun t =>
        (t.regs c).getS d.toNat = (if d = 0 then 0 else BitVec.ofNat 64 (leNat (bs.take 8)))
          ∧ (t.regs c).getS (d.toNat + 1) = BitVec.ofNat 64 (leNat (bs.drop 8))))

/-- LD and LDP in the G space: the value is on its way to the destination registers, which keep theirs until it returns (R50, R206); of an
access that crosses the boundary of a 32-byte sector the bytes before it are read first (R144); in another module's memory a request is sent
(R334). LOAD_RETURN: a value on its way lands in the scalar registers that await it, and nothing else changes (R200). -/
def Obligations.GlobalLoads : Prop :=
  (∀ (s : State) (g : Guard) (d base : SReg) (size : BitVec 3) (off : BitVec 32) (ks : List Nat), s.guard g = true →
    let c := s.iss.core
    let ea := effAddr s base off
    let bs := ks.map (s.loadByte c)
    let loads (i : Instr) (n : Nat) (dest : List SReg) (code : Nat) (w : List (SReg × Word)) : Prop :=
      let h := firstHalf ea n
      s.spanKeys c s.iss.src.ctxid .g ea n .read = .ok ks →
      match s.remoteAt .g ea n .read with
      | some u => exec i s = .next (s.remoteLoad u ea n dest code none s.iss.org (s.ownBytes c ks))
      | none => LoadFree s .g (ks.take h) → ∃ t, exec i s = .next t
          ∧ { t with cores := s.cores, rets := s.rets, lineTimes := s.lineTimes, dies := s.dies, lates := s.lates } = s
          ∧ (h = n → t.lates = s.lates ∧ t.rets = s.rets ++ [⟨c, w⟩])
          ∧ (h ≠ n → t.rets = s.rets ∧ t.lates = (s.defer (.load 0 (ea + BitVec.ofNat 64 h) (ks.drop h) (bs.take h) dest code)).lates)
          ∧ (∀ k, k ≠ c → t.core k = s.core k) ∧ (∀ e, t.die e = { s.die e with l2 := (t.die e).l2 })
          ∧ { t.core c with phase := (s.core c).phase, ltime := (s.core c).ltime } = s.core c
    (size ≠ 7 → loads (.ld g d base size 0 off) (sizeBytes size.toNat) [d] size.toNat [(d, loadedValue size bs)])
    ∧ (d ≠ 63 → loads (.ldp g d base 0 off) 16 [d, d + 1] 7
        [(d, BitVec.ofNat 64 (leNat (bs.take 8))), (d + 1, BitVec.ofNat 64 (leNat (bs.drop 8)))]))
  ∧ (∀ (s : State) (n : Nat) (r : Ret), s.rets[n]? = some r →
    ∃ t, exec (.loadReturn n) s = .next t ∧ t.rets = s.rets.eraseIdx n ∧ OnlyRegs r.core { s with rets := t.rets } t
      ∧ OtherScalarsKept r.core (r.writes.map fun p => p.1.toNat) s t
      ∧ ∀ d v, r.writes = [(d, v)] → (t.regs r.core).getS d.toNat = (if d = 0 then 0 else v))

/-- ST and STP in the C, K and D spaces: the bytes of the source registers are in memory at the effective address at once, every other
byte is as before, and no register changes; of an access that crosses the boundary of a 32-byte sector the bytes before it are stored, and the
rest is left to be done, by a store of them (R144, R206, R369). -/
def Obligations.OnChipStores : Prop :=
  (∀ (s : State) (g : Guard) (v base : SReg) (size : BitVec 3) (space : BitVec 2) (off : BitVec 32) (ks : List Nat),
    s.guard g = true → space ≠ 0 →
    let c := s.iss.core
    let sp := cmSpace space.toNat
    let ea := effAddr s base off
    let stores (i : Instr) (bs : List Byte) : Prop :=
      let h := firstHalf ea bs.length
      s.spanKeys c s.iss.src.ctxid sp ea bs.length .write = .ok ks → StoreFree s sp ks →
      ∃ t, exec i s = .next t ∧ OnlyStored c s { t with lates := s.lates } ∧ Stored s t (ks.take h) (bs.take h)
        ∧ t.lates = if h = bs.length then s.lates else (s.defer (.store sp.code (ks.drop h) (bs.drop h))).lates
    (size.getLsbD 0 = false → stores (.st g v base size space off) (regBytes (sizeBytes size.toNat) (s.rd v)))
    ∧ (v ≠ 63 → stores (.stp g v base space off) (regBytes 8 (s.rd v) ++ regBytes 8 (s.rd (v + 1)))))
  ∧ (∀ (s : State) (space : BitVec 2) (ks : List Nat) (bs : List Byte), space ≠ 0 → ks.length = bs.length → ks.Nodup →
    let sp := cmSpace space.toNat
    StoreFree s sp ks → ∃ t, s.actLate (.store sp.code ks bs) = .next t ∧ OnlyStored s.iss.core s t ∧ Stored s t ks bs)

/-- ST and STP in the G space enter the store gate, one entry for each 32-byte sector they touch; memory and every register are as before
(R41, R206). -/
def Obligations.GatedStores : Prop :=
  ∀ (s : State) (g : Guard) (v base : SReg) (size : BitVec 3) (off : BitVec 32) (ks : List Nat), s.guard g = true →
    let c := s.iss.core
    let ea := effAddr s base off
    let gated (t : State) (bs : List Byte) : Prop :=
      t = s.modCore c (fun k => { k with gate := (t.core c).gate }) ∧ (s.core c).gate <+: (t.core c).gate
        ∧ let new := (t.core c).gate.drop (s.core c).gate.length
          new.flatMap (·.bytes) = bs ∧ (new.head?.map (·.va)) = some ea
            ∧ ∀ e ∈ new, e.va.toNat / 32 = (e.va.toNat + e.bytes.length - 1) / 32 ∧ e.org = s.iss.org ∧ e.joined = false
                ∧ s.translate s.iss.src.ctxid e.va .write = .ok e.tgt
    (size.getLsbD 0 = false → s.spanKeys c s.iss.src.ctxid .g ea (sizeBytes size.toNat) .write = .ok ks → s.copyOutReads c ks = false →
      (sectors ea.toNat (regBytes (sizeBytes size.toNat) (s.rd v))).length ≤ (s.core c).gateFree →
      ∃ t, exec (.st g v base size 0 off) s = .next t ∧ gated t (regBytes (sizeBytes size.toNat) (s.rd v)))
    ∧ (v ≠ 63 → s.spanKeys c s.iss.src.ctxid .g ea 16 .write = .ok ks → s.copyOutReads c ks = false →
      (sectors ea.toNat (regBytes 8 (s.rd v) ++ regBytes 8 (s.rd (v + 1)))).length ≤ (s.core c).gateFree →
      ∃ t, exec (.stp g v base 0 off) s = .next t ∧ gated t (regBytes 8 (s.rd v) ++ regBytes 8 (s.rd (v + 1))))

/-- A scalar access whose first byte is out of map, or out of its space, takes the out-of-map fault with its address and reason (R206, R379,
R380); an atomic with a refused word, a misaligned address or a region that does not permit it takes the exception that the spec names, in
that order, and is not sent (R208, R389, R408, R412). -/
def Obligations.AccessFaults : Prop :=
  (∀ (s : State) (g : Guard) (d base : SReg) (size : BitVec 3) (space : BitVec 2) (off : BitVec 32) (r : Nat) (a : Word), s.guard g = true →
    let sp := cmSpace space.toNat
    let ea := effAddr s base off
    let fault (kind : Nat) : FaultInfo := mapFault (locCore 0 s.iss.core 0xFF) kind r 0 0 0 a
    (s.spanKeys s.iss.core s.iss.src.ctxid sp ea (sizeBytes size.toNat) .read = .error (r, a) →
      exec (.ld g d base size space off) s = .next (s.takeFault (fault 0)))
    ∧ (s.spanKeys s.iss.core s.iss.src.ctxid sp ea (sizeBytes size.toNat) .write = .error (r, a) →
      exec (.st g d base size space off) s = .next (s.takeFault (fault 1))))
  ∧ (∀ (s : State) (g : Guard) (d addr b c k : SReg) (cc : BitVec 3) (op : BitVec 4) (w : BitVec 1) (t : Target), s.guard g = true →
    let n := if w = 1 then 8 else 4
    let i : Instr := .amoct g d addr b c k op cc w
    (∀ e, contBad (s.rd k) = some e → exec i s = .next (s.wordFault 1 (s.rd k) e))
      ∧ (contBad (s.rd k) = none → (s.rd addr).toNat % n ≠ 0 →
          exec i s = .next (s.takeFault ⟨2, locCore 0 s.iss.core 0xFF, leBytes 1 1 ++ leBytes 1 0x83 ++ leBytes 2 0 ++ leBytes 1 (if w = 1 then 3 else 2), some (s.rd addr)⟩))
      ∧ (contBad (s.rd k) = none → (s.rd addr).toNat % n = 0 → s.translate s.iss.src.ctxid (s.rd addr) .atomic = .ok t →
          (t.cls = 0 ∨ t.cls = 1) → t.ms = false →
          exec i s = .next (s.takeFault ⟨0x11, locCore 0 s.iss.core 0xFF, leBytes 1 0 ++ leBytes 1 0 ++ leBytes 1 0x83, some (s.rd addr)⟩)))

/-! Atomics. -/

/-- AMO, CAS, CASC, AMOCT and FRED, aligned, with a good word and in a region that permits them: one request with the operands' low bytes
is on its way, and nothing else changes (R208, R210, R389). -/
def Obligations.AtomicsRequested : Prop :=
  ∀ (s : State) (g : Guard) (d addr b c k : SReg) (op : BitVec 4) (cc fmt : BitVec 3) (w : BitVec 1) (t : Target), s.guard g = true →
    let n := if w = 1 then 8 else 4
    let m := if fmt = 0 then 4 else if fmt = 1 ∨ fmt = 2 then 2 else 1
    let low (r : SReg) : Nat := (s.rd r).toNat % 2 ^ (8 * n)
    let dest := Dest.sreg s.iss.core d
    let r (o : AOp) (n b c : Nat) (k : Word) (x : Dest) : Req := ⟨o, s.rd addr, t, n, b, c, k, x, s.iss.org, false⟩
    s.translate s.iss.src.ctxid (s.rd addr) .atomic = .ok t →
    ((s.rd addr).toNat % n = 0 →
      (contBad (s.rd k) = none → atomicReason t (.amo op.toNat) = none →
        exec (.amo g d addr b k op w) s = .next (s.requested (r (.amo op.toNat) n (low b) 0 (s.rd k) dest)))
      ∧ (atomicReason t .cas = none → exec (.cas g d addr b c w) s = .next (s.requested (r .cas n (low b) (low c) 0 dest)))
      ∧ (contBad (s.rd k) = none → atomicReason t .casc = none →
        exec (.casc g d addr b c k w) s = .next (s.requested (r .casc n (low b) (low c) (s.rd k) dest)))
      ∧ (contBad (s.rd k) = none → atomicReason t (.amoct op.toNat cc.toNat) = none →
        exec (.amoct g d addr b c k op cc w) s = .next (s.requested (r (.amoct op.toNat cc.toNat) n (low b) (low c) (s.rd k) dest))))
    ∧ ((s.rd addr).toNat % m = 0 → contBad (s.rd k) = none → atomicReason t (.fred op.toNat fmt.toNat) = none →
        exec (.fred g addr b k op fmt) s = .next (s.requested (r (.fred op.toNat fmt.toNat) m (s.rd b).toNat 0 (s.rd k) .none)))

/-- ATOMIC_AT_HOME_SLICE: the oldest request of its core, at a line that is not damaged and waits for nothing, reads and writes its bytes
once; the old value is on its way back, and the continuation, if it is applied, in the outbound queue of the slice (R155, R158, R208, R273);
a request with a continuation waits at its slice while that queue is full (R156). -/
def Obligations.AtomicPerformed : Prop :=
  ∀ (s : State) (n : Nat) (r : Req) (rest : List Req) (core : Nat) (d : SReg), s.readyReq n false = some (r, rest) →
    (r.tgt.cls = 0 ∨ r.tgt.cls = 1) → r.tgt.rc = false → (r.w = 4 ∨ r.w = 8) → r.b < 2 ^ (8 * r.w) → r.c < 2 ^ (8 * r.w) →
    (∀ op cc, r.op = .amoct op cc → cc < 8) → r.dest = .sreg core d → s.lineBad r.tgt.key = false → s.behindParked [r.tgt.key] = false →
    let old := s.num r.tgt.key r.w
    let ks := (List.range r.w).map (r.tgt.key + ·)
    let full := contKind r.k ≠ 0 ∧ s.outboundFull (sliceNo r.tgt.key) = true
    (full → exec (.atomicAtHomeSlice n) s = .next s)
    ∧ (¬full → (∀ k ∈ ks, s.unformed (k / 256) = none) → ∃ t, exec (.atomicAtHomeSlice n) s = .next t ∧ t.reqs = rest
      ∧ t.rets = s.rets ++ [⟨core, [(d, BitVec.ofNat 64 old)]⟩]
      ∧ t.conts = (if atomicFires r.op r.w old r.b r.c ∧ contKind r.k ≠ 0 then
          s.conts ++ [⟨.tdec r.k (BitVec.ofNat 64 old), 0, r.org, some (sliceNo r.tgt.key), (13, r.tgt.key)⟩] else s.conts)
      ∧ (match atomicWrites r.op r.w old r.b r.c with
         | some v => Stored s t ks (leBytes r.w v)
         | none => SameMem s t)
      ∧ (∀ k, t.regs k = s.regs k))

/-- FRED_APPLY: the oldest request of its core, at a line that is not damaged and waits for nothing, takes its place in the memory order:
the FP32 value of the element (its shadow, or the element widened) goes through the operation and one RNE rounding, memory holds it
rounded to the element's format, the shadow of an element narrower than FP32 holds it whole, and the continuation is sent, unless the
outbound queue of the slice has no room for it (R155, R156, R159, R210). -/
def Obligations.FredPerformed : Prop :=
  ∀ (s : State) (n : Nat) (r : Req) (rest : List Req) (op fmt : Nat), s.readyReq n true = some (r, rest) → r.op = .fred op fmt → fmt < 5 →
    (r.tgt.cls = 0 ∨ r.tgt.cls = 1) → r.tgt.rc = false → r.w = fredBytes fmt → s.lineBad r.tgt.key = false → s.behindParked [r.tgt.key] = false →
    let key := r.tgt.key
    let full := contKind r.k ≠ 0 ∧ s.outboundFull (sliceNo key) = true
    let own (x : Shadow) : Bool := x.key == key && x.fmt == fmt
    let cur := match s.shadows.find? own with
      | some x => x.val.toNat
      | none => roundF 0 .rne false (decodeF fmt (s.num key r.w))
    let new := fredValue op cur (r.b % 2 ^ 32)
    (full → exec (.fredApply n) s = .next s)
    ∧ (¬full → (∀ n, n < r.w → s.unformed ((key + n) / 256) = none) → ∃ t, exec (.fredApply n) s = .next t ∧ t.reqs = rest
      ∧ Stored s t ((List.range r.w).map (key + ·)) (leBytes r.w (roundF fmt .rne true (decodeF 0 new)))
      ∧ (fmt ≠ 0 → t.shadows.find? own = some ⟨key, fmt, BitVec.ofNat 32 new⟩)
      ∧ t.conts = (if contKind r.k ≠ 0 then
          s.conts ++ [⟨.tdec r.k (BitVec.ofNat 64 (r.b % 2 ^ 32)), 0, r.org, some (sliceNo key), (13, key)⟩] else s.conts)
      ∧ (∀ k, t.regs k = s.regs k))

/-! Sends, phases, fences. -/

/-- TSPAWN, TARM, TDEC and PUBLISH hold their send until the phase commits, and do nothing else; TDEC of KIND 0 sends nothing (R153, R211,
R212, R218). TDEC of a refused word, and PUBLISH of an address that is misaligned, out of map or not in class 3, fault (R408, R412). -/
def Obligations.Sends : Prop :=
  (∀ (s : State) (g : Guard) (a b : SReg) (t : Target), s.guard g = true →
    let held (x : Send) : State := s.modCore s.iss.core fun k => { k with held := k.held ++ [x] }
    exec (.tspawn g a) s = .next (held (.tspawn (s.rd a)))
      ∧ exec (.tarm g a b) s = .next (held (.tarm (s.rd a) (s.rd b)))
      ∧ (contBad (s.rd a) = none → exec (.tdec g a b) s = .next (if contKind (s.rd a) = 0 then s else held (.tdec (s.rd a) (s.rd b))))
      ∧ ((s.rd a).toNat % 8 = 0 → s.translate s.iss.src.ctxid (s.rd a) .write = .ok t → t.cls = 3 →
          exec (.publish g a b) s = .next (held (.publish (s.rd a) (s.rd b)))))
  ∧ (∀ (s : State) (g : Guard) (a b : SReg) (e : Nat) (t : Target), s.guard g = true →
    let map (r : Nat) : State := s.takeFault (mapFault (locCore 0 s.iss.core 0xFF) 1 r 0 0 0 (s.rd a))
    (contBad (s.rd a) = some e → exec (.tdec g a b) s = .next (s.wordFault 1 (s.rd a) e))
      ∧ ((s.rd a).toNat % 8 ≠ 0 → exec (.publish g a b) s = .next (s.alignFault 0xA9 3 (s.rd a)))
      ∧ ((s.rd a).toNat % 8 = 0 → s.translate s.iss.src.ctxid (s.rd a) .write = .error e → exec (.publish g a b) s = .next (map e))
      ∧ ((s.rd a).toNat % 8 = 0 → s.translate s.iss.src.ctxid (s.rd a) .write = .ok t → t.cls ≠ 3 → exec (.publish g a b) s = .next (map 2)))

/-- FREEZE and TDONE: while results are outstanding the core is held; else the phase commits: the registers, control registers and
generators are shadowed with the next bundle's address, the gated stores and held sends are committed, every latch is empty, consumed
buffers are free, a new phase begins, and FREEZE goes on, or starts the save of a task asked to yield, while TDONE goes on to retire with
its value (R35, R42, R44, R213, R214). -/
def Obligations.PhaseEnds : Prop :=
  ∀ (s : State) (g : Guard) (a : SReg) (planes : BitVec 8), s.guard g = true →
    let c := s.iss.core
    (s.canFreeze c = false →
      exec (.freeze g a planes) s = .next (s.modCore c fun k => { k with hold := .freezing (s.rd a) planes })
        ∧ exec (.tdone g a) s = .next (s.modCore c fun k => { k with hold := .ending (s.rd a) }))
    ∧ (s.canFreeze c = true →
      let committed (t : State) (live : Nat) : Prop :=
        t.regs c = s.regs c ∧ (t.core c).csrs = (s.core c).csrs ∧ (∀ k, k ≠ c → t.core k = s.core k)
          ∧ (t.core c).shadow.regs = s.regs c ∧ (t.core c).shadow.csrs = (s.core c).csrs ∧ (t.core c).shadow.lfsr = (s.core c).lfsr
          ∧ (t.core c).shadow.pc = s.iss.npc
          ∧ (t.core c).shadow.refetch = (s.core c).bufs.filter (fun p => live.testBit p.1)
          ∧ (t.core c).releasing = (s.core c).gate ∧ (t.core c).gate = [] ∧ (t.core c).sending = (s.core c).held ∧ (t.core c).held = []
          ∧ (∀ n, ((t.core c).latches.get n ⟨false, []⟩).landed = false)
          ∧ (t.core c).phase.strikes = 0 ∧ (t.core c).phase.irrevocable = false ∧ (t.core c).phase.reads = [] ∧ (t.core c).phase.writes = []
          ∧ ((s.core c).forming = [] → SameMem s t)
      (∃ t, exec (.freeze g a planes) s = .next t ∧ committed t ((s.rd a).toNat % 2 ^ 16) ∧ (t.core c).shadow.planes = planes
          ∧ (t.core c).bufs = (s.core c).bufs.filter (fun p => !((s.rd a).toNat / 2 ^ 16 % 2 ^ 16).testBit p.1)
          ∧ (t.core c).hold = (if s.yields c then .saving else .none))
        ∧ ∃ t, exec (.tdone g a) s = .next t ∧ committed t 0 ∧ (t.core c).hold = .retiring (s.rd a))

/-- FENCE, and XFENCE with masks that name something, leave a fence that waits for every access and command of the paths before it that is
outstanding, and holds the paths after it; XFENCE with an empty mask does nothing (R149 to R151, R215). That FENCE does not wait for stores still in the gate
is the model's reading (log 46). -/
def Obligations.Fences : Prop :=
  ∀ (s : State) (g : Guard) (before after : BitVec 6) (scope : BitVec 3), s.guard g = true →
    let c := s.iss.core
    let fenced (t : State) (b a : BitVec 6) (system : Bool) : Prop :=
      ∃ f : FenceSt, t = s.modCore c (fun k => { k with fences := ((s.core c).fences.filter fun x => !s.fenceDone c x) ++ [f] })
        ∧ f.num = (s.core c).issued ∧ f.before = b.getLsbD 0 ∧ f.after = a ∧ f.system = system
        ∧ (∀ x ∈ (s.core c).xq, b.getLsbD (xPath x.instr) = true → (x.cout = false ∨ x.cur = false) → x.name ∈ f.xseqs)
        ∧ (∀ m ∈ (s.core c).mcmds, ∀ p, mPath m.instr = some p → b.getLsbD p = true → m.name ∈ f.mats)
        ∧ ∀ p, a.getLsbD p = true →
            ((b.getLsbD 0 = true ∧ s.accessOut c (s.core c).issued system = true) ∨ (∃ x ∈ (s.core c).xq, x.name ∈ f.xseqs)
              ∨ (∃ m ∈ (s.core c).mcmds, m.name ∈ f.mats)) → t.fenceHolds c p = true
    (∃ t, exec (.fence g) s = .next t ∧ fenced t 1 1 true)
      ∧ (before ≠ 0 → after ≠ 0 → ∃ t, exec (.xfence g before after scope) s = .next t ∧ fenced t before after (scope == 4))
      ∧ (before = 0 ∨ after = 0 → exec (.xfence g before after scope) s = .next s)

/-- GSYNC: nothing in a single task; in a gang the member arrives and the bundle is held; when all four members have arrived, with their
slot commands complete and their atomics performed, the barrier opens for each of them, and the bundle goes on (R216, R369). -/
def Obligations.GangBarrier : Prop :=
  ∀ (s : State) (g : Guard), s.guard g = true →
    let c := s.iss.core
    let u := s.modCore c fun k => { k with hold := .gsync }
    ((s.core c).task = none → exec (.gsync g) s = .next s)
      ∧ ∀ b, (s.core c).task = some b →
        (b.gang = false → exec (.gsync g) s = .next s)
          ∧ (b.gang = true → (s.core c).hold = .synced → exec (.gsync g) s = .next (s.modCore c fun k => { k with hold := .none }))
          ∧ (b.gang = true → (s.core c).hold ≠ .synced →
              (u.barrierMet (u.coresOf b.serial) = false → exec (.gsync g) s = .next u.hold)
                ∧ (u.barrierMet (u.coresOf b.serial) = true → ∃ t, exec (.gsync g) s = .next t ∧ t.iss.st = .held ∧ SameMem s t
                    ∧ (∀ k ∈ u.coresOf b.serial, (t.core k).hold = .synced ∧ (t.core k).phase.irrevocable = true ∧ t.regs k = s.regs k)
                    ∧ ∀ k, k ∉ u.coresOf b.serial → k ≠ c → t.core k = s.core k))

/-- TSWAP: alone, the banks swap once no fill is under way: the other bank is active, every latch is empty, one swap more is counted, the
phase cannot be run again, and the bundle goes on when it issues next; in a switch group the arrival is sent and the core waits; a number
that is not the group's, or a failed shadow bank, is a switch-group fault (R60, R61, R217, R369, R414). -/
def Obligations.BankSwap : Prop :=
  ∀ (s : State) (g : Guard) (n : BitVec 6), s.guard g = true →
    let c := s.iss.core
    let k := s.core c
    let grp := k.csrs.swgroup.toNat % 64
    let size := k.csrs.swgroup.toNat / 2 ^ 16 % 1024
    let u := s.modCore c fun k => { k with hold := if k.hold = .filling then .none else k.hold }
    (k.hold = .swapped → exec (.tswap g n) s = .next (u.modCore c fun k => { k with hold := .none }))
      ∧ (k.hold ≠ .swapped → n ≠ 0 → (n.toNat ≠ grp ∨ size = 0) → exec (.tswap g n) s = .next (u.swapFault 2 n.toNat))
      ∧ (k.hold ≠ .swapped → k.xq.any XCmd.filling = true → (n = 0 ∨ (n.toNat = grp ∧ size ≠ 0)) →
          exec (.tswap g n) s = .next (u.modCore c fun k => { k with hold := .filling }).hold)
      ∧ (k.hold ≠ .swapped → k.xq.any XCmd.filling = false → k.shadowSt = .failed → n = 0 → exec (.tswap g n) s = .next (u.swapFault 1 0))
      ∧ (k.hold ≠ .swapped → k.xq.any XCmd.filling = false → k.shadowSt = .failed → n ≠ 0 → n.toNat = grp → size ≠ 0 →
          exec (.tswap g n) s = .next ((u.abortSwitch c n.toNat false).swapFault 1 n.toNat))
      ∧ (k.hold ≠ .swapped → k.xq.any XCmd.filling = false → k.shadowSt ≠ .failed → n = 0 →
          ∃ t, exec (.tswap g n) s = .next t ∧ t.iss.st = .held ∧ OnlyCore c s { t with iss := s.iss }
            ∧ (t.core c).active = 1 - k.active ∧ (t.core c).swaps = (k.swaps + 1) % 256 ∧ (t.core c).hold = .swapped
            ∧ (∀ n, ((t.core c).latches.get n ⟨false, []⟩).landed = false) ∧ (t.core c).phase.irrevocable = true
            ∧ t.regs c = s.regs c ∧ (t.core c).banks = k.banks ∧ (t.core c).csrs = k.csrs)
      ∧ (k.hold ≠ .swapped → k.xq.any XCmd.filling = false → k.shadowSt ≠ .failed → n ≠ 0 → n.toNat = grp → size ≠ 0 →
          ∃ t, exec (.tswap g n) s = .next t ∧ t.iss.st = .held
            ∧ t.hub.swmsgs = s.hub.swmsgs ++ [⟨c, k.ctxid, n.toNat, size, false, false⟩]
            ∧ { t with iss := s.iss, hub := s.hub } = u.modCore c (fun k => { k with hold := .swap n.toNat }))

/-! Control and status registers, and exceptions. -/

/-- CSRR, CSRW, CSRS and CSRC on the task-writable registers: the old value goes to the destination; the new one is the operand, the old value
or it, the old value without it, reserved fields reading zero; CSRS and CSRC with a zero operand write nothing, but each of them seeds the
generators where the register is LFSRSEED; nothing else changes (R66, R70, R71, R108, R219, R220). CSRR reads every register that its context may read; a register held at the hub is asked for there (R358, R413). -/
def Obligations.CsrInstructions : Prop :=
  (∀ (s : State) (g : Guard) (d a : SReg) (csr : BitVec 12) (m : Word), s.guard g = true →
    let c := s.iss.core
    let n := csr.toNat
    let old := s.csrGet c n
    let did (i : Instr) (new : Word) (seeds : Bool) : Prop :=
      ∃ t, exec i s = .next t ∧ OnlyRegsCsrs c s { t with iss := s.iss } ∧ OtherScalarsKept c [d.toNat] s t
        ∧ (t.regs c).getS d.toNat = (if d = 0 then 0 else old) ∧ t.csrGet c n = new ∧ (∀ k, k ≠ n → t.csrGet c k = s.csrGet c k)
        ∧ t.iss = (if seeds then { s.iss with seeded := true } else s.iss)
        ∧ (seeds = false → (t.core c).lfsr = (s.core c).lfsr)
        ∧ (seeds = true → ∀ h l, h < 16 → l < 32 → laneOf ((t.core c).lfsr.get h []) l = BitVec.ofNat 32 (lfsrSeed new.toNat h l))
    csrMask n = some m → csrWaits (s.core c) n true = false →
    did (.csrr g d csr) old false ∧ did (.csrw g d a csr) (s.rd a &&& m) (n == 0x060)
      ∧ did (.csrs g d a csr) (if s.rd a = 0 ∧ n ≠ 0x060 then old else (old ||| s.rd a) &&& m) (n == 0x060)
      ∧ did (.csrc g d a csr) (if s.rd a = 0 ∧ n ≠ 0x060 then old else (old &&& ~~~(s.rd a)) &&& m) (n == 0x060))
  ∧ (∀ (s : State) (g : Guard) (d : SReg) (csr : BitVec 12), s.guard g = true →
    let c := s.iss.core
    ((s.core c).ctxid = 0 ∨ (csr.toNat < 0x800 ∧ listed csr.toNat = true)) →
    (hubHeld csr.toNat = false → csrWaits (s.core c) csr.toNat false = false →
      ∃ t, exec (.csrr g d csr) s = .next t ∧ (t.regs c).getS d.toNat = (if d = 0 then 0 else s.csrGet c csr.toNat)
        ∧ OnlyScalars c [d.toNat] s t)
    ∧ (hubHeld csr.toNat = true → s.hub.hubcsr.any (fun x => x.core == c) = false →
      exec (.csrr g d csr) s = .next (s.modHub fun h => { h with hubcsr := h.hubcsr ++ [⟨c, csr.toNat, 0, 0, d, (s.core c).ctxid⟩] })))

/-- A CSR instruction of a context other than 0 on a privileged or unlisted register, or writing one that takes no write, and a write of
RIMEINJ without the test permission, take the privilege fault (R66, R138, R413). -/
def Obligations.CsrPrivilege : Prop :=
  ∀ (s : State) (g : Guard) (d a : SReg) (csr : BitVec 12), s.guard g = true →
    let ctx := (s.core s.iss.core).ctxid
    let n := csr.toNat
    (ctx ≠ 0 → (0x800 ≤ n ∨ listed n = false) →
      exec (.csrr g d csr) s = .next (s.privFault 0 0xC0 n) ∧ exec (.csrw g d a csr) s = .next (s.privFault 0 0xC1 n)
        ∧ exec (.csrs g d a csr) s = .next (s.privFault 0 0xC2 n) ∧ exec (.csrc g d a csr) s = .next (s.privFault 0 0xC3 n))
    ∧ (ctx ≠ 0 → n < 0x800 → listed n = true → writable n = false → exec (.csrw g d a csr) s = .next (s.privFault 0 0xC1 n)
        ∧ (s.rd a ≠ 0 → exec (.csrs g d a csr) s = .next (s.privFault 0 0xC2 n) ∧ exec (.csrc g d a csr) s = .next (s.privFault 0 0xC3 n)))
    ∧ (n = 0x034 → (s.ctx ctx).test = false → exec (.csrw g d a csr) s = .next (s.privFault 2 0xC1 n))

/-- A fault of a bundle posts its record, cancels the task, and no issue slot of the bundle acts: the core of a task that runs alone is
free, with nothing of the phase left; its record is marked cancelled, every other byte of memory is as before, cancel goes to each
successor, and the other cores are as before; results of earlier bundles land first (R365, R371, R405). The record of the context's ring is a statement of its own. -/
def Obligations.TaskCancelled : Prop :=
  ∀ (s : State) (o : Org) (c key : Nat) (b : Binding), s.coresOf o.serial = [c] → (s.core c).task = some b → b.handler = false →
    s.recKey (s.core c).ctxid b.record = some key →
    (∀ w ∈ b.succs, contBad w = none) →
    let t := s.cancelTask o
    (t.core c).task = none ∧ (t.core c).hold = .none ∧ (t.core c).gate = [] ∧ (t.core c).held = [] ∧ (t.core c).phase = Phase.fresh
      ∧ (t.core c).claim = none ∧ t.regs c = s.regs c ∧ (∀ k, k ≠ c → t.core k = s.core k)
      ∧ Memory.read t.mem (key + 0x0C) = 5 ∧ (Memory.read t.mem (key + 0x1B)).getLsbD 0 = true
      ∧ (∀ a, a ≠ key + 0x0C → a ≠ key + 0x1B → Memory.read t.mem a = Memory.read s.mem a)
      ∧ t.cancels = s.cancels ++ (((b.succs.filter fun x => contKind x != 0).map
          fun x => ⟨.tdec x 0, 6, { o with core := some c, ctx := (s.core c).ctxid, task := some b.record }, none, (8, 0)⟩) : List Cont)
      ∧ (∀ f : FaultInfo, s.takeFault f =
          (((s.post (mkRec f.code 2 f.loc f.detail f.addr (some s.iss.org))).landRets s.iss.core).cancelTask s.iss.org).faulted)
      ∧ ∀ k, (s.landRets k).rets = s.rets.filter (fun r => r.core != k) ∧ (∀ j, j ≠ k → (s.landRets k).core j = s.core j)
          ∧ (∀ r, s.rets.filter (fun r => r.core == k) = [r] →
              (s.landRets k).regs k = r.writes.foldl (fun (g : Regs) (p : SReg × Word) => g.setS p.1.toNat p.2) (s.regs k))

/-- A record below severity 3, of a context whose ring has room and lies in the module's memory, and which is not rate-limited, is written
at the head of the ring with its sequence number and the tick; the head and the counter rise by one, the context's interrupt is signalled,
and its unit's bank counts it (R355, R358 to R363). -/
def Obligations.RecordInRing : Prop :=
  ∀ (s : State) (r : ErrRec) (c : Nat) (t : Target), r.ctx = some c → (r.sev = 1 ∨ r.sev = 2) →
    let g := (s.ctx c).ring
    g.size ≠ 0 → g.bad = false → (s.ctx c).kill ≠ .complete → (g.head + 2 ^ 32 - g.tail) % 2 ^ 32 ≠ g.size →
    s.translate c (BitVec.ofNat 64 (g.base * 64 + g.head % g.size * 64)) .write = .ok t → t.cls < 3 →
    let u := s.post r
    ∃ x : ErrRec, x.code = r.code ∧ x.sev = r.sev ∧ x.tick = s.frame ∧ x.seq = g.seqctr ∧ x.detail = r.detail ∧ x.addr = r.addr
      ∧ x.task = r.task ∧ x.bundle = r.bundle
      ∧ Stored s u ((List.range 64).map (t.key + ·)) x.bytes
      ∧ (u.ctx c).ring = { g with head := (g.head + 1) % 2 ^ 32, seqctr := (g.seqctr + 1) % 2 ^ 32 }
      ∧ u.hub.msix = s.hub.msix ||| (1#18 <<< (2 + c)) ∧ u.cores = s.cores

/-- TRAP: the task is cancelled and a record of code 7 with the register's value and the trap code posted; where the context's trap
register is enabled, its handler record is sent one decrement with the trap code and the record's number as argument (R221, R419). -/
def Obligations.TrapTaken : Prop :=
  ∀ (s : State) (g : Guard) (a : SReg) (code : BitVec 28), s.guard g = true →
    let o := s.iss.org
    let u := (s.landRets s.iss.core).cancelTask o
    let v := u.post (mkRec 7 2 (locCore 0 s.iss.core 0xFF) (leBytes 8 (s.rd a).toNat ++ leBytes 4 code.toNat) none (some o))
    let trec := (v.ctx o.ctx).traprec
    ∃ t, exec (.trap g a code) s = .next t ∧ t.iss.st = .faulted ∧ { t with iss := v.iss, conts := v.conts } = v
      ∧ (trec.getLsbD 0 = false → t.conts = v.conts)
      ∧ (trec.getLsbD 0 = true → ∃ w, t.conts = v.conts ++
            [⟨.tdec w (BitVec.ofNat 64 (code.toNat * 2 ^ 36 + (u.ctx o.ctx).ring.seqctr)), 5, { o with bundle := none }, none, (8, 0)⟩]
          ∧ contKind w = 2 ∧ contAmount w = 1 ∧ contArgix w = trec.toNat / 16 % 4 ∧ contRecord w = trec &&& 0x0000FFFFFFFFFF80)

/-- A bundle with one issue slot that does not decode, or with a nonzero reserved header bit, takes the undefined-instruction fault when it
issues, naming the slot, the reason and the first bit (R164, R407, R408). -/
def Obligations.UndefinedTaken : Prop :=
  ∀ (s : State) (c : Nat) (t : Target) (line : List Byte) (s' : State) (e : DecErr),
    s.turn = .issue c → (s.core c).task.isSome = true → s.hub.fenced = false → s.lateOf c = none →
    ((s.core c).hold = .none ∨ (s.core c).hold = .filling ∨ (s.core c).hold = .swapped ∨ (s.core c).hold = .synced) →
    s.translate (s.core c).ctxid (s.core c).pc .fetch = .ok t →
    (s.enter c (s.core c).pc).fetchLine c t (s.core c).pc = (line, s') →
    let w := bundleOf line (s.core c).pc
    (w.extractLsb' 0 4 = 1 ∨ w.extractLsb' 0 4 = 2 ∨ w.extractLsb' 0 4 = 4 ∨ w.extractLsb' 0 4 = 8) →
    decodeBundle w = .error e → s'.blocked c (presentOf (slots w)) = false →
    step s = .next (s'.takeFault ⟨1, locCore (if e.slot = 2 then 1 else 0) c (if e.slot = 2 then 0 else 0xFF),
      leBytes 1 e.slot ++ leBytes 1 e.reason ++ leBytes 2 e.pos ++ slotBits w e.slot, none⟩).advance

/-- ICINV empties the instruction caches of its scope, SRFENCE the core's shape-record cache, and nothing else (R65, R222, R223); EREAD sends
the energy counter that the selector names, account, die, hub or module, on its way to the destination, and nothing else changes (R224). -/
def Obligations.CachesAndEnergy : Prop :=
  (∀ (s : State) (g : Guard) (scope : BitVec 2), s.guard g = true →
    let c := s.iss.core
    let inside (k : Nat) : Prop :=
      (scope = 0 → k = c) ∧ (scope = 1 → clusterOf k = clusterOf c) ∧ (scope = 2 → dieOf k = dieOf c)
    (∃ t, exec (.icinv g scope) s = .next t ∧ { t with cores := s.cores } = s
      ∧ (∀ k, inside k → t.core k = { s.core k with icache := [] }) ∧ (∀ k, ¬inside k → t.core k = s.core k))
    ∧ exec (.srfence g) s = .next (s.modCore c fun k => { k with srcache := [] }))
  ∧ (∀ (s : State) (g : Guard) (d : SReg) (sel : BitVec 12), s.guard g = true →
    let e := s.hub.energy
    let n := sel.toNat
    ∃ v : Nat, exec (.eread g d sel) s = .next { s with rets := s.rets ++ [⟨s.iss.core, [(d, BitVec.ofNat 64 v)]⟩] }
      ∧ (n < 256 → v = e.accounts.get n 0) ∧ (256 ≤ n → n < 264 → v = e.dies.get (n - 256) 0) ∧ (n = 264 → v = e.hub) ∧ (n = 265 → v = e.total))

/-- TOKX in context 0, on a descriptor that can be read: one that is not well-formed returns 4; a good one waits, in the order of arrival, while
another awaits its peer's answer; then too few tokens return 1, a peer that no route reaches or that is in a transfer 2, else the balance is
lowered at once and the grant sent; in another context it takes the privilege fault (R225, R310, R413). That a descriptor address that is no
multiple of 16 counts as not well-formed is the model's choice (log 47). -/
def Obligations.TokenExchange : Prop :=
  ∀ (s : State) (g : Guard) (d a : SReg) (ks : List Nat), s.guard g = true →
    let c := s.iss.core
    let b := ks.map (s.loadByte c)
    let peer := leNat (b.take 2)
    let tokens := leNat ((b.drop 4).take 4)
    let bad := (s.rd a).toNat % 16 ≠ 0 ∨ peer > 2047 ∨ peer = s.hub.module ∨ tokens < 1 ∨ tokens > 6400
      ∨ leNat ((b.drop 2).take 2) ≠ 0 ∨ leNat ((b.drop 8).take 8) ≠ 0
    let others := s.hub.tokq.filter (· != c)
    let waits := s.hub.transfers.any (fun t => t.dest.isSome) || s.hub.tokq.headD c != c
    let busy := !s.reaches peer || s.hub.transfers.any (fun t => t.peer == peer)
    let few := tokens > s.hub.balance - s.hub.floor
    (s.iss.src.ctxid ≠ 0 → exec (.tokx g d a) s = .next (s.privFault 1 0xC8 0))
    ∧ (s.iss.src.ctxid = 0 → s.spanKeys c 0 .g (s.rd a) 16 .read = .ok ks → s.farNeeds (coreFar c) ks = [] → LoadFree s .g ks →
      ∃ u, OnlyNoted c s u ∧
        let result (v : Nat) : State := { u with rets := s.rets ++ [⟨c, [(d, BitVec.ofNat 64 v)]⟩] }
        (bad → exec (.tokx g d a) s = .next (result 4))
        ∧ (¬bad → waits = true →
            exec (.tokx g d a) s = .next (u.modHub fun h => { h with tokq := if c ∈ h.tokq then h.tokq else h.tokq ++ [c] }).hold)
        ∧ (¬bad → waits = false →
          (few → exec (.tokx g d a) s = .next ((result 1).modHub fun h => { h with tokq := others }))
          ∧ (¬few → busy = true → exec (.tokx g d a) s = .next ((result 2).modHub fun h => { h with tokq := others }))
          ∧ (¬few → busy = false → exec (.tokx g d a) s = .next
              { u with
                mgmtOut := s.mgmtOut ++ [(peer, .grant s.hub.module s.hub.xfernum tokens)]
                hub := { s.hub with
                  tokq := others
                  balance := s.hub.balance - tokens
                  xfernum := (s.hub.xfernum + 1) % 2 ^ 32
                  transfers := s.hub.transfers ++ [⟨peer, s.hub.xfernum, tokens, s.frame, some (c, d)⟩] } })))

/-! Table operations. -/

/-- VIX broadcasts its index, scalar, immediate and format entry to the groups: the first fault of the entries there, by kind, group and lane,
ends the bundle; else the entries act, those that store after the others, each in increasing group, and a hold of one holds the bundle
(R53, R64, R227, R239, R407). -/
def Obligations.IndexedEntries : Prop :=
  ∀ (s : State) (g : Guard) (index : BitVec 10) (bs : SReg) (fsel : BitVec 2) (foff : BitVec 4) (bi : BitVec 16), s.guard g = true →
    let u := s.broadcast index bs fsel foff bi
    let entry (k : Nat) : Option Instr :=
      decodeEntry ((s.iss.src.banks.getD s.iss.src.active Bank.clear).entries.get (k * 1024 + index.toNat) 0)
    let faults (k : Nat) : Option (Nat × Nat × Entry) := ((entry k).bind tableOp).map fun x => (k, x.1, x.2)
    let i : Instr := .vix g index bs fsel foff bi
    (∀ f, u.entriesFault ((List.range 16).filterMap faults) = some f → exec i s = .next (u.takeFault f))
      ∧ (u.entriesFault ((List.range 16).filterMap faults) = none → ∃ v, runEntries (entryOrder u.entries) u = .next v
          ∧ exec i s = .next (if v.iss.st = .held then u.hold else v)
          ∧ (∀ k x, (k, x) ∈ u.entries ↔ k < 16 ∧ entry k = some x)
          ∧ (entryOrder u.entries).Pairwise fun p q => (isStore q.2 = true ∧ isStore p.2 = false) ∨ (isStore p.2 = isStore q.2 ∧ p.1 < q.1))
      ∧ u.iss.bs = s.rd bs ∧ u.iss.bi = bi ∧ u.iss.fidx = ((s.iss.src.regs.getLc fsel.toNat).toNat + foff.toNat) % 16
      ∧ u.regs s.iss.core = s.regs s.iss.core ∧ SameMem s u

/-- The floating table operations: each element of an enabled lane takes the exact value of R231, rounded once by the entry's mode to the
type's format, NaN inputs and invalid products taken as zero and counted under NANZ; nothing else changes (R98 to R100, R106, R229, R231). -/
def Obligations.FloatOperations : Prop :=
  ∀ (i : Instr) (s : State) (op n : Nat) (e : Entry) (f : FOp), floatTable i = some (op, n, e, f) → s.entriesFault [(s.grp, op, e)] = none →
    let ty := e.ty.toNat
    let r (l k : Nat) : Nat × Nat :=
      let x := s.elems e l k
      fElem f n (fmtNanz s.fmtEntry) (rndMode e) (tyFmt ty) x.1 x.2.1 x.2.2
    ∃ t v, exec i s = .next t ∧ LanesLand e v s t
      ∧ OnlyGroup (s.countOn e fun l => ((List.range (tyCount ty)).map fun k => (r l k).2).sum) s t
      ∧ ∀ l k, l < 32 → k < tyCount ty → elemAt (tyWidth ty) (v l) k = (r l k).1 % 2 ^ tyWidth ty

/-- VSCALE, VEXP2, VLOG2, VTANH, VSIGM and VCLASS on each element of an enabled lane, and VDOT2 on each lane: the value of R231 to R233,
NaN inputs under NANZ counted; a transcendental's deviation within its bound is free (log 11); nothing else changes. -/
def Obligations.FloatFunctions : Prop :=
  ∀ (s : State) (e : Entry),
    let ty := e.ty.toNat
    let w := tyWidth ty
    let nanz := fmtNanz s.fmtEntry
    let x (l k : Nat) : Nat × Nat × Nat := s.elems e l k
    let lands (i : Instr) (op : Nat) (r : Nat → Nat → Nat × Nat) : Prop :=
      s.entriesFault [(s.grp, op, e)] = none → ∃ t v, exec i s = .next t ∧ LanesLand e v s t
        ∧ OnlyGroup (s.countOn e fun l => ((List.range (tyCount ty)).map fun k => (r l k).2).sum) s t
        ∧ ∀ l k, l < 32 → k < tyCount ty → elemAt w (v l) k = (r l k).1 % 2 ^ w
    let transcendental (i : Instr) (op fn : Nat) : Prop := lands i op fun l k => transcElem fn nanz (rndMode e) (tyFmt ty) (x l k).1
    lands (.vscale e) 0x017 (fun l k => scaleElem nanz (rndMode e) (tyFmt ty) w (x l k).1 (x l k).2.1)
      ∧ transcendental (.vexp2 e) 0x010 0 ∧ transcendental (.vlog2 e) 0x011 1 ∧ transcendental (.vtanh e) 0x012 2
      ∧ transcendental (.vsigm e) 0x013 3
      ∧ lands (.vclass e) 0x015 (fun l k => (2 ^ classBit (tyFmt ty) (x l k).1, 0))
      ∧ (s.entriesFault [(s.grp, 0x018, e)] = none →
          let d (l : Nat) : Nat × Nat := dot2 nanz (rndMode e) (tyFmt ty) (s.va e l) (s.vb e l) (s.vc e l)
          ∃ t, exec (.vdot2 e) s = .next t ∧ LanesLand e (fun l => BitVec.ofNat 32 (d l).1) s t ∧ OnlyGroup (s.countOn e fun l => (d l).2) s t)

/-- The integer table operations on typed elements: each element of an enabled lane keeps the low bits of the number of R234 and R235;
nothing else changes. That VSRA of an n type brings in zeros is the model's reading (log 35). -/
def Obligations.IntegerOperations : Prop :=
  ∀ (i : Instr) (s : State) (op : Nat) (e : Entry) (f : Nat → Nat → Nat → Int), intTable i = some (op, e, f) →
    s.entriesFault [(s.grp, op, e)] = none →
    let ty := e.ty.toNat
    let w := tyWidth ty
    ∃ t v, exec i s = .next t ∧ LanesLand e v s t ∧ OnlyGroup 0 s t
      ∧ ∀ l k, l < 32 → k < tyCount ty →
          (elemAt w (v l) k : Int) = f (s.elems e l k).1 (s.elems e l k).2.1 (s.elems e l k).2.2 % (2 ^ w : Nat)

/-- The table operations on whole lanes (logic, counts, fields, moves, packing) and those whose result is a mask (VICMP, VQLOG, VCMPF):
the result of R168, R232, R234, R235, R242 or R245 lands, and nothing else changes. -/
def Obligations.LaneOperations : Prop :=
  ∀ (i : Instr) (s : State) (op : Nat) (e : Entry), s.entriesFault [(s.grp, op, e)] = none →
    (∀ f, laneTable i s = some (op, e, f) → ∃ t, exec i s = .next t ∧ LanesLand e f s t ∧ OnlyGroup 0 s t)
      ∧ (∀ f, maskTable i s = some (op, e, f) → ∃ t, exec i s = .next t ∧ MaskLands e f s t ∧ OnlyGroup 0 s t)
      ∧ (i = .vcmpf e → op = 0x014 →
          let v (x : Lane) : FVal × Nat :=
            nanzIn (fmtNanz s.fmtEntry) (decodeF (tyFmt e.ty.toNat) (elemAt (tyWidth e.ty.toNat) x (e.fn.toNat / 8)))
          let holds (a b : FVal) : Bool :=
            let un := a.isNan || b.isNan
            let eq := !un && !(a.lt b) && !(b.lt a)
            match e.fn.toNat % 8 with
            | 0 => eq
            | 1 => !eq
            | 2 => a.lt b
            | 3 => a.lt b || eq
            | 4 => b.lt a
            | 5 => b.lt a || eq
            | 6 => un
            | _ => !un
          ∃ t, exec i s = .next t ∧ MaskLands e (fun l => holds (v (s.va e l)).1 (v (s.vb e l)).1) s t
            ∧ OnlyGroup (s.countOn e fun l => (v (s.va e l)).2 + (v (s.vb e l)).2) s t)

/-- The reductions and the scan: disabled lanes hold the identity; a float sum is the five-level tree, each level rounded, a scan the
running prefixes; maxima and minima are of R111; integers are exact, kept to their low bits; every enabled lane takes the result (R112,
R243). -/
def Obligations.Reductions : Prop :=
  ∀ (s : State) (e : Entry),
    let ty := e.ty.toNat
    let w := tyWidth ty
    let on (l : Nat) : Bool := s.on e s.grp l
    let x (l k : Nat) : Nat := (s.elems e l k).1
    let fl (ident : FVal) (k : Nat) : List FVal :=
      (List.range 32).map fun l => if on l then (nanzIn (fmtNanz s.fmtEntry) (decodeF (tyFmt ty) (x l k))).1 else ident
    let int (ident : Int) (k : Nat) : List Int := (List.range 32).map fun l => if on l then tyInt ty (x l k) else ident
    let round (v : FVal) : Nat := roundF (tyFmt ty) (rndMode e) false v
    let low (v : Int) : Nat := (v % (2 ^ w : Nat)).toNat
    let nans := s.countOn e fun l =>
      (elemsOf ty (s.va e l)).foldl (fun a b => a + (nanzIn (fmtNanz s.fmtEntry) (decodeF (tyFmt ty) b)).2) 0
    let lands (i : Instr) (op n : Nat) (r : Nat → Nat → Nat) : Prop :=
      s.entriesFault [(s.grp, op, e)] = none → ∃ t v, exec i s = .next t ∧ LanesLand e v s t ∧ OnlyGroup n s t
        ∧ ∀ l k, l < 32 → k < tyCount ty → elemAt w (v l) k = r l k % 2 ^ w
    (ty ≤ 2 →
      lands (.vrsum e) 0x283 nans (fun _ k => round (reduceTree (stepSum ty (rndMode e)) (fl (.fin true 0 0) k)))
        ∧ lands (.vrmax e) 0x284 nans (fun _ k => round ((fl (.inf true) k).foldl FVal.max2 (.inf true)))
        ∧ lands (.vrmin e) 0x285 nans (fun _ k => round ((fl (.inf false) k).foldl FVal.min2 (.inf false)))
        ∧ lands (.vscan e) 0x286 nans (fun l k =>
            round (((fl (.fin true 0 0) k).tail.take l).foldl (stepSum ty (rndMode e)) ((fl (.fin true 0 0) k).headD FVal.zero))))
    ∧ (2 < ty →
      lands (.vrsum e) 0x283 0 (fun _ k => low (int 0 k).sum)
        ∧ lands (.vrmax e) 0x284 0 (fun _ k => low ((int (tyLow ty) k).foldl max (tyLow ty)))
        ∧ lands (.vrmin e) 0x285 0 (fun _ k => low ((int (tyHigh ty) k).foldl min (tyHigh ty)))
        ∧ lands (.vscan e) 0x286 0 (fun l k => low ((int 0 k).take (l + 1)).sum))

/-- VCVT, VMXQ, VMXD, VSAMP and VRIMEC: converted elements land in their places, a stochastic conversion steps the generators of the
enabled lanes, unless its bundle has seeded them (log 42); a block is quantised to its scale and elements, or its lane's value restored; a sample notes the lanes that differ; a tile
is checked against its entry, line by line (R103, R105, R108, R134, R244, R246 to R248). -/
def Obligations.Conversions : Prop :=
  ∀ (s : State) (e : Entry),
    let c := s.iss.core
    let f := s.fmtEntry
    let nanz := fmtNanz f
    let old := s.iss.src.regs.getV s.grp e.dest.toNat
    let ins (l : Nat) : List Nat := cvtInputs e (s.va e l) (s.vb e l)
    let cvt (l : Nat) : List (Nat × Nat) := (List.range (ins l).length).map fun k =>
      let mode := if e.imm.getLsbD 0 then Mode.sto ((lfsrRun (ins l).length (laneOf (s.iss.src.lfsr.get s.grp []) l).toNat).getD k 0) else rndMode e
      cvtElem (cvtSrcFmt e) (cvtDstFmt e.fn.toNat) nanz (fmtSat f) mode ((ins l).getD k 0)
    let block := (List.range 32).map fun l =>
      if s.on e s.grp l then nanzIn nanz (decodeF 0 (s.va e l).toNat) else (FVal.zero, 0)
    let q := quantizeMx (block.map (·.1)) (mxFn e.fn.toNat) (if fmtFld f 42 2 = 1 then some (fmtFld f 44 8) else none) (rndMode e)
    (s.entriesFault [(s.grp, 0x300, e)] = none →
      ∃ t u, exec (.vcvt e) s = .next t ∧ LanesLand e (fun l => cvtPlace e (laneOf old l) ((cvt l).map (·.1))) s u
        ∧ OnlyGroup (s.countOn e fun l => ((cvt l).map (·.2)).sum) s u
        ∧ (e.imm.getLsbD 0 = false ∨ s.iss.seeded = true → t = u)
        ∧ (e.imm.getLsbD 0 = true → s.iss.seeded = false → t = u.modCore c (fun k => { k with lfsr := (t.core c).lfsr })
            ∧ (∀ g, g ≠ s.grp → (t.core c).lfsr.get g [] = (s.core c).lfsr.get g [])
            ∧ ∀ l, l < 32 → laneOf ((t.core c).lfsr.get s.grp []) l =
                let x := laneOf (s.iss.src.lfsr.get s.grp []) l
                if s.on e s.grp l then BitVec.ofNat 32 ((List.range (cvtInputs e 0 0).length).foldl (fun x _ => lfsrStep x) x.toNat) else x))
    ∧ (s.entriesFault [(s.grp, 0x303, e)] = none →
      ∃ t, exec (.vmxq e) s = .next t ∧ OnlyGroup (block.map (·.2)).sum s t
        ∧ LanesLand e (fun l => BitVec.ofNat 32 (toBits 8 (q.2.getD l 0) + 256 * q.1)) s t)
    ∧ (s.entriesFault [(s.grp, 0x304, e)] = none →
      let v (l : Nat) : FVal × Nat :=
        let a := (s.va e l).toNat
        nanzIn nanz (mxValue (mxFn e.fn.toNat) (signedOf (mxFn e.fn.toNat) a) (if fmtFld f 38 2 = 1 then 0x7F else a / 256 % 256))
      ∃ t, exec (.vmxd e) s = .next t ∧ OnlyGroup (s.countOn e fun l => (v l).2) s t
        ∧ LanesLand e (fun l => BitVec.ofNat 32 (roundF 0 .rne false (v l).1)) s t)
    ∧ (s.entriesFault [(s.grp, 0x306, e)] = none →
      let bad (l : Nat) : Bool := s.on e s.grp l && s.va e l != e.imm
      ∃ t, exec (.vsamp e) s = .next t ∧ LanesLand e (fun l => if bad l then 1 else 0) s t
        ∧ ((∀ l, l < 32 → bad l = false) → OnlyGroup 0 s t)
        ∧ ((∃ l, l < 32 ∧ bad l = true) →
            (t.core c).csrs.sampcnt = BitVec.ofNat 64 (min ((s.core c).csrs.sampcnt.toNat + 1) (2 ^ 32 - 1))
              ∧ ∃ m : Lane, t.iss.samp = s.iss.samp ++ [(s.grp, m)] ∧ ∀ l, l < 32 → m.getLsbD l = bad l))
    ∧ (s.entriesFault [(s.grp, 0x305, e)] = none →
      let off := (s.tileOff e s.grp).toNat
      let pitch := e.imm.toNat % 65536
      let fmt := rowFmt e.ty.toNat (e.imm.toNat / 65536 % 4)
      let rime := cKey c (s.va e 0).toNat
      let places := (rime, 256) :: (List.range 32).map fun i => (cKey c (off + i * pitch), rowBytesOfType e.ty.toNat)
      let tile := (List.range 32).map fun i => (s.rowAt c (off + i * pitch) fmt).map fun x => rimeValue fmt x 0x7F
      let st := checkTile (tolT (tolBase 0 s.iss.src.csrs.rimetol) (ceilLog2 (1 + (s.rimeAt rime).refresh))) tile (s.rimeAt rime).sums
      let bit (n : Nat) (x : LineSt) : Nat := if st.getD n .pass = x then 1 else 0
      (places.any fun r => s.bankLocked c (r.1 % 2 ^ 22) || s.bankLocked c ((r.1 + r.2 - 1) % 2 ^ 22)) = false → s.poison = [] →
      ∃ t, exec (.vrimec e) s = .next t ∧ SameMem s t
        ∧ LanesLand e (fun l => BitVec.ofNat 32 (bit l .bad + 2 * bit (32 + l) .bad + 4 * bit l .unchecked + 8 * bit (32 + l) .unchecked)) s t)

/-- VLD, VLDX, VST, VSTX, VSTG and VSTT, where nothing faults, holds or is damaged and no entry has to be formed first: a load's words land; a store's bytes are in memory, the
last lane standing where lanes meet, and every other byte is as before; a global store's aligned 16-byte pieces enter the store gate; a
tile row goes to the rime unit of its bank with the bytes it has in memory (R123, R145, R236, R237, R239, R241). -/
def Obligations.VectorMemory : Prop :=
  ∀ (s : State) (e : Entry),
    let c := s.iss.core
    let g := s.grp
    let clear (op : Nat) : Prop := s.entriesFault [(g, op, e)] = none
    let keys (op : Nat) (l : Nat) : List Nat := s.placeKeys (entryAcc op) (s.placeOf op e g l)
    let all (op : Nat) : List Nat := (s.lanesOn e).flatMap (keys op)
    let loads (i : Instr) (op : Nat) : Prop :=
      clear op → s.farNeeds (coreFar c) (all op) = [] → s.behindParked (all op) = false → s.anyLocked c (all op) = false →
      s.loadHurt c (all op) = none → (∀ k ∈ all op, s.unformed (k / 256) = none) →
      ∃ t, exec i s = .next t ∧ OnlyLoaded s t ∧ LanesLand e (fun l => BitVec.ofNat 32 (leNat ((keys op l).map (s.loadByte c)))) s t
    let stores (i : Instr) (op : Nat) : Prop :=
      clear op → s.copyOutReads c (all op) = false → s.anyLocked c (all op) = false →
      ∃ t, exec i s = .next t ∧ (∀ k, t.regs k = s.regs k)
        ∧ ((∀ l ∈ s.lanesOn e, ∀ va, s.placeOf op e g l = .glob va → ∀ x, s.translate s.iss.src.ctxid va .write = .ok x → x.rc = false ∧ x.cls ≠ 4) →
          OnlyStored c s t ∧ ∀ a, Memory.read t.mem a =
            lastWrite ((s.lanesOn e).map fun l => ((keys op l).headD 0, s.va e l)) a (Memory.read s.mem a))
    loads (.vld e) 0x200 ∧ loads (.vldx e) 0x202 ∧ stores (.vst e) 0x201 ∧ stores (.vstx e) 0x203
      ∧ (clear 0x205 → s.copyOutReads c (all 0x205) = false →
          let bytes := s.scatterBytes e
          ((bytes.map fun p => p.1 / 16).eraseDups).length ≤ (s.core c).gateFree →
          ∃ t new, exec (.vstg e) s = .next t ∧ t = s.modCore c (fun k => { k with gate := k.gate ++ new })
            ∧ new.countP (fun x => !x.joined) = ((bytes.map fun p => p.1 / 16).eraseDups).length
            ∧ ∀ x ∈ new, x.org = s.iss.org ∧ s.translate s.iss.src.ctxid x.va .write = .ok x.tgt
                ∧ x.va.toNat / 16 = (x.va.toNat + x.bytes.length - 1) / 16
                ∧ ∀ n, n < x.bytes.length → (bytes.reverse.find? fun p => p.1 == x.va.toNat + n) = some (x.va.toNat + n, x.bytes.getD n 0))
      ∧ (clear 0x208 →
          let off := (s.tileOff e g).toNat
          let n := rowLanes e.ty.toNat
          let fmt := rowFmt e.ty.toNat (e.imm.toNat % 4)
          let ks := (List.range (4 * n)).map fun i => cKey c (off + i)
          s.copyOutReads c ks = false → s.anyLocked c ks = false → s.anyLocked c [cKey c (s.vc e 0).toNat] = false →
          ∃ u, OnlyStored c s u
            ∧ (∀ a, Memory.read u.mem a =
                lastWrite (((s.lanesOn e).filter (· < n)).map fun l => (cKey c (off + 4 * l), s.va e l)) a (Memory.read s.mem a))
            ∧ exec (.vstt e) s = .next (u.feedRow c ((s.vb e 0).toNat % 32) off (s.vc e 0).toNat fmt (u.rowAt c off fmt)))

/-- VLDG, VAMO and VCAS leave one pending result, with the mask at issue: VLDG's bytes of the module's own memory are there at once and the
others asked of their modules, piece by piece, each lane of an atomic sends one request, in lane order; TABLE_ACCESS_COMPLETE lands the
pending results of a core when every lane is there (R54, R56, R145, R237, R240). -/
def Obligations.VectorRequests : Prop :=
  ∀ (s : State) (e : Entry),
    let c := s.iss.core
    let g := s.grp
    let va (l : Nat) : Word := s.globalAt e (s.va e l)
    let keys (l : Nat) : List Nat := s.placeKeys .read (.glob (va l))
    let bytes := s.gatherBytes e (s.laneKeys 0x204 e)
    let far := bytes.filter fun p => keySpace p.2.2 == 8
    let near := (bytes.filter fun p => keySpace p.2.2 != 8).map (·.2.2)
    let pending (u : State) (p : VPend) : Prop :=
      (u.core c).vpend = (s.core c).vpend ++ [p] ∧ p.group = g ∧ p.dest = e.dest.toNat ∧ p.nowb = quiet e
        ∧ p.latch = (if e.capv = 1 then some e.latch.toNat else none) ∧ (∀ l, l < 32 → p.mask.getLsbD l = s.on e g l)
    let atomics (i : Instr) (o : AOp) (op : Nat) : Prop :=
      s.entriesFault [(g, op, e)] = none →
      let r (l : Nat) (t : Target) : Req := ⟨o, va l, t, 4, (s.vb e l).toNat, (s.vc e l).toNat, 0, .lane c g l, s.iss.org, true⟩
      let reqs (host : Bool) : List Req := (s.lanesOn e).filterMap fun l =>
        match s.translate s.iss.src.ctxid (va l) .atomic with
        | .ok t => if (t.cls == 3) = host then some (r l t) else none
        | .error _ => none
      ∃ t p, exec i s = .next t ∧ pending t p ∧ p.vals = [] ∧ t.reqs = s.reqs ++ reqs false
        ∧ t.hostOut = s.hostOut ++ (reqs true).map HostOp.atomic ∧ SameMem s t ∧ ∀ k, t.regs k = s.regs k
    (s.entriesFault [(g, 0x204, e)] = none → s.behindParked near = false → s.anyLocked c near = false → s.loadHurt c near = none →
      (∀ k ∈ near, s.unformed (k / 256) = none) → (∀ q ∈ (s.core c).vpend, q.group ≠ g) →
      ∃ u p, pending u p ∧ { u with cores := s.cores, lineTimes := s.lineTimes, dies := s.dies } = s ∧ (∀ k, u.regs k = s.regs k)
        ∧ (∀ l ∈ s.lanesOn e, p.vals.find l = if (keys l).any (fun k => keySpace k == 8) = true then none
            else some (BitVec.ofNat 32 (leNat ((keys l).map (s.loadByte c)))))
        ∧ exec (.vldg e) s = .next (((far.map fun p => p.1 / 16).eraseDups).foldl
            (fun (w : State) n => w.askPiece (far.filter fun p => p.1 / 16 == n)) u))
    ∧ atomics (.vamo e) (.amo e.fn.toNat) 0x206 ∧ atomics (.vcas e) .cas 0x207
    ∧ ∀ core, let l := (s.core core).vpend
      ((l = [] ∨ ∃ p ∈ l, ∃ n, n < 32 ∧ p.mask.getLsbD n = true ∧ p.vals.find n = none) → exec (.tableAccessComplete core) s = .next s)
        ∧ (∀ p, l = [p] → (∀ n, n < 32 → p.mask.getLsbD n = true → p.vals.find n ≠ none) →
          ∃ t, exec (.tableAccessComplete core) s = .next t ∧ (t.core core).vpend = [] ∧ OnlyCore core s t
            ∧ (∀ n, n < 32 → laneOf ((t.regs core).getV p.group p.dest) n =
                if p.nowb = false ∧ p.mask.getLsbD n = true then p.vals.get n 0 else laneOf ((s.regs core).getV p.group p.dest) n)
            ∧ ∀ m, p.latch = some m → ((t.core core).latch p.group m).landed = true)

/-! Matrix and copy commands. -/

/-- MLEASE and MRELS: the holder of the array sets its count, another core asks; the holder gives the array up at once where no counted
command is outstanding, else when they are complete; another core withdraws its request (R251, R252). The arbiter of a cluster: a free
array is granted to the asking core of highest priority, the first after the last holder among equals, for its count and 8,192 cycles; a
lease whose cycles are over ends where another core asks, and a counted command that is not complete is suspended; a sample command that
has waited 65,536 cycles runs as a counted one (R266). -/
def Obligations.Leases : Prop :=
  (∀ (s : State) (g : Guard) (n : BitVec 4), s.guard g = true →
    let c := s.iss.core
    let l := (s.cluster (clusterOf c)).lease
    let mine := l.holder = some (memberOf c)
    (mine → exec (.mlease g n) s = .next (s.modCluster (clusterOf c) fun k => { k with lease := { l with count := n.toNat + 1 } }))
      ∧ (¬mine → exec (.mlease g n) s = .next (s.modCore c fun k => { k with leaseReq := n.toNat + 1 }))
      ∧ (¬mine → exec (.mrels g) s = .next (s.modCore c fun k => { k with leaseReq := 0, relsPend := k.suspended }))
      ∧ (mine → ∃ t, exec (.mrels g) s = .next t ∧ SameMem s t ∧ (∀ j, t.regs j = s.regs j)
          ∧ (t.cluster (clusterOf c)).lease = (if (s.core c).countedOut then { l with count := 0 } else ⟨none, 0, 0, memberOf c⟩)
          ∧ (t.core c).relsPend = (s.core c).countedOut))
  ∧ (∀ (s : State) (cl : Nat),
    let l := (s.cluster cl).lease
    let core (n : Nat) : Nat := cl * 4 + n
    let asks (n : Nat) : Prop := (s.core (core n)).leaseReq ≠ 0 ∨ (s.core (core n)).suspended = true
    let rank (n : Nat) : Nat := ((s.core (core n)).task.map (·.eprio)).getD 0
    let turn (n : Nat) : Nat := (n + 3 + 4 - l.last % 4) % 4
    (l.holder ≠ none ∨ (∀ n, n < 4 → ¬asks n) → exec (.leaseGrant cl) s = .next s)
    ∧ (∀ n, l.holder = none → n < 4 → asks n → (∀ m, m < 4 → asks m → m ≠ n → rank m < rank n ∨ (rank m = rank n ∧ turn n < turn m)) →
        exec (.leaseGrant cl) s = .next ((s.modCluster cl fun k => { k with lease := ⟨some n, (s.core (core n)).leaseReq, 8192, l.last⟩ }).modCore
          (core n) fun k => { k with leaseReq := 0, suspended := false, grants := (k.grants + 1) % 256 }))
    ∧ (∀ m, m < 4 → l.holder = some m →
        (l.cycles = 0 → (∃ n, n < 4 ∧ n ≠ m ∧ asks n) →
          exec (.leaseExpiry cl) s = .next ((s.modCluster cl fun k => { k with lease := ⟨none, 0, 0, m⟩ }).modCore (core m) fun k =>
            { k with suspended := k.countedOut, relsPend := k.relsPend && k.countedOut }))
        ∧ ((l.cycles ≠ 0 ∨ ∀ n, n < 4 → n ≠ m → ¬asks n) → exec (.leaseExpiry cl) s = .next s))
    ∧ ∀ (c : Nat) (m : MCmd) (rest : List MCmd) (f : MSampF), (s.core c).arrayq = m :: rest → m.instr = .msamp f → m.fetched ≠ 1 →
        (m.waited < 65536 → exec (.msampWaitExpiry c) s = .next s)
        ∧ (65536 ≤ m.waited → exec (.msampWaitExpiry c) s = .next (s.modCore c fun k =>
            { k with arrayq := { m with fetched := 1 } :: rest, suspended := k.suspended || !s.holds c })))

/-- Every other command of the matrix slot, where the spec accepts it and its queue has room, is queued behind the earlier ones with the
register values and the format entry that it captures at issue; MMA and MMAH take one count of the lease; no register changes, and memory
only by the entries of rime regions that the reads of the records and lists form (R125, R250, R251, R254 to R266). -/
def Obligations.MatrixCommands : Prop :=
  ∀ (s : State) (g : Guard), s.guard g = true →
    let c := s.iss.core
    let k := s.core c
    let v (r : SReg) : Nat := (s.rd r).toNat
    let fmt (fsel : BitVec 2) (foff : Nat) : Quad := s.iss.src.fmts.get (((s.iss.src.regs.getLc fsel.toNat).toNat + foff) % 16) 0
    let queued (read t : State) (i : Instr) (array : Bool) (vals : List Word) (f : Quad) : Prop :=
      (∀ j, t.regs j = s.regs j) ∧ (∀ j, j ≠ c → t.core j = s.core j) ∧ SameMem read t
        ∧ ∃ m : MCmd, m.instr = i ∧ m.vals = vals ∧ m.fmt = f ∧ m.chunk = 0 ∧ m.cur = true ∧ m.seq = k.mseq ∧ m.org = s.iss.org
          ∧ (t.core c).slotq = (if array then k.slotq else k.slotq ++ [m]) ∧ (t.core c).arrayq = (if array then k.arrayq ++ [m] else k.arrayq)
    let slot (i : Instr) (vals : List Word) (f : Quad) : Prop := k.slotq.length < 8 → ∃ t, exec i s = .next t ∧ queued s t i false vals f
    let array (read : State) (i : Instr) (vals : List Word) (f : Quad) : Prop := k.arrayq.length < 4 →
      ∃ t, exec i s = .next t ∧ queued read t i true vals f
    let lease := (s.cluster (clusterOf c)).lease
    let counted (read : State) (i : Instr) (vals : List Word) (f : Quad) : Prop :=
      k.arrayq.length < 4 → lease.holder = some (memberOf c) → lease.count ≠ 0 →
        ∃ t, exec i s = .next t ∧ queued read t i true vals f ∧ (t.cluster (clusterOf c)).lease = { lease with count := lease.count - 1 }
    (∀ d n, slot (.mclaim g d n) [] 0) ∧ slot (.mfree g) [] 0
      ∧ (∀ dst src, s.slotMine c dst.toNat = true → s.slotMine c src.toNat = true → slot (.mtran g dst src) [] 0)
      ∧ (∀ f : MLdsF, f.g = g → let size := cBytes f.fmt.toNat
          let pitch := 32 * f.pitch.toNat
          32 * size ≤ pitch → v f.sb % 256 = 0 → s.slotMine c f.slot.toNat = true → s.fmtSuits c (fmt f.fsel f.foff.toNat) false = true →
          v f.sa + 31 * pitch + 32 * size ≤ 2 ^ 22 → v f.sb + 256 ≤ 2 ^ 22 → (isMx f.fmt.toNat = true → v f.sc + 32 ≤ 2 ^ 22) →
          slot (.mlds f) ([s.rd f.sa, s.rd f.sb, s.rd f.sc] ++ (k.slotInjection f.slot.toNat).toList) (fmt f.fsel f.foff.toNat))
      ∧ (∀ (n : BitVec 9) (sa sb sc : SReg) (p : BitVec 5), let f := s.futureFmt c n.toNat
          let size := cBytes (if f = 0 then 3 else f)
          let pitch := 32 * p.toNat
          32 * size ≤ pitch → v sb % 256 = 0 → s.slotMine c n.toNat = true →
          v sa + 31 * pitch + 32 * size ≤ 2 ^ 22 → v sb + 256 ≤ 2 ^ 22 → (isMx f = true → v sc + 32 ≤ 2 ^ 22) →
          slot (.msts g n sa sb sc p) [s.rd sa, s.rd sb, s.rd sc, BitVec.ofNat 64 (32 * size), if isMx f then 32 else 0] 0)
      ∧ (∀ plane, array s (.mzero g plane) [] 0)
      ∧ (∀ f : MSampF, f.g = g → s.fmtSuits c (fmt f.fsel f.foff.toNat) true = true → array s (.msamp f) [s.rd f.sig] (fmt f.fsel f.foff.toNat))
      ∧ (∀ f : MDrainF, f.g = g → let e := fmt f.fsel f.foff.toNat
          let size := cBytes (fmtOut e)
          let pitch := 32 * f.pitch.toNat
          let tiles := (f.reg.rows.toNat + 1) * (f.reg.cols.toNat + 1)
          v f.sb % 256 = 0 → s.fmtSuits c e true = true → regCols f.reg * size ≤ pitch →
          v f.sa + (regRows f.reg - 1) * pitch + regCols f.reg * size ≤ 2 ^ 22 → v f.sb + 256 * tiles ≤ 2 ^ 22 →
          (isMx (fmtOut e) = true → v f.sc + regRows f.reg * (f.reg.cols.toNat + 1) ≤ 2 ^ 22) →
          array s (.mdrain f) [s.rd f.sa, s.rd f.sb, s.rd f.sc] e)
      ∧ (∀ f : MAccldF, f.g = g → let pitch := 32 * f.pitch.toNat
          let tiles := (f.reg.rows.toNat + 1) * (f.reg.cols.toNat + 1)
          v f.sb % 256 = 0 → 4 * regCols f.reg ≤ pitch →
          v f.sa + (regRows f.reg - 1) * pitch + 4 * regCols f.reg ≤ 2 ^ 22 → v f.sb + 256 * tiles ≤ 2 ^ 22 →
          array s (.maccld f) [s.rd f.sa, s.rd f.sb] 0)
      ∧ (∀ f : MmaF, f.g = g →
          (∀ i, i < 8 * (f.chunks.toNat + 1) → s.slotMine c (f.a.toNat + i) = true ∧ s.slotMine c (f.b.toNat + i) = true) →
          s.fmtSuits c (fmt f.fsel f.foff.toNat) true = true →
          counted s (.mma f) (k.injection f.plane.toNat).toList (fmt f.fsel f.foff.toNat))
      ∧ (∀ (f : MmahF) (ra rb : List Byte) (list : List Nat) (s2 s3 s4 : State), f.g = g → let e := fmt f.fsel f.foff.toNat
          let a := Shape.parse ra
          let b := Shape.parse rb
          let y0 := (Coord.of (s.rd f.ac)).rb * a.trows
          let vals := [s.rd f.ar, s.rd f.ac, s.rd f.br, s.rd f.bc]
          let m : MCmd := ⟨.mmah f, vals, e, [ra, rb, list.flatMap (leBytes 4)], 0, 0, [], 0, false, true, 0, s.iss.org⟩
          s.fmtSuits c e true = true → (s.selectFmt f.fsel f.foff.toNat).2.goodRec 3 0x09 (s.rd f.ar) = .ok (ra, s2) →
          s2.goodRec 3 0x09 (s.rd f.br) = .ok (rb, s3) →
          (a.trows = 256 ∧ a.tcols = 32 ∧ a.fmt = fmtA e ∧ (isMx a.fmt = true → a.coldim = 0) ∧ s.carriedOk s.iss.src.ctxid a = true) →
          (b.trows = 32 ∧ b.tcols = 256 ∧ b.fmt = fmtB e ∧ b.idxfmt = 0 ∧ (isMx b.fmt = true → b.rowdim = 0) ∧ s.carriedOk s.iss.src.ctxid b = true) →
          s3.issueList a y0 2 3 (s.matAhead c k.mseq) = .ok (list, s4) →
          (∀ n, n < f.chunks.toNat + 1 → (a.clip = 0 ∨ (m.blockA n).whole = true) ∧ (b.clip = 0 ∨ (m.blockB n).whole = true)) →
          s.fetchFault m (f.chunks.toNat + 1) = none → (∀ q, k.early = some q → q.seq = k.mseq ∧ q.chunk = 0 ∧ q.cur = true ∧ q.org = s.iss.org) →
          counted s4 (.mmah f) (vals ++ (k.injection f.plane.toNat).toList) e)
      ∧ (∀ (f : MDrainhF) (b : List Byte) (list : List Nat) (s2 s3 : State), f.g = g → let e := fmt f.fsel f.foff.toNat
          let r := Shape.parse b
          let w := if f.k = 0 then 0 else s.rd f.k
          let vals := [s.rd f.sr, s.rd f.cw, w]
          let m : MCmd := ⟨.mdrainh f, vals, e, [b, list.flatMap (leBytes 4)], 0, 0, [], 0, false, true, 0, s.iss.org⟩
          contBad w = none → s.fmtSuits c e true = true → (s.selectFmt f.fsel f.foff.toNat).2.goodRec 3 0x0C (s.rd f.sr) = .ok (b, s2) →
          (r.space = 0 ∧ r.fmt = fmtOut e ∧ r.trows = regRows f.reg ∧ r.tcols = regCols f.reg ∧ s.carriedOk s.iss.src.ctxid r = true) →
          s2.issueList r ((Coord.of (s.rd f.cw)).rb * r.trows) 2 3 (s.matAhead c k.mseq) = .ok (list, s3) →
          (r.clip = 0 ∨ m.blockH.whole = true) → s.blockFault m.blockH .write (if r.rime = 0 then none else some .write) = none →
          array s3 (.mdrainh f) vals e)

/-- Every command of the copy slot, where the spec accepts it and the queue has room, is queued behind the earlier ones with the register
values, the records and the list that it captures at issue and the core's command number; a command of the routing engine also takes its
place in the engine's queue, a table fill leaves the shadow bank filling; no register changes, and memory only by the entries of rime
regions that the reads of the records and lists form (R125, R268 to R293). -/
def Obligations.CopyCommands : Prop :=
  ∀ (s : State) (f : XF), s.guard f.g = true →
    let c := s.iss.core
    let ctx := s.iss.src.ctxid
    let k := s.core c
    let word := if f.k = 0 then 0 else s.rd f.k
    let shape (b : List Byte) : Shape := Shape.parse b
    let carried (b : List Byte) : Prop := s.carriedOk ctx (shape b) = true
    let queued (read : State) (i : Instr) (db sb : List Byte) (list : List Nat) (engine fill : Bool) : Prop := k.xq.length < 16 →
      ∃ t x, exec i s = .next t ∧ (t.core c).xq = k.xq ++ [x] ∧ (t.core c).xseq = k.xseq + 1 ∧ (∀ j, t.regs j = s.regs j)
        ∧ (∀ j, j ≠ c → t.core j = s.core j) ∧ SameMem read t
        ∧ x.seq = k.xseq % 65536 ∧ x.ord = k.mseq ∧ x.instr = i ∧ x.dr = s.rd f.dr ∧ x.dc = s.rd f.dc ∧ x.sr = s.rd f.sr ∧ x.sc = s.rd f.sc
        ∧ x.k = word ∧ x.drec = db ∧ x.srec = sb ∧ x.list = list ∧ x.stage = 0 ∧ x.cur = true ∧ x.cout = (f.cout == 1)
        ∧ x.started = (f.cout == 0) ∧ x.org = s.iss.org
        ∧ (t.die (dieOf c)).rq = (if engine then (s.die (dieOf c)).rq ++ [(c, k.mseq)] else (s.die (dieOf c)).rq)
        ∧ (t.core c).shadowSt = (if fill then .filling else k.shadowSt)
    let recs (i : Instr) (db sb : List Byte) (s2 : State) : Prop :=
      contBad word = none ∧ ∃ s1, s.goodRec 4 (xOpcode i) (s.rd f.dr) = .ok (db, s1) ∧ s1.goodRec 4 (xOpcode i) (s.rd f.sr) = .ok (sb, s2)
        ∧ movable (shape db) (shape sb) = true ∧ ((s.xcmd i).moves s.hub.module = true → carried db) ∧ carried sb
    let cmd (i : Instr) (db sb : List Byte) (list : List Nat) : XCmd := { s.xcmd i with drec := db, srec := sb, list := list }
    let whole (b : Block) : Prop := b.r.clip = 0 ∨ b.whole = true
    let reads (b : Block) : Prop := s.blockFault b .read (if b.r.rime = 2 then some .read else none) = none
    let writes (b : Block) : Prop := s.blockFault b .write (if b.r.rime = 0 then none else some .write) = none
    (∀ (i : Instr) (into peer rel : SReg) (op : BitVec 2) (db sb : List Byte) (s2 : State), recs i db sb s2 →
      let x := cmd i db sb []
      let d := shape db
      let r := shape sb
      whole x.dst → whole x.src → reads x.src → (x.moves s.hub.module = true ∨ d.space = 1 ∨ d.space = 2 → writes x.dst) →
      d.idxfmt = 0 → r.idxfmt = 0 →
      (i = .xcopy f → (f.bufv = 0 ∨ d.space ≠ 0) → queued s2 i db sb [] false false)
        ∧ (i = .xput f into → d.space ≠ 0 → s.present (s.rd into) d.space = true → queued s2 i db sb [] false false)
        ∧ (i = .xcoll f peer rel op → (op = 0 ∨ d.fmt = 0 ∨ d.fmt = 1 ∨ d.fmt = 2 ∨ d.fmt = 8) → s.present (s.rd peer) d.space = true →
            (op ≠ 0 → x.moves s.hub.module = true → reads x.dst) → queued s2 i db sb [] false false))
    ∧ (∀ (db sb : List Byte) (s2 : State) (ks : List (List Nat)), recs (.xgath f) db sb s2 → let x := cmd (.xgath f) db sb []
        let d := shape db
        d.idxfmt = 0 → (shape sb).idxfmt ≠ 0 → (f.bufv = 0 ∨ d.space ≠ 0) → (isMx d.fmt = true → d.coldim = 0 ∧ (shape sb).coldim = 0) →
        whole x.dst → whole { x.src with list := List.replicate x.src.r.trows 0 } → s.listIssue c ctx x.src.r x.src.y0 = .ok ks → writes x.dst →
        queued s2 (.xgath f) db sb [] false false)
    ∧ (∀ (db sb : List Byte) (s2 s3 : State) (list : List Nat), recs (.xscat f) db sb s2 → let x := cmd (.xscat f) db sb list
        (shape db).idxfmt ≠ 0 → (shape db).rime = 0 → (shape sb).idxfmt = 0 →
        s2.issueList (shape db) x.dst.y0 1 0 (s.copyAhead c k.mseq) = .ok (list, s3) → whole x.dst → whole x.src → reads x.src → writes x.dst →
        queued s3 (.xscat f) db sb list false false)
    ∧ (∀ (db : List Byte) (s1 s2 : State) (list : List Nat), contBad word = none → s.goodRec 4 0x04 (s.rd f.dr) = .ok (db, s1) → carried db →
        let x := cmd (.xfill f) db [] list
        ((shape db).idxfmt = 0 ∨ (shape db).rime = 0) → (f.bufv = 0 ∨ (shape db).space ≠ 0) →
        s1.issueList (shape db) x.dst.y0 1 0 (s.copyAhead c k.mseq) = .ok (list, s2) → whole x.dst → writes x.dst →
        queued s2 (.xfill f) db [] list false false)
    ∧ (contBad word = none →
        (∀ ks, (s.rd f.sr).toNat % 2 ^ 5 = 0 → s.spanKeys c ctx .g (s.rd f.sr) 64 .read = .ok ks → queued s (.xtbl f) [] [] [] false true)
        ∧ (∀ (first count : BitVec 4) (ks : List Nat), (s.rd f.sr).toNat % 2 ^ 4 = 0 →
            s.spanKeys c ctx .g (s.rd f.sr) (16 * (count.toNat + 1)) .read = .ok ks → queued s (.xfmt f first count) [] [] [] false false)
        ∧ (∀ (clear : BitVec 1) (ks : List Nat), (s.rd f.dr).toNat % 2 ^ 6 = 0 → s.spanKeys c ctx .g (s.rd f.dr) 0x880 .write = .ok ks →
            queued s (.xrsnap f clear) [] [] [] true false)
        ∧ (∀ expert, queued s (.xexpr f expert) [] [] [] true false)
        ∧ (∀ (b : List Byte) (s1 : State) (topk : BitVec 3) (mode : BitVec 2), s.goodRec 4 0x08 (s.rd f.sr) = .ok (b, s1) →
            ((shape b).fmt = 0 ∨ (shape b).fmt = 2) → (shape b).rank = 2 → (shape b).trows = 32 → queued s1 (.xroute f topk mode) [] b [] true false)
        ∧ (∀ (b : List Byte) (s1 : State) (expert : SReg), s.goodRec 4 0x0A (s.rd f.sr) = .ok (b, s1) → (shape b).idxfmt = 0 → carried b →
            whole (cmd (.xexpa f expert) [] b []).src → s.blockFault (cmd (.xexpa f expert) [] b []).src .read
              (if (shape b).rime = 2 then some .read else none) = none → queued s1 (.xexpa f expert) [] b [] true false)
        ∧ (∀ (b : List Byte) (s1 : State) (mode : BitVec 2), s.goodRec 4 0x0D (s.rd f.dr) = .ok (b, s1) → (shape b).rime ≠ 0 → (shape b).idxfmt = 0 →
            (mode = 2 → (shape b).rime = 2) → carried b → (shape b).inSlot = false → whole (cmd (.xrime f mode) b [] []).dst →
            s.blockFault (cmd (.xrime f mode) b [] []).dst .read (if mode = 1 then some .read else none) = none →
            (mode ≠ 1 → s.blockFault (cmd (.xrime f mode) b [] []).dst .read (some .write) = none) → queued s1 (.xrime f mode) b [] [] false false))

/-! Events of the array and the copy engine. -/

/-- SLOT_COMMAND_COMPLETE performs the command at the head of a core's slot queue: MCLAIM takes the lowest free run, or answers all ones;
MFREE frees what the core claims; MLDS fills its slot from the C space, checked against its entry; MSTS writes the slot's rows; MTRAN
transposes a slot into another (R254 to R258). -/
def Obligations.SlotCommands : Prop :=
  ∀ (s : State) (c : Nat) (m : MCmd) (rest : List MCmd), (s.core c).slotq = m :: rest → s.slotReady c m = true →
    let cl := clusterOf c
    let v (n : Nat) : Nat := (m.vals.getD n 0).toNat
    let i : Instr := .slotCommandComplete c
    let free (b n : Nat) : Prop := ∀ j, j < n → (s.slot cl (b + j)).owner = .free
    (∀ g d n, m.instr = .mclaim g d n → let n := n.toNat + 1
      (∀ b, (s.core c).claim = none → b + n ≤ 512 → free b n → (∀ a, a < b → ¬free a n) → ∃ t, exec i s = .next t
        ∧ (t.core c).claim = some (b, n) ∧ (t.core c).slotq = rest ∧ SameMem s t
        ∧ (∀ j, (t.slot cl j).owner = if b ≤ j ∧ j < b + n then .core c else (s.slot cl j).owner)
        ∧ (t.regs c).getS d.toNat = (if d = 0 then 0 else BitVec.ofNat 64 b) ∧ OtherScalarsKept c [d.toNat] s t)
      ∧ (((s.core c).claim ≠ none ∨ ∀ b, b + n ≤ 512 → ¬free b n) → ∃ t, exec i s = .next t ∧ (t.core c).slotq = rest ∧ t.clusters = s.clusters
        ∧ (t.regs c).getS d.toNat = (if d = 0 then 0 else BitVec.allOnes 64) ∧ OtherScalarsKept c [d.toNat] s t ∧ SameMem s t))
    ∧ (∀ g, m.instr = .mfree g → ∃ t, exec i s = .next t ∧ (t.core c).slotq = rest ∧ (t.core c).claim = none ∧ SameMem s t ∧ t.regs c = s.regs c
        ∧ ((s.core c).claim ≠ none → ∀ j o, (s.cluster cl).slots.find j = some o → (t.slot cl j).owner = (if o.owner = .core c then .free else o.owner)))
    ∧ (∀ f : MLdsF, m.instr = .mlds f → s.poison = [] → (s.core c).noEntry = true → m.inj = false →
        let size := cBytes f.fmt.toNat
        ∃ t, exec i s = .next t ∧ SameMem s t ∧ t.regs c = s.regs c ∧ (t.core c).slotq = rest
          ∧ (∀ j, j ≠ f.slot.toNat → t.slot cl j = s.slot cl j)
          ∧ let o := t.slot cl f.slot.toNat
            o.fmt = f.fmt.toNat ∧ o.unver = true ∧ o.krows = (f.krows == 1) ∧ o.owner = (s.slot cl f.slot.toNat).owner ∧ o.poison = []
              ∧ ∀ a b, a < 32 → b < 32 → o.elem a b =
                  containerOf f.fmt.toNat (s.num (cKey c (v 0 + a * f.pitch.toNat * 32 + b * size)) size) % 2 ^ 16)
    ∧ (∀ g slot sa sb sc pitch, m.instr = .msts g slot sa sb sc pitch → let o := s.slot cl slot.toNat
        let size := cBytes (if o.fmt = 0 then 3 else o.fmt)
        let p := 32 * pitch.toNat
        o.poison = [] → isMx o.fmt = false → 32 * size ≤ p → v 0 + 31 * p + 32 * size ≤ 2 ^ 22 → v 1 + 256 ≤ 2 ^ 22 →
        (v 1 + 256 ≤ v 0 ∨ v 0 + 31 * p + 32 * size ≤ v 1) →
        ∃ t, exec i s = .next t ∧ (t.core c).slotq = rest ∧ t.regs c = s.regs c ∧ t.clusters = s.clusters
          ∧ (∀ a b, a < 32 → b < 32 → t.num (cKey c (v 0 + a * p + b * size)) size = o.elem a b % 2 ^ (8 * size))
          ∧ (∀ a, (∀ r n, r < 32 → n < 32 * size → a ≠ cKey c (v 0 + r * p + n)) → (∀ n, n < 256 → a ≠ cKey c (v 1 + n)) →
              Memory.read t.mem a = Memory.read s.mem a))
    ∧ (∀ g dst src, m.instr = .mtran g dst src → ∃ t, exec i s = .next t ∧ (t.core c).slotq = rest ∧ t.regs c = s.regs c
        ∧ (∀ j, j ≠ dst.toNat → t.slot cl j = s.slot cl j)
        ∧ let o := s.slot cl src.toNat
          let u := t.slot cl dst.toNat
          (o.poison = [] → SameMem s t ∧ u.poison = []) ∧
          u.fmt = o.fmt ∧ u.krows = !o.krows ∧ u.owner = (s.slot cl dst.toNat).owner ∧ u.scales = o.scales ∧ u.unver = o.unver
            ∧ (∀ a b, a < 32 → b < 32 → u.elem a b = o.elem b a)
            ∧ ∀ n, n < 32 → u.rime.getD n 0 = o.rime.getD (n + 32) 0 ∧ u.rime.getD (n + 32) 0 = o.rime.getD n 0)

/-- K_CHUNK performs the next chunk of the command at the head of a core's array queue: each cell takes its operation over the 32 products,
the margin row, column and corner the plain one over the tiles' sums, and the chunk is counted; slots that do not fit the format entry
refuse the command before its first chunk; MMAH_FETCH stages the next 16 tiles of an MMAH (R115, R130, R257, R259 to R262). -/
def Obligations.ArrayChunks : Prop :=
  ∀ (s : State) (c : Nat) (m : MCmd) (rest : List MCmd), (s.core c).arrayq = m :: rest →
    (∀ plane n pat acc, m.run = some (plane, n, pat, acc) →
      let tiles := s.chunkTiles c m
      let p := if m.chunk = 0 ∧ acc = false then Plane.zero else s.plane c plane
      let f := match m.instr with | .msamp x => sampleFeed x.seed.toNat m.chunk | _ => feedOf tiles.1 tiles.2 m.fmt
      let g := groupSize m.fmt
      let cell (op : Nat) (a : Lane) (x y : List FVal) : Lane := (cellChunk op g (isMx (fmtA m.fmt)) (fmtNanz m.fmt) a x y).1
      ((s.chunkReady c m = false ∨ s.chunkMay c m = false) → exec (.kChunk c) s = .next s)
      ∧ (s.chunkReady c m = true → s.chunkMay c m = true → m.chunk = 0 → s.layoutOk c m = false →
          exec (.kChunk c) s = .next (s.lateFault m.org (refused (arrayLoc c) 3 (mOpcode m.instr) 1 4 none)))
      ∧ (s.chunkReady c m = true → s.chunkMay c m = true → (m.chunk = 0 → s.layoutOk c m = true) → m.inj = false →
          (∀ o ∈ tiles.1 ++ tiles.2, o.hurt = false) → p.poison = [] →
          ∃ t, exec (.kChunk c) s = .next t ∧ SameMem s t ∧ t.regs c = s.regs c ∧ t.clusters = s.clusters
            ∧ (t.core c).arrayq = { m with chunk := m.chunk + 1, staged := m.staged.drop 1 } :: rest
            ∧ (∀ k, k ≠ plane → t.plane c k = s.plane c k)
            ∧ let q := t.plane c plane
              (∀ i j, i < 256 → j < 256 → q.at i j = cell (pat / 4 ^ (m.chunk % 4) % 4) (p.at i j) (f.a.getD i []) (f.b.getD j []))
                ∧ (∀ j, j < 256 → laneOf q.mrow j = cell 0 (laneOf p.mrow j) f.fa (f.b.getD j []))
                ∧ (∀ i, i < 256 → laneOf q.mcol i = cell 0 (laneOf p.mcol i) (f.a.getD i []) f.fb)
                ∧ q.corner = cell 0 p.corner f.fa f.fb ∧ q.ksteps = min (p.ksteps + 1) (2 ^ 32 - 1)
                ∧ q.nocheck = (p.nocheck || pat / 4 ^ (m.chunk % 4) % 4 != 0) ∧ q.unver = (p.unver || (tiles.1 ++ tiles.2).any (·.unver))))
    ∧ (∀ f : MmahF, m.instr = .mmah f → (s.core c).fetching = some m →
        let a := m.blockA m.fetched
        let b := m.blockB m.fetched
        let keys := s.blockKeys a.asRead .read ++ s.blockKeys b.asRead .read
        s.matAhead c m.seq keys = false → s.farNeeds m.farName keys = [] → (∀ k ∈ keys, s.unformed (k / 256) = none) → s.poison = [] →
        (s.core c).noEntry = true →
        ∃ t tiles, exec (.mmahFetch c) s = .next t ∧ SameMem s t ∧ t.regs c = s.regs c
          ∧ (t.core c).arrayq = (m :: rest).map (fun (q : MCmd) =>
              if q.seq = m.seq then { q with fetched := m.fetched + 1, staged := q.staged ++ [tiles] } else q)
          ∧ tiles.length = 16
          ∧ ∀ n i j, n < 8 → i < 32 → j < 32 →
              (tiles.getD n OSlot.clear).elem i j = containerOf a.r.fmt (s.tileBits a .read n 0 i j).1 % 2 ^ 16
                ∧ (tiles.getD (8 + n) OSlot.clear).elem i j = containerOf b.r.fmt (s.tileBits b .read 0 n i j).1 % 2 ^ 16)

/-- PLANE_COMMAND_COMPLETE ends the command at the head of a core's array queue: an array command whose chunks are done leaves it, with the
lease where it was the last, and a sample's signature is compared; MZERO clears its plane; an unchecked MACCLD loads a region of it, an
unchecked MDRAIN writes the region's converted elements to the C space, an unchecked MDRAINH sends them to memory, where
MDRAINH_WRITES_PERFORMED completes them with the continuation, those in another module when they are acknowledged there (R82, R252, R263
to R266, R273, R403). -/
def Obligations.PlaneCommands : Prop :=
  ∀ (s : State) (c : Nat),
    let i : Instr := .planeCommandComplete c
    let t := (s.modCore c fun k => { k with arrayq := k.arrayq.drop 1 }).endLease c
    (∀ (m : MCmd) (rest : List MCmd), (s.core c).arrayq = m :: rest →
      let v (n : Nat) : Nat := (m.vals.getD n 0).toNat
      (∀ plane n pat acc, m.run = some (plane, n, pat, acc) → (m.chunk < n → exec i s = .next s)
        ∧ (n ≤ m.chunk → (∀ f, m.instr ≠ .msamp f) → exec i s = .next t)
        ∧ (∀ f : MSampF, n ≤ m.chunk → m.instr = .msamp f → (t.plane c plane).signature = m.vals.getD 0 0 → exec i s = .next t)
        ∧ (∀ f : MSampF, n ≤ m.chunk → m.instr = .msamp f → (t.plane c plane).signature ≠ m.vals.getD 0 0 →
            exec i s = .next ((t.modCore c fun k => { k with csrs := { k.csrs with
              sampcnt := BitVec.ofNat 64 (min (k.csrs.sampcnt.toNat + 1) (2 ^ 32 - 1)) } }).cmdFail m.cur m.org
                (mkRec 0x34 1 (arrayLoc c) (leBytes 8 ((t.plane c plane).signature ^^^ m.vals.getD 0 0).toNat ++ leBytes 1 0 ++ leBytes 1 plane
                  ++ leBytes 2 n) none (some m.org)))))
      ∧ (∀ g plane, m.instr = .mzero g plane → ∃ u, exec i s = .next u ∧ u.plane c plane.toNat = Plane.zero
          ∧ (∀ k, k ≠ plane.toNat → u.plane c k = s.plane c k) ∧ (u.core c).arrayq = rest ∧ SameMem s u ∧ u.regs c = s.regs c)
      ∧ (∀ f : MAccldF, m.instr = .maccld f → s.poison = [] → (s.core c).noEntry = true → ∃ u, exec i s = .next u ∧ SameMem s u
          ∧ u.regs c = s.regs c ∧ (u.core c).arrayq = rest ∧ (∀ k, k ≠ f.plane.toNat → u.plane c k = s.plane c k)
          ∧ let q := u.plane c f.plane.toNat
            q.ksteps = 1 ∧ q.unver = true ∧ q.nocheck = false ∧ ∀ a b, a < 256 → b < 256 → q.at a b =
              let r := f.reg
              if 32 * r.tr.toNat ≤ a ∧ a < 32 * r.tr.toNat + regRows r ∧ 32 * r.tc.toNat ≤ b ∧ b < 32 * r.tc.toNat + regCols r then
                BitVec.ofNat 32 (s.num (cKey c (v 0 + (a - 32 * r.tr.toNat) * f.pitch.toNat * 32 + 4 * (b - 32 * r.tc.toNat))) 4)
              else 0)
      ∧ (∀ f : MDrainF, m.instr = .mdrain f → s.copyAhead c m.seq (cRangeKeys c m.cWrites) = false →
          let p := s.plane c f.plane.toNat
          let conv := p.convert m.fmt f.reg
          let size := cBytes (fmtOut m.fmt)
          let pitch := 32 * f.pitch.toNat
          let last := v 0 + (regRows f.reg - 1) * pitch + regCols f.reg * size
          let tiles := 256 * (f.reg.rows.toNat + 1) * (f.reg.cols.toNat + 1)
          p.poison = [] → (p.nocheck = true ∨ (s.core c).noDrain = true) → isMx (fmtOut m.fmt) = false → regCols f.reg * size ≤ pitch →
          last ≤ 2 ^ 22 → v 1 + tiles ≤ 2 ^ 22 → (v 1 + tiles ≤ v 0 ∨ last ≤ v 1) →
          ∃ u, exec i s = .next u ∧ u.regs c = s.regs c ∧ (u.core c).arrayq = rest ∧ (u.core c).planes = (s.core c).planes
            ∧ ∀ a b, a < regRows f.reg → b < regCols f.reg →
                u.num (cKey c (v 0 + a * pitch + b * size)) size = (laneOf (conv.1.getD a []) b).toNat % 2 ^ (8 * size))
      ∧ (∀ f : MDrainhF, m.instr = .mdrainh f → let p := s.plane c f.plane.toNat
          let conv := p.convert m.fmt f.reg
          p.poison = [] → (p.nocheck = true ∨ (s.core c).noDrain = true) → ∃ u, exec i s = .next u ∧ SameMem s u ∧ u.regs c = s.regs c
            ∧ (u.core c).arrayq = rest ∧ (u.core c).drains = (s.core c).drains ++ [⟨m, conv.1, conv.2.1, true, false⟩]))
    ∧ ∀ (d : DrainOut) (rest : List DrainOut), (s.core c).drains = d :: rest →
      let m := d.cmd
      let b := m.blockH
      let u := (s.modCore c fun k => { k with drains := rest }).sealIf m.cur m.org
      let writes := s.blockKeys b .write
      let far (s : State) : Prop := exec (.mdrainhWritesPerformed c) s = .next s
      let free : Prop := d.sent = false ∧ (s.readsAhead c m.seq writes || s.behindParked writes) = false ∧ s.hostCut b = false
        ∧ (b.r.packed = true → s.farNeeds m.farName (s.dataKeys b .write) = [])
      (d.sent = true → s.farOut m.farName 4 = true → far s)
      ∧ (d.sent = false → (s.readsAhead c m.seq writes = true ∨ s.behindParked writes = true) → far s)
      ∧ (d.sent = false → (s.readsAhead c m.seq writes || s.behindParked writes) = false → s.hostCut b = true →
          exec (.mdrainhWritesPerformed c) s = .next (u.dropHostWrite 4 b.firstAddr m.org))
      ∧ (free → (∃ k ∈ writes, keySpace k = 8) → exec (.mdrainhWritesPerformed c) s = .next
          (((s.modCore c fun k => { k with drains := { d with sent := true } :: rest }).sealIf m.cur m.org).drainWrites d writes))
      ∧ (∀ v, (d.sent = true ∧ s.farOut m.farName 4 = false ∧ v = u) ∨ (free ∧ (∀ k ∈ writes, keySpace k ≠ 8) ∧ v = u.drainWrites d writes) →
          ∃ w : Word, exec (.mdrainhWritesPerformed c) s = .next (v.finishCont m.cur m.org 2 (m.vals.getD 2 0) w)
            ∧ w.toNat % 2 ^ 32 = (b.cells.countP fun p => (b.at p.1 p.2).1) % 2 ^ 32)

/-! Events of the copy engine, the routing engine and the cores. -/

/-- The copy engine: XGATH_ROW_STEP captures the rows that the list selects; XTBL_HEADER_CHECK and FILL_COMPLETE check an image and write its
entries into the shadow bank, rejecting those that do not suit their class; XCOLL_RELEASE performs a step at its tick; X_COMMAND_COMPLETE
performs a copy or a fill on the elements in extent and no other byte, takes the command out of the queue and sends its continuation with
the completion word (R58, R59, R268, R272, R273, R277, R280, R282, R285, R287, R411). -/
def Obligations.CopyEvents : Prop :=
  ∀ (s : State) (c n : Nat) (x : XCmd) (rest : List XCmd), takeAt (s.core c).xq n = some (x, rest) → s.poison = [] →
    let k := s.core c
    let put (y : XCmd) : List XCmd := k.xq.map fun z => if z.name = x.name then y else z
    let left : List XCmd := k.xq.filter fun z => z.name != x.name
    let oldest : Prop := ∀ y ∈ k.xq, y.filling = true → y.stage < 3 → x.ord ≤ y.ord
    let after (st : ShadowSt) : ShadowSt := if ∃ y ∈ k.xq, y.filling = true ∧ y.name ≠ x.name ∧ y.stage < 3 then .filling else st
    let read (ks : List Nat) : Prop := s.farNeeds x.farName ks = [] ∧ ∀ a ∈ ks, s.unformed (a / 256) = none
    let noted (ks : List Nat) : State := if s.counts x then s.noteReadKeys c ks else s
    let dst := x.dst
    let src := x.src
    let ended (t : State) (status valid : Nat) : Prop :=
      (t.core c).xq = left ∧ (∀ j, t.regs j = s.regs j)
        ∧ t.conts = (if x.nocont = true ∨ contKind x.k = 0 then s.conts else
            s.conts ++ [⟨.tdec x.k (BitVec.ofNat 64 (x.seq % 65536 * 2 ^ 48 + status * 2 ^ 32 + valid % 2 ^ 32)), 1, x.org, none,
              (if xPath x.instr = 4 then 12 else 7, 0)⟩])
    (∀ f ks, x.instr = .xgath f → x.stage = 0 → x.refetch = false → k.inEngine x = true → s.listKeys c x.org.ctx src.r src.y0 = .ok ks →
      s.copyAhead c x.ord ks.flatten = false → read ks.flatten →
      let y : XCmd := { x with list := s.listVals ks, stage := 1 }
      (y.src.r.clip = 0 ∨ y.src.whole = true) → s.blockFault y.src .read none = none →
      ∃ t, exec (.xgathRowStep c n) s = .next t ∧ (t.core c).xq = put y ∧ SameMem s t ∧ ∀ j, t.regs j = s.regs j)
    ∧ (∀ f ks, x.instr = .xtbl f → oldest → s.spanKeys c x.org.ctx .g x.sr 64 .read = .ok ks → read ks →
      let h := ImageHead.parse (ks.map (Memory.read s.mem))
      (x.stage = 0 → k.inEngine x = false → exec (.xtblHeaderCheck c n) s = .next s)
      ∧ (∀ all, x.stage = 0 → k.inEngine x = true → h.bad = none → s.spanKeys c x.org.ctx .g x.sr h.size .read = .ok all →
        exec (.xtblHeaderCheck c n) s = .next ((noted ks).modCore c fun k => { k with xq := put { x with stage := 1 } }))
      ∧ (∀ e, x.stage = 0 → k.inEngine x = true → h.bad = some e →
        exec (.xtblHeaderCheck c n) s =
          .next (((noted ks).modCore c fun k => { k with xq := put { x with stage := 3, status := 2, valid := 0 }, shadowSt := after .failed }).post
            (mkRec 8 0 (locCore 7 c 0xFF) (leBytes 1 0 ++ leBytes 1 e) (some x.sr) (some x.org))))
      ∧ (∀ all, x.stage = 1 → h.bad = none → s.spanKeys c x.org.ctx .g x.sr h.size .read = .ok all → read all → k.banks.length = 2 → k.active < 2 →
        let b := all.map (Memory.read s.mem)
        let entry (g j : Nat) : Quad × Bool :=
          let cls := byteNum b (0x40 + j) 1
          let i := h.gmap.getD g 0xFF
          if i = 0xFF then (vnopAt (BitVec.ofNat 3 cls), false)
          else acceptEntry (BitVec.ofNat 128 (byteNum b (0x40 + h.c + (i * h.n + j) * 16) 16)) cls
        let old := k.banks.getD (1 - k.active) Bank.clear
        ImageHead.parse b = h → (∀ j, j < h.n → byteNum b (0x40 + j) 1 < 8) →
        ∃ t, exec (.fillComplete c n) s = .next t ∧ SameMem s t
          ∧ { t.core c with banks := k.banks, reject := k.reject, phase := k.phase } =
              { k with xq := put { x with stage := 3, valid := h.n }, shadowSt := after .complete }
          ∧ (t.core c).reject =
              min (k.reject + ((List.range 16).flatMap fun g => (List.range h.n).map fun j => entry g j).countP (·.2)) 0xFFFF
          ∧ (t.core c).banks.getD k.active Bank.clear = k.banks.getD k.active Bank.clear
          ∧ let new := (t.core c).banks.getD (1 - k.active) Bank.clear
            (∀ g j, g < 16 → j < h.n → new.entries.get (g * 1024 + h.first + j) 0 = (entry g j).1)
              ∧ (∀ m, (∀ g j, g < 16 → j < h.n → m ≠ g * 1024 + h.first + j) → new.entries.get m 0 = old.entries.get m 0)
              ∧ (∀ j, j < h.n → (new.cls.get (h.first + j) 0).toNat = byteNum b (0x40 + j) 1)
              ∧ new.img = x.sr))
    ∧ (∀ f p r op m, x.instr = .xcoll f p r op →
        (s.frame < x.e2.toNat → exec (.xcollRelease c n) s = .next s)
        ∧ (k.inEngine x = true → x.stage = 0 → x.e2.toNat ≤ s.frame → s.pathAhead c 3 x.ord (s.xReads x ++ s.xWrites x) = false →
            s.farNeeds x.farName (s.xReads x) = [] → (∀ a ∈ s.xData x, s.unformed (a / 256) = none) →
            (coreidModule x.e1 ≠ s.hub.module → exec (.xcollRelease c n) s = .next (s.sendBlock c x op.toNat))
            ∧ (coreidModule x.e1 = s.hub.module → (if op = 0 then s.moveBlock x else s.reduceBlock x op.toNat) = .ok m →
              exec (.xcollRelease c n) s = .next ((m.state.flushFar x.org x.farName (s.xWrites x)).modCore c fun k => { k with
                xq := k.xq.map fun z => if z.name = x.name then { x with stage := 3, status := m.flags, valid := m.valid } else z }))))
    ∧ (x.stage = 3 → (s.farOut x.farName 4 = true ∨ s.passOut x = true) → exec (.xCommandComplete c n) s = .next s)
    ∧ (x.stage = 3 → s.farOut x.farName 4 = false → s.passOut x = false → ∃ t, exec (.xCommandComplete c n) s = .next t ∧ SameMem s t ∧ ended t x.status x.valid)
    ∧ (k.inEngine x = true → x.stage = 0 → x.refetch = false → s.pathAhead c 1 x.ord (s.xReads x ++ s.xWrites x) = false →
      s.farNeeds x.farName (s.xReads x) = [] → (∀ a ∈ s.xData x, s.unformed (a / 256) = none) → (∀ a ∈ s.xWrites x, keySpace a ≠ 8) →
      dst.r.space ≠ 0 → dst.r.rime = 0 → dst.r.idxfmt = 0 → (dst.r.fmt = 0 ∨ dst.r.fmt = 8) → s.hostCut dst = false →
      let inside := dst.cells.filter fun p => (dst.at p.1 p.2).1
      let keys (p : Nat × Nat) : List Nat := match s.elemKeys dst .write (dst.at p.1 p.2).2 with | .ok ks => ks.1 | .error _ => []
      (∀ p ∈ inside, (keys p).length = 4 ∧ (keys p).Nodup) →
      (∀ p ∈ inside, ∀ q ∈ inside, p = q ∨ ∀ a ∈ keys p, a ∉ keys q) →
      let moved (v : Nat × Nat → Nat) (valid : Nat) : Prop :=
        ∃ t, exec (.xCommandComplete c n) s = .next t ∧ (∀ p ∈ inside, (keys p).map (Memory.read t.mem) = leBytes 4 (v p))
          ∧ (∀ a, (∀ p ∈ inside, a ∉ keys p) → Memory.read t.mem a = Memory.read s.mem a)
          ∧ ended t (if valid = dst.r.trows * dst.r.tcols then 0 else 1) valid
      (∀ f, x.instr = .xfill f → moved (fun _ => x.sr.toNat % 2 ^ 32) inside.length)
        ∧ (∀ f, x.instr = .xcopy f → (∀ a ∈ s.dataKeys src .read, a ∉ s.dataKeys dst .write) →
            moved (fun p => s.cellBits src .read p.1 p.2) (dst.cells.countP fun p => (dst.at p.1 p.2).1 && (src.at p.1 p.2).1)))

/-- The routing engine: ROUTE_PASS serves the oldest command of a die's queue that its core's engine has begun: an expert that is resident is acquired or released by
one reference; another takes the first slot from the clock's hand that holds no reference, no USE and no load, and its load begins;
EXPERT_SLOT_LOAD_DONE makes the slot resident; a snapshot writes the counters, the flags, FRAME and the passes, and clears them where it is
asked to; a pass counts its selections and is counted (R290, R291, R296, R298, R301 to R303). -/
def Obligations.RoutingEngine : Prop :=
  ∀ (s : State) (c ord : Nat) (x : XCmd), s.rqNext (dieOf c) = some (c, ord) → s.rqHead (c, ord) = some x → s.poison = [] →
    let d := dieOf c
    let e := s.die d
    let rest := e.rq.filter (· ≠ (c, ord))
    let id := x.e1.toNat % 2 ^ 16
    let put (y : XCmd) : List XCmd := (s.core c).xq.map fun z => if z.name = x.name then y else z
    let slot (m : Nat) : Expert := e.experts.get m Expert.empty
    (x.stage ≠ 0 → exec (.routePass d) s = .next s)
    ∧ (∀ f r n o, x.instr = .xexpa f r → x.stage = 0 → slotNeed x.src.r ≤ s.hub.slotsz → e.expertOf x.org.ctx id = some (n, o) →
      o.st = .resident → o.refs ≠ 0xFFFF → ∃ t, exec (.routePass d) s = .next t ∧ SameMem s t ∧ (t.core c).xq = put { x with stage := 3, valid := n }
        ∧ t.die d = { e with experts := e.experts.set n { o with refs := o.refs + 1, use := true }, rq := rest })
    ∧ (∀ f r m, x.instr = .xexpa f r → x.stage = 0 → slotNeed x.src.r ≤ s.hub.slotsz → e.expertOf x.org.ctx id = none → e.hand < 64 → m < 64 →
      let n := (e.hand + m) % 64
      let passed (j : Nat) : Prop := ∃ i, i < m ∧ j = (e.hand + i) % 64
      (slot n).st ≠ .loading → (slot n).refs = 0 → (slot n).use = false →
      (∀ j, passed j → (slot j).st = .loading ∨ (slot j).refs ≠ 0 ∨ (slot j).use = true) →
      ∃ t, exec (.routePass d) s = .next t ∧ SameMem s t ∧ (t.core c).xq = put { x with stage := 2, valid := n } ∧ (t.die d).rq = e.rq
        ∧ (t.die d).hand = (n + 1) % 64
        ∧ (t.die d).experts.get n Expert.empty = ⟨x.org.ctx, id, 0, false, .loading⟩
        ∧ (∀ j, passed j → (t.die d).experts.get j Expert.empty = { slot j with use := false })
        ∧ ∀ j, j ≠ n → ¬passed j → (t.die d).experts.get j Expert.empty = slot j)
    ∧ (∀ f r, x.instr = .xexpr f r → x.stage = 0 →
      (e.expertOf x.org.ctx id = none → ∃ t, exec (.routePass d) s = .next t ∧ SameMem s t
        ∧ (t.core c).xq = put { x with stage := 3, valid := 0xFFFFFFFF } ∧ t.die d = { e with rq := rest })
      ∧ ∀ n o, e.expertOf x.org.ctx id = some (n, o) → o.st = .resident → ∃ t, exec (.routePass d) s = .next t ∧ SameMem s t
        ∧ (t.core c).xq = put { x with stage := 3, valid := o.refs - 1 }
        ∧ t.die d = { e with experts := e.experts.set n { o with refs := o.refs - 1 }, rq := rest })
    ∧ (∀ f r, x.instr = .xexpa f r → x.stage = 2 → x.src.r.rime ≠ 2 → slotNeed x.src.r ≤ s.hub.slotsz →
      s.farNeeds x.farName (s.blockKeys x.src.asRead .read) = [] → (∀ a ∈ s.dataKeys x.src .read, s.unformed (a / 256) = none) →
      ∃ t, exec (.expertSlotLoadDone d) s = .next t
        ∧ (t.core c).xq = put { x with stage := 3, status := if x.src.tiles = [] then 0 else 512 }
        ∧ t.die d = { e with experts := e.experts.set x.valid { slot x.valid with refs := 1, use := true, st := .resident }, rq := rest }
        ∧ ∀ a, (∀ o, o < s.hub.slotsz → a ≠ s.slotKey d x.valid o) → Memory.read t.mem a = Memory.read s.mem a)
    ∧ (∀ f clear ks, x.instr = .xrsnap f clear → x.stage = 0 → s.spanKeys c x.org.ctx .g x.dr 0x880 .write = .ok ks → ks.Nodup →
      ks.any s.cut = false →
      (∀ n, n < 0x44 → ∃ a, s.translate x.org.ctx (BitVec.ofNat 64 (x.dr.toNat + 32 * n)) .write = .ok a ∧ a.rc = false
        ∧ ∀ i, i < 32 → ks.getD (32 * n + i) 0 = a.key + i) →
      ∃ t, exec (.routePass d) s = .next t ∧ (t.core c).xq = put { x with stage := 3, valid := min e.passes 0xFFFFFFFF }
        ∧ Stored s t ks ((List.range 512).flatMap (fun n => leBytes 4 (e.counters.get n 0))
            ++ (List.range 64).map (fun n => BitVec.ofNat 8 ((List.range 8).foldl (fun a i => a + (if e.sticky.contains (8 * n + i) then 2 ^ i else 0)) 0))
            ++ leBytes 8 s.frame ++ leBytes 8 e.passes ++ List.replicate 48 0)
        ∧ t.die d = (if clear = 1 then { e with counters := [], sticky := [], passes := 0, rq := rest } else { e with rq := rest }))
    ∧ (∀ f topk mode p s1, x.instr = .xroute f topk mode → x.stage = 0 → s.startPass x (topk.toNat + 1) = .ok (p, s1) → p.desc.recbase = 0 →
      s.hub.pcieUp = true → (∀ i, e.counters.get i 0 < 2 ^ 32) →
      ∃ t, exec (.routePass d) s = .next t ∧ (∀ j, t.regs j = s.regs j) ∧ (t.core c).xq = put { x with stage := 3, valid := p.tokens }
        ∧ (t.die d).rq = rest ∧ (t.die d).passes = min (e.passes + 1) (2 ^ 64 - 1)
        ∧ ∀ i, (t.die d).counters.get i 0 = min (e.counters.get i 0 + (p.run (topk.toNat + 1) mode.toNat).sel.get i 0) 0xFFFFFFFF)

/-- The cores between bundles: SAVE_COMPLETE writes the save area, marks the record, frees the core and queues the task again;
GATE_RELEASE_COMPLETE performs the released stores in their order, sends what was held and starts the copy-outs; SWITCH_ARRIVAL counts a
member, and the last one gives every member its tick; SWITCH_ABORT marks the round; SWAP_TICK swaps the banks (R42, R44, R45, R61, R140,
R153, R276, R376). -/
def Obligations.CoreEvents : Prop :=
  ∀ (s : State) (c : Nat),
    let k := s.core c
    let o := s.releaseOrg c
    (∀ b kb key, k.task = some b → k.hold = .saving → b.gang = false →
      (s.canSave c = false → exec (.saveComplete c) s = .next s)
      ∧ (s.canSave c = true → s.areaKeys b.ctx b.area .write (s.saveArea c b.spill) = .ok kb → (kb.map (·.1)).Nodup →
        s.recKey b.ctx b.record = some key → s.savedHurt c b.spill = [] → (s.coresOf b.serial).length = 1 → s.saveOf c b.serial = none →
        ∃ t q, exec (.saveComplete c) s = .next t ∧ (t.core c).task = none ∧ (t.core c).hold = .none
          ∧ (t.die (dieOf c)).queue = q ++ [⟨b.record, b.ctx, b.ready, b.prio, b.eprio, b.stage, b.gang, b.clmask, b.wide, b.coolcls, b.release,
              none, false, true, 0, b.value0⟩]
          ∧ q.map (·.record) = (s.die (dieOf c)).queue.map (·.record)
          ∧ Memory.read t.mem (key + 0x0C) = 3 ∧ (Memory.read t.mem (key + 0x1B)).getLsbD 1 = true
          ∧ ∀ p ∈ kb, p.1 ≠ key + 0x0C → p.1 ≠ key + 0x1B → Memory.read t.mem p.1 = p.2))
    ∧ ((k.committing = false ∨ s.canRelease c = false ∨ s.canSend c = false) → exec (.gateReleaseComplete c) s = .next s)
    ∧ (k.committing = true → s.canRelease c = true → s.canSend c = true → (∀ e ∈ k.releasing, e.tgt.cls < 3 ∧ e.tgt.rc = false) →
      (∀ a v, Send.publish a v ∉ k.sending) →
      ∃ t, exec (.gateReleaseComplete c) s = .next t ∧ (t.core c).releasing = [] ∧ (t.core c).sending = [] ∧ (t.core c).committing = false
        ∧ (∀ j, t.regs j = s.regs j)
        ∧ (∀ a, Memory.read t.mem a = k.releasing.foldl (fun b e =>
            if e.tgt.key ≤ a ∧ a < e.tgt.key + e.bytes.length then e.bytes.getD (a - e.tgt.key) 0 else b) (Memory.read s.mem a))
        ∧ t.conts = s.conts ++ k.sending.filterMap (fun x => match x with
            | .tdec w _ => if contKind w = 0 then none else some ⟨x, 2, o, none, (0, 0)⟩
            | .tspawn _ => some ⟨x, 3, o, none, (0, 0)⟩
            | .tarm _ _ => some ⟨x, 4, o, none, (0, 0)⟩
            | .publish _ _ => none)
        ∧ (t.core c).xq.map (·.started) = k.xq.map fun x => x.started || (x.cout && !x.cur))
    ∧ (∀ n m rest, takeAt s.hub.swmsgs n = some (m, rest) →
      let r := s.round m.ctx m.g
      let size := if r.count = 0 then m.size else r.size
      let other (x : SwMsg) : Bool := !(x.ctx == m.ctx && x.g == m.g && x.abort && x.counted)
      let count := if m.counted then r.count else r.count + 1
      (m.abort = false → r.aborted = false → m.size = size →
        (r.count + 1 < size → exec (.switchArrival n) s = .next (s.modHub fun h => { h with
          swmsgs := rest
          switch := h.switch.set (m.ctx * 64 + m.g) ⟨r.count + 1, size, false, m.core :: r.members⟩ }))
        ∧ (size ≤ r.count + 1 → ∃ t, exec (.switchArrival n) s = .next t ∧ t.hub.swmsgs = rest.filter other
          ∧ t.hub.switch = s.hub.switch.del (m.ctx * 64 + m.g)
          ∧ ∀ j, t.core j = if j ∈ m.core :: r.members then { s.core j with swapTick := some (s.frame + 2) } else s.core j))
      ∧ (m.abort = true → r.members = [] → exec (.switchAbort n) s = .next (s.modHub fun h => { h with
          swmsgs := rest.filter other
          switch := if size ≤ count then h.switch.del (m.ctx * 64 + m.g) else h.switch.set (m.ctx * 64 + m.g) ⟨count, size, true, []⟩ })))
    ∧ (∀ t g, k.swapTick = some t → k.hold = .swap g →
      (s.frame < t → exec (.swapTick c) s = .next s)
      ∧ (t ≤ s.frame → ∃ u, exec (.swapTick c) s = .next u ∧ OnlyCore c s u ∧ (u.core c).active = 1 - k.active
          ∧ (u.core c).swaps = (k.swaps + 1) % 256 ∧ (u.core c).hold = .swapped ∧ (u.core c).swapTick = none ∧ u.regs c = s.regs c
          ∧ (u.core c).banks = k.banks ∧ (u.core c).phase.irrevocable = true
          ∧ (u.core c).shadowSt = .complete ∧ (∀ p ∈ (u.core c).vpend, p.latch = none)
          ∧ ∀ n, ((u.core c).latches.get n ⟨false, []⟩).landed = false))

/-- The effects of single registers: NANCNT_ACCESS, LFSRSEED_WRITE, RIMEINJ_WRITE, SWGROUP_WRITE and REGISTER_WRITE on the issuing core or its
die, the ring registers of a context, ERROR_BANK_WRITE, and HUB_CSR_ANSWER, by which the old value of a register at the hub lands (R7, R60,
R66, R70, R101, R108, R135 to R138, R358, R362). -/
def Obligations.RegisterEvents : Prop :=
  ∀ (s : State) (v : Word),
    let c := s.iss.core
    let k := s.core c
    let csrs (u : Csrs) : State := s.modCore c fun k => { k with csrs := u }
    let low : Word := v &&& 0xFFFFFFFF
    (∀ (op : BitVec 2) (d : SReg), k.vpend = [] → k.slotq = [] → k.arrayq = [] →
      let old := k.csrs.nancnt
      ∃ t, exec (.nancntAccess op d v) s = .next t ∧ OnlyRegsCsrs c s t ∧ OtherScalarsKept c [d.toNat] s t
        ∧ (t.regs c).getS d.toNat = (if d = 0 then 0 else old)
        ∧ (t.core c).csrs = { k.csrs with nancnt :=
            if op = 0 ∨ (op ≠ 1 ∧ v = 0) then old
            else (if op = 1 then v else if op = 2 then old ||| v else old &&& ~~~v) &&& 0xFFFFFFFF })
    ∧ (k.vpend ≠ [] → exec (.lfsrseedWrite v) s = .next s.hold)
    ∧ (k.vpend = [] → ∃ t, exec (.lfsrseedWrite v) s = .next t ∧ OnlyCore c { s with iss := { s.iss with seeded := true } } t
        ∧ { t.core c with lfsr := k.lfsr } = { k with csrs := { k.csrs with lfsrseed := low } }
        ∧ ∀ g l, g < 16 → l < 32 → laneOf ((t.core c).lfsr.get g []) l = BitVec.ofNat 32 (lfsrSeed (v.toNat % 2 ^ 32) g l))
    ∧ ((s.ctx k.ctxid).test = false → exec (.rimeinjWrite v) s = .next (s.privFault 2 0xC1 0x034))
    ∧ ((s.ctx k.ctxid).test = true → exec (.rimeinjWrite v) s = .next (csrs { k.csrs with rimeinj :=
        let w := v &&& 0xFFFFFFFFFFE00000
        if (v.extractLsb' 60 3).toNat > 3 ∨ (v.extractLsb' 21 6).toNat > 32 then w &&& 0x7FFFFFFFFFFFFFFF else w }))
    ∧ exec (.swgroupWrite v) s = .next (csrs { k.csrs with swgroup := v &&& 0x03FF003F })
    ∧ exec (.registerWrite 0x022 v) s = .next (csrs { k.csrs with ovfptr := v })
    ∧ exec (.registerWrite 0x032 v) s = .next (csrs { k.csrs with rimectl := v &&& 0x0000FFFF00000007 })
    ∧ exec (.registerWrite 0x033 v) s = .next (csrs { k.csrs with rimetol := v &&& 0x1F })
    ∧ exec (.registerWrite 0x880 v) s = .next (s.modDie (dieOf c) fun d => { d with prewait := low.toNat })
    ∧ exec (.registerWrite 0x881 v) s = .next (s.modDie (dieOf c) fun d => { d with phasemax := low.toNat })
    ∧ exec (.registerWrite 0x882 v) s = .next (s.modDie (dieOf c) fun d => { d with forcewait := low.toNat })
    ∧ exec (.registerWrite 0x883 v) s = .next (s.modDie (dieOf c) fun d => { d with atomwait := low.toNat })
    ∧ exec (.registerWrite 0x891 v) s = .next (s.modDie (dieOf c) fun d => { d with cgroup := v.toNat % 2 ^ 16 })
    ∧ (∀ x, x < 16 → exec (.registerWrite (0x8A0 + BitVec.ofNat 12 x) v) s =
        .next (s.modCtx x fun y => { y with traprec := v &&& 0x0000FFFFFFFFFFB1 }))
    ∧ (let bank (n : Nat) : State :=
        let b := s.hub.banks.get n ErrBank.empty
        let w : ErrBank := { b with ueovf := v.toNat / 2 ^ 32 % 2 ^ 16, cecnt := v.toNat % 2 ^ 32 }
        s.modHub fun h => { h with banks := h.banks.set n (if v.getLsbD 63 then { w with valid := false, ue := false, ovf := false } else w) }
      (∀ unit, unit < 8 → exec (.errorBankWrite unit v) s = .next
        (bank (((unit * 16 + dieOf c) * 256 + clusterOf c % 16) * 256 + (if unit = 2 ∨ unit = 3 then 0xFF else memberOf c))))
      ∧ ∀ n, 8 ≤ n → exec (.errorBankWrite n v) s = .next (if 8 ≤ n / 2 ^ 20 ∧ n / 2 ^ 20 ≤ 20 then bank n else s))
    ∧ (∀ x,
      let r := (s.ctx x).ring
      let ring (g : Ring) : State := s.modRing x fun _ => g
      let size := v.toNat % 2 ^ 21
      let fresh (base size : Nat) : Ring := { r with
        base := base
        size := size
        head := 0
        tail := 0
        seqctr := 0
        lost := 0
        bad := false
        ovf := false }
      exec (.errbaseWrite x v) s = .next (ring (fresh (v.toNat / 64 % 2 ^ 42) r.size))
      ∧ ((size = 0 ∨ ∃ n, 2 ≤ n ∧ n ≤ 20 ∧ size = 2 ^ n) → exec (.errsizeWrite x v) s = .next (ring (fresh r.base size)))
      ∧ (size ≠ 0 → (∀ n, 2 ≤ n → n ≤ 20 → size ≠ 2 ^ n) → exec (.errsizeWrite x v) s = .next s)
      ∧ exec (.errtailWrite x v) s = .next (ring (if (r.head + 2 ^ 32 - v.toNat % 2 ^ 32) % 2 ^ 32 ≤ r.size then { r with tail := v.toNat % 2 ^ 32 } else r))
      ∧ exec (.errflagsWrite x v) s = .next (ring { r with lost := v.toNat / 2 ^ 32 % 2 ^ 16, ovf := r.ovf && !v.getLsbD 0 }))
    ∧ (∀ j, (∀ a ∈ s.hub.hubcsr, a.core ≠ j) → exec (.hubCsrAnswer j) s = .next s)
    ∧ (∀ a, s.hub.hubcsr = [a] → ∃ t, exec (.hubCsrAnswer a.core) s = .next t ∧ t.hub.hubcsr = [] ∧ OtherScalarsKept a.core [a.d.toNat] s t
        ∧ (t.regs a.core).getS a.d.toNat = (if a.d = 0 then 0 else s.hubGet a.ctx a.csr)
        ∧ (a.op = 0 → t.hub = { s.hub with hubcsr := [] })
        ∧ (a.op = 1 → a.csr = 0x073 → (t.ctx a.ctx).ring.tail =
            let r := (s.ctx a.ctx).ring
            if (r.head + 2 ^ 32 - a.v.toNat % 2 ^ 32) % 2 ^ 32 ≤ r.size then a.v.toNat % 2 ^ 32 else r.tail)
        ∧ (a.op = 1 → 0x8A0 ≤ a.csr → a.csr < 0x8B0 → (t.ctx (a.csr - 0x8A0)).traprec = a.v &&& 0x0000FFFFFFFFFFB1))

/-! Events of the memory and the schedulers. -/

/-- APPLY_CONTINUATION at the record's home slice: the argument, the count, readiness with its notice, the fault of a count that would go
below zero; TSPAWN and TARM; APPLY_CANCEL; a word still in its outbound queue, behind an earlier one of its task to the same slice, or behind
requests parked at the record's line stays; damage in the fields that the slice reads is consumed, and nothing is written.
LINE_REPAIR writes a line, clears its poison and replays what is parked; ATOMWAIT_EXPIRY discards the requests of a line, the loads and stores
that wait behind them too; FLOOR_BROADCAST
sends the lowest time of any core, drops the copies behind it and sweeps when due; LINE_TIME_SWEEP; INCREMENTAL_UPDATE writes the data of a
piece and updates the entry's sums (R28, R32, R35, R127, R143, R145, R155, R211, R212, R372, R384, R387, R388, R390). What becomes of damage in a record, and of what waits behind a parked request,
is the model's reading (DEDUCED, logs 50 and 54). -/
def Obligations.MemoryEvents : Prop :=
  (∀ (s : State) (n : Nat) (x : Cont) (rest : List Cont) (key : Nat) (va : Word), s.recKey x.org.ctx va = some key →
    let byte (off : Nat) : Byte := Memory.read s.mem (key + off)
    let count := s.num (key + 8) 4
    let places (off k : Nat) : List Nat := (List.range k).map fun i => key + off + i
    let mask := (byte 0x18).toNat
    let notice : Notice := ⟨va, x.org.ctx, s.pickDie mask, mask⟩
    let i : Instr := .applyContinuation n
    let goes : Prop := takeAt s.conts n = some (x, rest) ∧ x.slice = none ∧ s.launchHeld x = false ∧ s.wordBefore (s.conts.take n) x = false
      ∧ s.recordParked x = false
    let cancels : Prop := takeAt s.cancels n = some (x, rest) ∧ s.wordBefore (s.cancels.take n) x = false ∧ s.recordParked x = false
    let hurt : Bool := s.damaged (key + 8) 20
    let eaten (t : State) (origin : Nat) : State := t.recordConsume key origin x.org
    (takeAt s.conts n = some (x, rest) →
      (x.slice.isSome = true ∨ s.launchHeld x = true ∨ s.wordBefore (s.conts.take n) x = true ∨ s.recordParked x = true) → exec i s = .next s)
    ∧ (takeAt s.cancels n = some (x, rest) → (s.wordBefore (s.cancels.take n) x = true ∨ s.recordParked x = true) → exec (.applyCancel n) s = .next s)
    ∧ (goes → hurt = true →
      (∀ w v, x.send = .tdec w v → contRecord w = va → contKind w ≠ 0 → exec i s = .next (eaten { s with conts := rest } x.origin))
      ∧ (∀ p, x.send = .tspawn p → p &&& ~~~127 = va → exec i s = .next (eaten { s with conts := rest } 3))
      ∧ ∀ p c, x.send = .tarm p c → p &&& ~~~127 = va → exec i s = .next (eaten { s with conts := rest } 4))
    ∧ (cancels → hurt = true → ∀ w v, x.send = .tdec w v → contRecord w = va → contKind w ≠ 0 →
        exec (.applyCancel n) s = .next (eaten { s with cancels := rest } 6))
    ∧ ((byte 0x0C).toNat ≤ 5 → hurt = false →
    let wrote (ks : List Nat) (bs : List Byte) (ready : Bool) : Prop := ∃ t, exec i s = .next t ∧ t.conts = rest ∧ Stored s t ks bs
      ∧ t.notices = (if ready then s.notices ++ [notice] else s.notices) ∧ t.cores = s.cores
    (goes →
      (∀ w v, x.send = .tdec w v → contRecord w = va →
        let a := contAmount w
        let arg := places (0x20 + 8 * contArgix w) 8
        let val := leBytes 8 v.toNat
        (contKind w = 3 → contArgix w < 4 → wrote arg val false)
        ∧ (a ≤ count → count < 2 ^ 31 → (count ≠ a ∨ byte 0x0C ≠ 0) →
            (contKind w = 1 → wrote (places 8 4) (leBytes 4 (count - a)) false)
            ∧ (contKind w = 2 → contArgix w < 4 → wrote (arg ++ places 8 4) (val ++ leBytes 4 (count - a)) false))
        ∧ (count = a → byte 0x0C = 0 → (byte 0x1B).getLsbD 0 = false →
            (contKind w = 1 → wrote (places 8 4 ++ [key + 0x0C]) (leBytes 4 0 ++ [1]) true)
            ∧ (contKind w = 2 → contArgix w < 4 → wrote (arg ++ places 8 4 ++ [key + 0x0C]) (val ++ leBytes 4 0 ++ [1]) true))
        ∧ ((contKind w = 1 ∨ contKind w = 2) → (count < a ∨ 2 ^ 31 ≤ count) → (x.origin < 5 ∨ 7 < x.origin) →
            exec i s = .next ((({ s with conts := rest }.put (key + 0x1B) [byte 0x1B ||| 1]).post
              (mkRec 0x12 2 (locSlice key) (leBytes 1 x.origin ++ leBytes 1 2 ++ leBytes 4 count ++ leBytes 8 w.toNat) (some va) (some x.org))).cancelTask
                x.org)))
      ∧ (∀ p, x.send = .tspawn p → p &&& ~~~127 = va →
        (byte 0x0C = 0 → count = 0 → (byte 0x1B).getLsbD 0 = false → wrote [key + 0x0C] [1] true)
        ∧ ((byte 0x0C ≠ 0 ∨ count ≠ 0) → exec i s = .next ({ s with conts := rest }.post
            (mkRec 0x14 0 (locSlice key) (leBytes 1 0 ++ [byte 0x0C] ++ leBytes 4 count) (some va) (some x.org)))))
      ∧ (∀ p c, x.send = .tarm p c → p &&& ~~~127 = va → (byte 0x0C = 4 ∨ byte 0x0C = 5) → c.toNat % 2 ^ 32 < 2 ^ 31 →
          wrote (places 8 4 ++ [key + 0x1B, key + 0x0C]) (leBytes 4 c.toNat ++ [byte 0x1B &&& 0xF4, 0]) false))
    ∧ (∀ w v, cancels → x.send = .tdec w v → contRecord w = va →
        (contKind w = 3 → ∃ t, exec (.applyCancel n) s = .next t ∧ t.cancels = rest ∧ Stored s t [key + 0x1B] [byte 0x1B ||| 1])
        ∧ ((contKind w = 1 ∨ contKind w = 2) → contAmount w ≤ count → count < 2 ^ 31 → (count ≠ contAmount w ∨ byte 0x0C ≠ 0) →
            ∃ t, exec (.applyCancel n) s = .next t ∧ t.cancels = rest
              ∧ Stored s t (places 8 4 ++ [key + 0x1B]) (leBytes 4 (count - contAmount w) ++ [byte 0x1B ||| 1])))))
  ∧ (∀ (s : State) (key : Nat) (bytes : List Byte), bytes.length = 128 → keySpace key = 0 →
    let base := key / 128 * 128
    let here (p : Parked) : Bool := p.req.tgt.key / 128 == key / 128
    ∃ u, exec (.lineRepair key bytes) s = .next ((s.parked.filter here).foldl (fun (t : State) p => t.performReq p.req) u)
      ∧ Stored s u ((List.range 128).map (base + ·)) bytes ∧ u.parked = s.parked.filter (fun p => !here p)
      ∧ (∀ g, g ∈ u.poison ↔ g ∈ s.poison ∧ g / 4 ≠ key / 128) ∧ u.cores = s.cores)
  ∧ (∀ (s : State) (n : Nat) (p : Parked) (rest : List Parked), takeAt s.parked n = some (p, rest) →
    let wait := (s.die (keyDie p.req.tgt.key)).atomwait
    let here (q : Parked) : Bool := q.req.tgt.key / 128 == p.req.tgt.key / 128
    let discard (t : State) (q : Parked) : State :=
      let u := t.post (mkRec 0x19 2 (locSlice q.req.tgt.key) (leBytes 2 q.entry ++ leBytes 1 q.req.opcode ++ leBytes 1 0 ++ leBytes 4 (s.frame - q.tick))
        (some q.req.va) (some q.req.org))
      if q.req.org.core = none then u else u.cancelTask q.req.org
    (s.frame < p.tick + wait → exec (.atomwaitExpiry n) s = .next s)
    ∧ (p.tick + wait ≤ s.frame →
        let line (w : Waiting) : Bool := w.key / 128 == p.req.tgt.key / 128
        let discardWait (t : State) (w : Waiting) : State :=
          let t := if w.store then t.modCore w.core fun k => { k with releasing := (k.releasing.drop 1).dropWhile (·.joined) } else t
          (t.post (mkRec 0x19 2 (locSlice w.key) (leBytes 2 w.entry ++ leBytes 1 w.opcode ++ leBytes 1 0 ++ leBytes 4 (t.frame - w.tick))
            (some w.va) (some w.org))).cancelTask w.org
        exec (.atomwaitExpiry n) s = .next ((s.behind.filter line).foldl discardWait
          ((s.parked.filter here).foldl discard { s with parked := s.parked.filter (fun q => !here q), behind := s.behind.filter fun w => !line w }))))
  ∧ (∀ s : State, (∀ c, c < 512 → (s.core c).ltime < 2 ^ 47) → ∃ f t, exec .floorBroadcast s = .next t ∧ t.lfloor = f
      ∧ (∀ c, c < 512 → f ≤ (s.core c).ltime) ∧ (∃ c, c < 512 ∧ f = (s.core c).ltime)
      ∧ { t with lfloor := s.lfloor, dies := s.dies, hub := s.hub, lineTimes := s.lineTimes } = s
      ∧ t.dies = s.dies.map (fun p => (p.1, { p.2 with l2 := p.2.l2.filter fun q => !timeBefore q.2 f }))
      ∧ (let due : Prop := 2 ^ 38 ≤ (f + 2 ^ 48 - s.hub.swept) % 2 ^ 48
        (due → t.hub = { s.hub with swept := f } ∧ t.lineTimes = s.lineTimes.map fun p => (p.1, timeMax p.2.1 f, timeMax p.2.2 f))
          ∧ (¬due → t.hub = s.hub ∧ t.lineTimes = s.lineTimes)))
  ∧ (∀ (s : State) (owner : Nat), ∃ l : Tbl (Nat × Nat), exec (.lineTimeSweep owner) s = .next { s with lineTimes := l }
      ∧ ∀ n, l.find n = (s.lineTimes.find n).map fun p =>
          if keyDie (n * 128) = owner then (timeMax p.1 s.lfloor, timeMax p.2 s.lfloor) else p)
  ∧ (∀ (s : State) (n : Nat) (u v : Upd) (rest : List Upd), takeAt s.upds n = some (u, rest) →
    (u.joined = true ∨ (v ∈ s.upds.take n ∧ v.meets u = true)) → exec (.incrementalUpdate n) s = .next s)
  ∧ (∀ (s : State) (u : Upd) (rest : List Upd), s.upds = u :: rest → u.joined = false →
    let us := u :: rest.takeWhile (·.joined)
    let p := s.changesOf us
    let covers (w : Upd) (a : Nat) : Prop := w.tgt.key ≤ a ∧ a < w.tgt.key + w.bytes.length
    let data (a : Nat) : Prop := ∃ w ∈ us, covers w a
    ∃ t, exec (.incrementalUpdate 0) s = .next t ∧ t.upds = rest.dropWhile (·.joined)
      ∧ (∀ a, data a → Memory.read t.mem a = us.foldl (fun (b : Byte) w =>
          if w.tgt.key ≤ a ∧ a < w.tgt.key + w.bytes.length then w.bytes.getD (a - w.tgt.key) 0 else b) 0)
      ∧ (p.groups = [] → ∀ a, ¬data a → Memory.read t.mem a = Memory.read s.mem a)
      ∧ (∀ key va ch, p.groups = [(key, va, [ch])] → p.poisoned = false → s.damaged key 256 = false → tagState (s.tag key) = 0 →
        s.tag key % 16 ≠ 15 → ch.i < 32 → ch.j < 32 →
        (∀ a, key ≤ a → a < key + 256 → ¬data a) →
        let d := ch.value p.fmt
        let row := key + 4 * ch.i
        let col := key + 128 + 4 * ch.j
        let sum (a : Nat) : Nat := ((sumValue p.fmt (s.num a 4)).sum d).bits
        t.num row 4 = sum row % 2 ^ 32 ∧ t.num col 4 = sum col % 2 ^ 32 ∧ t.tag key = s.tag key + 1
          ∧ ∀ a, ¬data a → (a < row ∨ row + 4 ≤ a) → (a < col ∨ col + 4 ≤ a) → Memory.read t.mem a = Memory.read s.mem a))

/-- The scheduler of a die: READY_NOTICE queues a task, or finds the die full; OCCUPANCY_BROADCAST tells its occupancy; DISPATCH starts a task on
the eligible free core of lowest number with the registers that the spec gives; PRIORITY_AGEING and RELEASE_REACHED; PREEMPTION_REQUEST and
FORCED_YIELD; HANG_WATCHDOG; VACATE_WAIT_EXPIRY ends the vacating of a cluster that is vacant (R33, R36 to R38, R43, R374, R375, R424). That a
core is free only when an earlier task's release is done is the model's reading (log 26). -/
def Obligations.Scheduler : Prop :=
  ∀ (s : State) (d : Nat),
    let x := s.die d
    (∀ n m rest, takeAt s.notices n = some (m, rest) → m.die = some d →
      let full := 4096 + x.qovf ≤ x.queue.length
      ((s.ctx m.ctx).kill = .complete → exec (.readyNotice n) s = .next { s with notices := rest })
      ∧ ((s.ctx m.ctx).kill ≠ .complete → full → exec (.readyNotice n) s = .next { s with notices := rest ++ [{ m with die := none }] })
      ∧ ((s.ctx m.ctx).kill ≠ .complete → ¬full → ∀ key, s.recKey m.ctx m.record = some key →
        let f (off k : Nat) : Nat := s.num (key + off) k
        exec (.readyNotice n) s = .next ({ s with notices := rest }.modDie d fun y => { y with queue := y.queue ++
          [(⟨m.record, m.ctx, max s.frame (f 0x40 8), f 0x0D 1 % 4, 0, f 0x0F 1 % 16, f 0x0E 1 % 2 == 1, f 0x19 2, (f 0x1B 1).testBit 2, f 0x1C 1 % 4,
            f 0x40 8, none, false, false, 0, none⟩ : QEnt)] })))
    ∧ (d < 8 → ∃ t, exec (.occupancyBroadcast d) s = .next t ∧ SameMem s t ∧ (∀ c, t.core c = s.core c)
        ∧ t.die d = { x with occ := if 4096 + x.qovf ≤ x.queue.length then 0xFFFFFFFF
            else x.queue.length + s.cores.countP fun p => dieOf p.1 == d && p.2.task.isSome }
        ∧ t.notices = s.notices.map fun m => if m.die = none ∧ (m.mask = 0 ∨ m.mask.testBit d = true) then { m with die := t.pickDie m.mask } else m)
    ∧ (x.queue = [] → exec (.dispatch d) s = .next s)
    ∧ (∀ q c key, x.queue = [q] → x.resv = [] → q.gang = false → q.resume = false → q.ended = 0 → s.dispatchHurt q = false → dieOf c = d → s.eligible q c = true → (s.core c).task = none →
        (s.core c).releasingOut = false →
        (∀ j, dieOf j = d → j < c → s.eligible q j = false ∨ (s.core j).task.isSome = true ∨ (s.core j).releasingOut = true) → s.recBad q.ctx q.record = none →
        ((s.core c).lastCtx = none ∨ (s.core c).lastCtx = some q.ctx) → s.recKey q.ctx q.record = some key →
        let f (off : Nat) : Word := BitVec.ofNat 64 (s.num (key + off) 8)
        ∃ t b, exec (.dispatch d) s = .next t ∧ (t.core c).task = some b ∧ b.record = q.record ∧ b.ctx = q.ctx ∧ b.serial = s.serials + 1
          ∧ b.deadline = s.num (key + 0x48) 8 ∧ b.succs = s.recSuccs q.ctx q.record ∧ (t.die d).queue = [] ∧ (t.core c).pc = f 0 ∧ (t.core c).csrs = Csrs.zero ∧ (t.core c).hold = .none ∧ (t.core c).phase = Phase.fresh
          ∧ (t.core c).ctxid = q.ctx ∧ (t.core c).taskrec = q.record ∧ (t.core c).tilec = f 0x10
          ∧ t.regs c = [(1, f 0x20), (2, f 0x28), (3, f 0x30), (4, f 0x38), (5, f 0x10), (6, q.record), (7, BitVec.ofNat 64 q.stage)].foldl
              (fun (r : Regs) (p : Nat × Word) => r.setS p.1 p.2) Regs.zero
          ∧ Stored s t [key + 0x0C] [2] ∧ ∀ j, j ≠ c → t.core j = s.core j)
    ∧ ((∀ q ∈ x.queue, q.gang = false ∧ ∀ j, dieOf j = d → s.eligible q j = false ∨ (s.core j).task.isSome = true) →
        exec (.priorityAgeing d) s = .next (s.modDie d fun y => { y with
          queue := y.queue.map fun q => { q with kept := max q.kept (min 3 (q.prio + (s.frame - q.ready) / 65536)) } }))
    ∧ ((∀ q ∈ x.queue, s.frame < q.release) → exec (.releaseReached d) s = .next s)
    ∧ ((∃ q ∈ x.queue, q.release ≤ s.frame) → ∃ t, exec (.dispatch d) s = .next t ∧ exec (.releaseReached d) s = .next t)
    ∧ (x.prewait = 0 → exec (.preemptionRequest d) s = .next s)
    ∧ (∀ q t c b, x.queue = [q] → q.since = some t → q.asked = false → x.prewait ≠ 0 → t + x.prewait < s.frame → s.placement d q = none →
        s.below d q = [(c, b)] → b.saveptr ≠ 0 → (s.core c).yieldReq = none →
        ∃ u, exec (.preemptionRequest d) s = .next u ∧ SameMem s u ∧ (u.die d).queue = [{ q with asked := true }]
          ∧ ∀ j, u.core j = if j ∈ s.coresOf b.serial then { s.core j with yieldReq := some ⟨s.frame, some (q.record, q.ctx)⟩ } else s.core j)
    ∧ (∀ c t w, dieOf c = d → (s.core c).yieldReq = some ⟨t, w⟩ →
        let k := s.core c
        ((x.forcewait = 0 ∨ w = none ∨ s.frame < t + x.forcewait ∨ s.canForce c = false) → exec (.forcedYield c) s = .next s)
        ∧ (x.forcewait ≠ 0 → w ≠ none → t + x.forcewait ≤ s.frame → s.canForce c = true → ∃ u, exec (.forcedYield c) s = .next u ∧ SameMem s u
            ∧ (u.core c).hold = .saving ∧ u.regs c = k.shadow.regs ∧ (u.core c).pc = k.shadow.pc ∧ (u.core c).lfsr = k.shadow.lfsr
            ∧ (u.core c).gate = [] ∧ (u.core c).held = [] ∧ (u.core c).task = k.task ∧ (u.core c).phase.strikes = k.phase.strikes
            ∧ ∀ j, j ≠ c → u.core j = s.core j))
    ∧ (∀ c, dieOf c = d →
        let k := s.core c
        let o := s.orgOf c
        ((k.task = none ∨ x.phasemax = 0 ∨ k.phase.cycles ≤ x.phasemax) → exec (.hangWatchdog c) s = .next s)
        ∧ (k.task.isSome = true → x.phasemax ≠ 0 → x.phasemax < k.phase.cycles →
            exec (.hangWatchdog c) s = .next ((s.post (mkRec 0x22 2 (locCore 0 c 0xFF) [] none (some o))).cancelTask o)))
    ∧ (∀ k, ((s.cluster k).vacate = none → exec (.vacateWaitExpiry k) s = .next s)
        ∧ ∀ t cause, (s.cluster k).vacate = some (t, cause) →
          (s.frame < t + 50 → exec (.vacateWaitExpiry k) s = .next s)
          ∧ (t + 50 ≤ s.frame → (∀ j, clusterOf j = k → (s.core j).task = none) → s.trippedZone k = none →
              exec (.vacateWaitExpiry k) s = .next (s.modCluster k fun y => { y with vacate := none })))

/-! Events of the host link, the mailbox, the fabric, power and coolant. -/

/-- POWER_GOOD brings the module up, or leaves the step that failed in BOOTERR; the host link: WINN_WRITE, DECREMENT_PORT_WRITE, BAR2_ACCESS,
HOST_ATOMICOP, ATOMICOP_COMPLETION, HOST_WRITE_DROPPED and PCIE_LINK_DOWN (R31, R160, R328, R329, R335, R389, R393). That
the record of a dropped access goes to the machine ring for every window, and that a drop marks the core of a cancelled task whose release is
under way, are the model's readings (logs 10 and 26), as is what bring-up takes from its configuration and which images flash holds (log 13). -/
def Obligations.HostLink : Prop :=
  ∀ s : State,
    let h := s.hub
    let opened : Prop := h.ready = true ∧ h.fenced = false
    let hosts (c : Nat) : Prop := (s.ctx c).resident = true ∧ (s.ctx c).kill = .none
    let dropped (kind : Nat) (a : Word) : State := s.post (mkRec 0x1A 2 (locDie 16 8) (leBytes 1 kind) (some a) none)
    (∀ cfg, h.ready = false → h.recovery = false → h.booterr = 0 →
      let good (n : Nat) : Prop := (s.goodImage n).isSome = true
      let sizes : Prop := (∃ n, 6 ≤ n ∧ n ≤ 20 ∧ cfg.ringSize = 2 ^ n) ∧ ∃ n, 1 ≤ n ∧ n ≤ 8 ∧ cfg.slotsz = 65536 * n
      let fails (n : Nat) : Prop := ∃ t, exec (.powerGood cfg) s = .next t ∧ t.hub.ready = false
        ∧ t.hub.booterr = n + 256 * (cfg.failCause % 256) ∧ t.hub.recovery = decide (n ≤ 2)
      (¬good 0 → fails 1)
      ∧ (good 0 → (∃ n, 1 ≤ n ∧ n < 8 ∧ ¬good n) → fails 2)
      ∧ ((∀ n, n < 8 → good n) → 3 ≤ cfg.failStep → cfg.failStep ≤ 7 → (cfg.failStep ≤ 4 ∨ sizes) → fails cfg.failStep)
      ∧ ((∀ n, n < 8 → good n) → cfg.failStep ≠ 3 → cfg.failStep ≠ 4 → ¬sizes → fails 5)
      ∧ ((∀ n, n < 8 → good n) → (cfg.failStep < 3 ∨ 7 < cfg.failStep) → sizes → ∃ t, exec (.powerGood cfg) s = .next t ∧ t.hub.ready = true
        ∧ t.hub.booterr = 0 ∧ t.hub.module = cfg.module % 2048 ∧ t.hub.balance = min 6400 cfg.balance ∧ t.hub.govern = min 6400 cfg.balance
        ∧ t.hub.floor ≤ t.hub.balance ∧ t.hub.flowcap = cfg.flowcap ∧ t.hub.slotsz = cfg.slotsz
        ∧ t.hub.links = wholeFabric (cfg.module % 2048) cfg.links ∧ t.hub.routes = routesOf (cfg.module % 2048) t.hub.links
        ∧ (∀ d, d < 8 → t.die d = { s.die d with
            wide := cfg.wide.getD d 0xFFFF, thr := cfg.thr.getD d 0, off := cfg.off.getD d 0, qovf := cfg.qovf })
        ∧ ∀ c, t.core c = s.core c))
    ∧ (∀ n v, n < 16 → h.recovery = false → exec (.winnWrite n v) s = .next (s.modHub fun h => { h with
        wins := h.wins.set n ⟨v.getLsbD 63 && v.toNat % 16 != 0, v.toNat / 16 % 4096, v.toNat % 16⟩ }))
    ∧ (∀ c v, c < 16 → s.hostParked = true → exec (.decrementPortWrite c v) s = .next s)
    ∧ (∀ c v, c < 16 → s.hostParked = false →
      (c ≠ 0 → opened → hosts c → (s.ctx c).frozen = false → v &&& 0xFFFF00000000007F = 0 →
        exec (.decrementPortWrite c v) s =
          .next { s with conts := s.conts ++ [⟨.tdec (v ||| 0x0110000000000000) 0, 7, ⟨c, none, none, none, 0, 0⟩, none, (16, 0)⟩] })
      ∧ ((c = 0 ∨ ¬opened ∨ ¬hosts c ∨ (s.ctx c).frozen = true ∨ v &&& 0xFFFF00000000007F ≠ 0) →
        exec (.decrementPortWrite c v) s = .next (dropped 3 v)))
    ∧ (∀ off bytes write, off + bytes.length ≤ 2 ^ 36 → bytes ≠ [] → s.hostParked = false →
      let w := h.wins.get (off / 2 ^ 32 % 16) ⟨false, 0, 0⟩
      let va := BitVec.ofNat 64 (w.vreg * 2 ^ 32 + off % 2 ^ 32)
      let n := bytes.length
      let i : Instr := .bar2Access off write bytes
      let ends (kind : Nat) : Prop := exec i s = .next (if write = true then dropped kind (BitVec.ofNat 64 off) else
        (dropped kind (BitVec.ofNat 64 off)).modHub fun h => { h with pcieRead := List.replicate n 0xFF })
      ((¬opened ∨ w.en = false) → ends 0)
      ∧ (opened → w.en = true → ¬hosts w.ctx → ends 2)
      ∧ (opened → w.en = true → hosts w.ctx →
        (∀ e, s.spanKeys 0 w.ctx .g va n (if write then .write else .read) = .error e → ends 1)
        ∧ (∀ ks, write = false → s.spanKeys 0 w.ctx .g va n .read = .ok ks → s.behindParked ks = false → s.poison = [] →
            (∀ k ∈ ks, keySpace k ≠ 8 ∧ s.unformed (k / 256) = none) →
            exec i s = .next (s.modHub fun h => { h with pcieRead := ks.map (Memory.read s.mem) }))
        ∧ (∀ ks t, write = true → s.spanKeys 0 w.ctx .g va n .write = .ok ks → s.behindParked ks = false →
            s.translate w.ctx va .write = .ok t → (t.cls < 3 ∨ (t.cls = 3 ∧ h.pcieUp = true)) → t.rc = false → va.toNat % 32 + n ≤ 32 →
            ∃ u, exec i s = .next u ∧ Stored s u ((List.range n).map (t.key + ·)) bytes ∧ u.cores = s.cores ∧ u.hub = h)
        ∧ (∀ (op : BitVec 2) (a b : Nat) (t : Target) (ks : List Nat), (n = 4 ∨ n = 8 ∨ (n = 16 ∧ op = 2)) → op ≠ 3 → off % n = 0 →
            s.spanKeys 0 w.ctx .g va n .atomic = .ok ks → s.translate w.ctx va .atomic = .ok t →
            let x := a % 2 ^ (8 * n)
            let y := b % 2 ^ (8 * n)
            let kind : AOp := if op = 0 then .amo 0 else if op = 1 then .amo 8 else .cas
            let org : Org := ⟨w.ctx, none, none, none, 0, 0⟩
            let old := s.num t.key n
            let new := if op = 0 then (old + x) % 2 ^ (8 * n) else if op = 1 then x else if old = x then y else old
            (t.ms = true → (s.lineBad t.key = true ∨ s.behindParked [t.key] = true) → s.freeEntry t.key < 16 →
              (s.die (keyDie t.key)).atomwait ≠ 0 → ∃ u, exec (.hostAtomicop off op n a b) s = .next u
                ∧ u.parked = s.parked ++ [⟨⟨kind, va, t, n, x, y, 0, .none, org, false⟩, s.frame, s.freeEntry t.key⟩])
            ∧ (t.ms = false → t.cls = 4 → s.behindParked ks = false → (∀ r ∈ s.remotes, r.rmw = none) →
                exec (.hostAtomicop off op n a b) s = .next (s.hostLoad t va n 0 org (some (kind, x, y))))
            ∧ (t.cls < 4 → t.rc = false → s.behindParked (t.key :: ks) = false → s.poison = [] →
                (∀ k ∈ ks, s.unformed (k / 256) = none) → (∀ k, k < n → s.unformed ((t.key + k) / 256) = none) →
                ∃ u, exec (.hostAtomicop off op n a b) s = .next u ∧ u.hub = { h with pcieRead := leBytes n old }
                  ∧ Stored s u ((List.range n).map (t.key + ·)) (leBytes n new) ∧ u.cores = s.cores))))
    ∧ (∀ r rest core d, s.hostOut = .atomic r :: rest → r.tgt.cls = 3 → r.tgt.rc = false → r.dest = .sreg core d → (∀ op cc, r.op ≠ .amoct op cc) →
        (r.w = 4 ∨ r.w = 8) → r.b < 2 ^ (8 * r.w) → r.c < 2 ^ (8 * r.w) →
        let old := s.num r.tgt.key r.w
        (h.pcieUp = false → exec (.atomicopCompletion 0 true) s = .next s)
        ∧ (h.pcieUp = true → ∃ t, exec (.atomicopCompletion 0 true) s = .next t ∧ t.hostOut = rest
            ∧ t.rets = s.rets ++ [⟨core, [(d, BitVec.ofNat 64 old)]⟩] ∧ (∀ k, t.regs k = s.regs k)
            ∧ t.conts = (if atomicFires r.op r.w old r.b r.c ∧ contKind r.k ≠ 0
                then s.conts ++ [⟨.tdec r.k (BitVec.ofNat 64 old), 0, r.org, none, (16, 0)⟩] else s.conts)
            ∧ (match atomicWrites r.op r.w old r.b r.c with
               | some v => Stored s t ((List.range r.w).map (r.tgt.key + ·)) (leBytes r.w v)
               | none => SameMem s t))
        ∧ exec (.atomicopCompletion 0 false) s = .next (({ s with hostOut := rest }.post (mkRec 0x11 2 (locDie 16 8)
            (leBytes 1 2 ++ leBytes 1 4 ++ leBytes 1 r.opcode) (some r.va) (some r.org))).cancelTask r.org))
    ∧ (∀ va a bs g rest c, s.hostOut = .write va a bs g :: rest → (∀ va a v x m o, HostOp.publish va a v x m o ∉ rest) → g.core = some c →
        exec (.hostWriteDropped 0) s = .next (((if s.running g ∨ ((s.core c).task = none ∧ g.task = some (s.core c).taskrec) then { s with hostOut := rest }.modCore c fun k => { k with withheld := true }
          else { s with hostOut := rest }).post (mkRec 0x1A 2 (locDie 16 8) (leBytes 1 4) (some va) (some g))).cancelTask g))
    ∧ (h.pcieUp = false → exec .pcieLinkDown s = .next s)
    ∧ (h.pcieUp = true → s.hostOut = [] → exec .pcieLinkDown s = .next (s.modHub fun h => { h with pcieUp := false }))

/-- The mailbox: MBDOOR takes a request, MBDONE_CLEAR clears MBDONE; LOADMAP, KILL, ATTEST, DEBUGREAD, SETPERM, COOLSET, SETTRAP and TOKGIVE are
served with their statuses, FLASH_IMAGE_WRITE in recovery; CONTEXT_KILL takes the steps of a kill in turn; CLCAP_WRITE sets capabilities that
stay until module reset (R85, R138, R317, R323, R327, R332, R333, R335 to R337, R377, R418). That a LOADMAP of a context that is not quiet
waits is the model's reading (log 14), and the layout of the request that writes an image its choice (log 13). -/
def Obligations.Mailbox : Prop :=
  ∀ s : State,
    let h := s.hub
    let answered (u : State) (status : Nat) (body : List Byte) : State := u.modHub fun g => { g with
      mbresp := h.mbreq.take 2 ++ leBytes 2 status ++ leBytes 4 body.length ++ (h.mbreq.drop 8).take 8 ++ body
      mbbusy := false
      mbdone := true
      msix := g.msix ||| 2 }
    let num (off n : Nat) : Nat := leNat ((h.mbreq.drop off).take n)
    let field (n : Nat) : Nat := num (16 + 8 * n) 8
    let asked (cmd len : Nat) : Prop := h.mbbusy = true ∧ h.recovery = false ∧ num 0 2 = cmd ∧ len ≤ num 4 4 ∧ num 4 4 ≤ 4080
    (∀ req : List Byte, req.length = 4096 →
      let cmd := leNat (req.take 2)
      (h.mbbusy = true → exec (.mbdoor req) s = .next s)
      ∧ (h.mbbusy = false → h.ready = true → h.recovery = false → 1 ≤ cmd → cmd ≤ 8 →
          exec (.mbdoor req) s = .next (s.modHub fun h => { h with mbreq := req, mbbusy := true }))
      ∧ (h.mbbusy = false → h.ready = true → h.recovery = false → (cmd = 0 ∨ 8 < cmd) → ∃ t, exec (.mbdoor req) s = .next t
          ∧ t.hub.mbbusy = false ∧ t.hub.mbdone = true ∧ t.hub.mbresp = req.take 2 ++ leBytes 2 2 ++ leBytes 4 0 ++ (req.drop 8).take 8))
    ∧ (∀ v, exec (.mbdoneClear v) s = .next (s.modHub fun h => { h with mbdone := h.mbdone && !v.getLsbD 2 }))
    ∧ (asked 1 9 → h.mbreq.length = 4096 →
      let c := num 16 1
      let flags := num 17 1
      let data := (h.mbreq.drop 24).take (num 4 4 - 8)
      ((c = 0 ∨ 15 < c ∨ 3 < flags ∨ num 18 2 ≠ 0) → exec .loadmap s = .next (answered s 2 []))
      ∧ (1 ≤ c → c ≤ 15 → num 18 2 = 0 →
        (flags = 1 → num 20 4 = 0 → exec .loadmap s = .next (answered (s.modHub fun h => { h with partialMap := some (c, data) }) 0 []))
        ∧ (flags ≤ 1 → flags ≠ 1 → h.partialMap = none → exec .loadmap s = .next (answered s 3 []))
        ∧ (∀ b, flags = 2 → h.partialMap = some (c, b) → b.length = num 20 4 → (b ++ data).length = 197184 →
          let m := CtxMap.parse (b ++ data)
          let u := s.modHub fun h => { h with partialMap := none }
          (s.quiet c = false → exec .loadmap s = .next s)
          ∧ (s.quiet c = true → s.mapBad c m = true → exec .loadmap s = .next (answered u 1 []))
          ∧ (s.quiet c = true → s.mapBad c m = false → exec .loadmap s = .next (answered ((u.modCtx c fun x =>
              { x with map := m, resident := true, frozen := false, kill := .none }).resetTags c) 0 [])))))
    ∧ (asked 2 8 →
      let c := field 0
      ((c = 0 ∨ 15 < c) → exec .kill s = .next (answered s 2 []))
      ∧ (1 ≤ c → c ≤ 15 → h.killWanted = none → ((s.ctx c).kill = .complete → exec .kill s = .next (answered s 0 []))
        ∧ ((s.ctx c).kill = .none → exec .kill s = .next (((s.modHub fun h => { h with killWanted := some c }).modCtx c fun x =>
            { x with frozen := true, kill := .running 1 }).post { mkRec 0x23 3 (locDie 20 8) [] none none with ctx := some c }))))
    ∧ (asked 3 32 → h.mbreq.length = 4096 → ∃ body, exec .attest s = .next (answered s 0 body) ∧ (body.drop 32).take 32 = (h.mbreq.drop 16).take 32
        ∧ (body.drop 64).take 8 = leBytes 8 s.frame ∧ (body.drop 72).take 8 = leBytes 8 s.grade.toNat
        ∧ ∀ d, d < 8 → (body.drop (80 + 8 * d)).take 8 = leBytes 8 (s.clcap d))
    ∧ (asked 4 32 →
      ((s.debugIndex (field 0) (field 1) = false ∨ field 3 = 0 ∨ 4032 < field 3) → exec .debugread s = .next (answered s 2 []))
      ∧ (s.debugIndex (field 0) (field 1) = true → 1 ≤ field 3 → field 3 ≤ 4032 → ∃ body, exec .debugread s = .next (answered s 0 body)
          ∧ body.length ≤ field 3))
    ∧ (asked 5 16 →
      ((15 < field 0 ∨ 1 < field 1) → exec .setperm s = .next (answered s 2 []))
      ∧ (field 0 ≤ 15 → field 1 ≤ 1 → exec .setperm s = .next (answered (s.modCtx (field 0) fun x => { x with test := field 1 == 1 }) 0 [])))
    ∧ (asked 6 16 →
      let z := field 0
      let e := field 1
      let f (lo n : Nat) : Nat := e / 2 ^ lo % 2 ^ n
      let x := s.zone z
      let ok : Prop := f 8 4 ≤ f 4 4 ∧ f 4 4 ≤ f 12 4 ∧ ((zones.filter (· != z)).map fun n => (s.zone n).grant).foldl (· + ·) 0 + f 4 4 ≤ h.flowcap
        ∧ s.zoneLocked z = false ∧ x.evac = none
      ((259 < z ∨ 2 ^ 32 ≤ e) → exec .coolset s = .next (answered s 2 []))
      ∧ (z ≤ 259 → e < 2 ^ 32 → ¬ok → exec .coolset s = .next (answered s 1 []))
      ∧ (z ≤ 259 → e < 2 ^ 32 → ok → exec .coolset s = .next (answered (s.modZone z fun x => { x with
          shared := f 21 1 == 1
          owner := f 16 4
          max := f 12 4
          min := f 8 4
          grant := f 4 4
          counts := if f 4 4 < x.grant then f 4 4 else x.counts
          raised := if f 4 4 = x.grant then x.raised else none }) 0 [])))
    ∧ (asked 7 16 →
      let v : Word := BitVec.ofNat 64 (field 1)
      ((field 0 = 0 ∨ 15 < field 0 ∨ v &&& ~~~0x0000FFFFFFFFFFB1 ≠ 0) → exec .settrap s = .next (answered s 2 []))
      ∧ (1 ≤ field 0 → field 0 ≤ 15 → v &&& ~~~0x0000FFFFFFFFFFB1 = 0 →
          exec .settrap s = .next (answered (s.modCtx (field 0) fun x => { x with traprec := v }) 0 [])))
    ∧ (asked 8 16 →
      let peer := num 16 2
      let tokens := num 20 4
      let bad : Prop := 2047 < peer ∨ peer = h.module ∨ tokens < 1 ∨ 6400 < tokens ∨ num 18 2 ≠ 0 ∨ num 24 8 ≠ 0
      let waits := h.transfers.any (fun t => t.dest.isSome) || h.tokq.headD 512 != 512
      let few := h.balance - h.floor < tokens
      let busy := !s.reaches peer || h.transfers.any (fun t => t.peer == peer)
      let others := h.tokq.filter (· != 512)
      let left : State := s.modHub fun h => { h with tokq := others }
      (bad → exec .tokgive s = .next (answered s 0 (leBytes 8 4)))
      ∧ (¬bad → waits = true → exec .tokgive s = .next (s.modHub fun h => { h with tokq := if 512 ∈ h.tokq then h.tokq else h.tokq ++ [512] }))
      ∧ (¬bad → waits = false →
        (few → exec .tokgive s = .next (answered left 0 (leBytes 8 1)))
        ∧ (¬few → busy = true → exec .tokgive s = .next (answered left 0 (leBytes 8 2)))
        ∧ (¬few → busy = false → exec .tokgive s = .next { s with
            mgmtOut := s.mgmtOut ++ [(peer, .grant h.module h.xfernum tokens)]
            hub := { h with
              tokq := others
              balance := h.balance - tokens
              xfernum := (h.xfernum + 1) % 2 ^ 32
              transfers := h.transfers ++ [⟨peer, h.xfernum, tokens, s.frame, some (512, 0)⟩] } })))
    ∧ (h.recovery = true → h.mbbusy = true →
      let n := field 0
      let off := field 1
      let bad : Prop := num 4 4 < 17 ∨ 4080 < num 4 4 ∨ 16 ≤ n ∨ 2 ^ 32 ≤ off
      let image := (s.image n ++ List.replicate off 0).take off ++ (h.mbreq.drop 32).take (num 4 4 - 16)
      (bad → exec .flashImageWrite s = .next (answered s 2 []))
      ∧ (¬bad → exec .flashImageWrite s = .next (answered (s.modHub fun h => { h with flash := h.flash.set n image }) 0 [])))
    ∧ (∀ c, let i : Instr := .contextKill c
      (((s.ctx c).kill = .none ∨ (s.ctx c).kill = .complete) → exec i s = .next s)
      ∧ ((s.ctx c).kill = .running 1 → ∃ t, exec i s = .next t ∧ t.cores = s.cores ∧ SameMem s t ∧ (t.ctx c).frozen = true ∧ (t.ctx c).kill = .running 2
          ∧ ∀ w ∈ t.hub.wins, w.2.ctx = c → w.2.en = false)
      ∧ ((s.ctx c).kill = .running 2 → ∃ t, exec i s = .next t ∧ SameMem s t ∧ (t.ctx c).kill = .running 5
          ∧ ∀ j, (∀ b, (t.core j).task = some b → b.ctx ≠ c) ∧ (∀ x ∈ (t.core j).gate, x.org.ctx ≠ c) ∧ (∀ x ∈ (t.core j).xq, x.org.ctx ≠ c))
      ∧ ((s.ctx c).kill = .running 5 → ∃ t, exec i s = .next t ∧ t.cores = s.cores ∧ (t.ctx c).kill = .running 6
          ∧ ((∀ u ∈ s.upds, u.ctx ≠ c) → SameMem s t)
          ∧ (∀ r ∈ t.reqs, r.org.ctx ≠ c) ∧ (∀ p ∈ t.parked, p.req.org.ctx ≠ c) ∧ (∀ x ∈ t.conts ++ t.cancels, x.org.ctx ≠ c)
          ∧ (∀ o ∈ t.hostOut, o.org.ctx ≠ c) ∧ (∀ r ∈ t.remotes, r.org.ctx ≠ c) ∧ ∀ u ∈ t.upds, u.ctx ≠ c)
      ∧ ((s.ctx c).kill = .running 6 → ∃ t, exec i s = .next t ∧ SameMem s t ∧ t.cores = s.cores ∧ (t.ctx c).kill = .complete
          ∧ (t.ctx c).resident = false ∧ (t.ctx c).traprec = 0 ∧ (∀ m ∈ t.notices, m.ctx ≠ c)
          ∧ ∀ d, d < 8 → (∀ q ∈ (t.die d).queue, q.ctx ≠ c) ∧ ∀ p ∈ (t.die d).experts, p.2.ctx = c → p.2.st = .empty))
    ∧ (∀ d (v : Word), ∃ t, exec (.clcapWrite d v) s = .next t ∧ SameMem s t ∧ (∀ j, t.regs j = s.regs j)
        ∧ t.die d = { s.die d with
            thr := v.extractLsb' 48 16
            off := v.extractLsb' 32 16 ||| (s.die d).off
            wide := v.extractLsb' 0 16 &&& (s.die d).wide })

/-- What arrives from the fabric: REMOTE_LOAD and REMOTE_STORE are performed under the map of the flit's context and answered; the flits of a PUT or
of a COLLECTIVE_STEP are kept until the last, and then the message takes effect whole, with its continuation, or is refused whole; RESPONSE
completes a request, or cancels the task whose access was refused; MANAGEMENT hands its messages on; HEARTBEAT is sent; PEER_LOST,
LINK_DOWN, LANE_LOSS, FAULT_NOTICE and LOAD_COMPLETE_NOTICE, with the routing tables and the lost peers after a loss (R283, R285, R334,
R367, R381, R429 to R432). How a flit carries a refusal, a note and a continuation is the model's choice (log 22), and so is whether a dead link
is a lost router (log 33). -/
def Obligations.Fabric : Prop :=
  (∀ (s : State) (f : Flit),
    let ctx := flitFld f 28 4
    let va := BitVec.ofNat 64 (flitFld f 64 48)
    let len := flitFld f 52 8
    let data := (f.payload ++ List.replicate 224 0).take len
    let good (kind : Nat) : Prop := 1 ≤ len ∧ len ≤ 224 ∧ flitFld f 63 1 = 0 ∧ flitFld f 25 3 = kind ∧ flitFld f 0 11 = s.hub.module
    let takes : Prop := (s.ctx ctx).resident = true ∧ (s.ctx ctx).kill = .none
    let org : Org := ⟨ctx, none, none, none, 0, 0⟩
    let port : Nat := (Config.freeByte s.steps 4).toNat % 32
    let answered (u : State) (bs : List Byte) : State :=
      u.sendMessage ⟨flitFld f 11 11, flitFld f 48 3, 0, 0, 0, 0, 4, ctx, flitFld f 22 3⟩ [(flitFld f 32 16, bs)]
    let mine (g : Flit) : Prop := flitFld g 11 11 = flitFld f 11 11 ∧ flitFld g 28 4 = ctx ∧ flitFld g 120 8 = flitFld f 120 8
    ((len = 0 ∨ 224 < len ∨ flitFld f 63 1 ≠ 0 ∨ 5 < flitFld f 25 3) → ∀ i ∈ [Instr.remoteLoad f, .remoteStore f, .put f, .collectiveStep f, .response f],
      exec i s = .next (s.post (mkRec 0x44 0 ⟨17, port / 4, port % 4, 0, 0xFF⟩ (leBytes 1 4) none none)))
    ∧ (∀ n ks, good 0 → takes → len = 2 → n = leNat data → 1 ≤ n → n ≤ 224 → s.spanKeys 0 ctx .g va n .read = .ok ks →
        (∀ k ∈ ks, keySpace k ≠ 8) → s.poison = [] → s.behindParked ks = false → (∀ k ∈ ks, s.unformed (k / 256) = none) →
        exec (.remoteLoad f) s = .next (answered s (ks.map (Memory.read s.mem))))
    ∧ (∀ n, good 0 → len = 2 → n = leNat data → (¬takes ∨ n = 0 ∨ 224 < n ∨ ∃ e, s.spanKeys 0 ctx .g va n .read = .error e) →
        exec (.remoteLoad f) s = .next (answered s (if n = 1 then [0, 0] else [0])))
    ∧ (∀ ks t, good 1 → takes → s.spanKeys 0 ctx .g va len .write = .ok ks → (∀ k ∈ ks, keySpace k ≠ 8) → s.behindParked ks = false →
        s.translate ctx va .write = .ok t → t.cls < 3 → t.rc = false → va.toNat % 32 + len ≤ 32 →
        ∃ u, exec (.remoteStore f) s = .next (answered u [0]) ∧ Stored s u ((List.range len).map (t.key + ·)) data ∧ u.cores = s.cores ∧ u.hub = s.hub)
    ∧ (good 1 → (¬takes ∨ ∃ e, s.spanKeys 0 ctx .g va len .write = .error e) → exec (.remoteStore f) s = .next (answered s [0, 0]))
    ∧ (∀ kind (i : Instr), (kind = 2 ∧ i = .put f) ∨ (kind = 3 ∧ i = .collectiveStep f) → good kind →
        let m := s.arrived f
        let b := m.block
        let old : State := { s with landing := s.landing.filter fun g => !((s.landing.filter fun h => decide (mine h)) ++ [f]).contains g }
        (¬takes → exec i s = .next old)
        ∧ (takes → flitFld f 60 1 = 0 → exec i s = .next { s with landing := s.landing ++ [f] })
        ∧ (takes → flitFld f 60 1 = 1 → old.putRefused m = true → (m.op = 0 ∨ old.hurtKey (old.reduceKeys b) = none) →
            exec i s = .next (answered old [0, 0]))
        ∧ (∀ w u, takes → flitFld f 60 1 = 1 → old.putRefused m = false → old.landPut m = (w, u) →
            let word := BitVec.ofNat 64 (leNat (data.take 8))
            exec i s = .next (answered (if m.note.cont = true ∧ len = 16 ∧ contKind word ≠ 0 then { u with conts := u.conts ++
              [⟨.tdec word (BitVec.ofNat 64 (leNat ((data.drop 8).take 8)) ||| w), 1, org, none, (17, (Config.freeByte u.steps 4).toNat % 32)⟩] } else u) [0]))
        ∧ (takes → flitFld f 60 1 = 1 → old.putRefused m = false → m.op = 0 → b.r.space ≠ 0 → b.r.rime = 0 → (b.r.fmt = 0 ∨ b.r.fmt = 8) →
            let inside := b.cells.filter fun p => (b.at p.1 p.2).1 && (m.contents.bits old p.1 p.2).isSome
            let keys (p : Nat × Nat) : List Nat := match old.elemKeys b .write (b.at p.1 p.2).2 with | .ok ks => ks.1 | .error _ => []
            (∀ p ∈ inside, (keys p).length = 4 ∧ (keys p).Nodup) →
            (∀ p ∈ inside, ∀ q ∈ inside, p = q ∨ ∀ a ∈ keys p, a ∉ keys q) →
            ∃ t, exec i s = .next t ∧ t.cores = s.cores
              ∧ (∀ p ∈ inside, ∀ v, m.contents.bits old p.1 p.2 = some v → (keys p).map (Memory.read t.mem) = leBytes 4 v)
              ∧ ∀ a, (∀ p ∈ inside, a ∉ keys p) → Memory.read t.mem a = Memory.read s.mem a))
    ∧ (good 4 → (∀ r ∈ s.remotes, r.answeredBy f = false) → exec (.response f) s = .next s)
    ∧ (∀ r, good 4 → s.remotes = [r] → r.answeredBy f = true →
        let u : State := { s with remotes := [] }
        let c := r.org.core.getD 0
        let seen := data.zipIdx.map fun p => ((r.own.find? fun q => q.1 == p.2).map (·.2)).getD p.1
        let refused (kind path : Nat) : State := (u.post (mkRec 0x10 2 ⟨17, port / 4, port % 4, 0, 0xFF⟩
          (leBytes 1 kind ++ leBytes 1 8 ++ leBytes 1 path ++ leBytes 1 0 ++ leBytes 4 r.elem) (some r.addr) (some r.org))).cancelTask r.org
        let dropped : State := u.post (mkRec 0x1A 2 (locDie 16 8) (leBytes 1 1) (some r.addr) none)
        (r.kind = 0 → len = r.bytes → r.lane = none →
          exec (.response f) s = .next { u with rets := s.rets ++ [⟨c, match r.dest with
            | [d, e] => [(d, BitVec.ofNat 64 (leNat (seen.take 8))), (e, BitVec.ofNat 64 (leNat (seen.drop 8)))]
            | [d] => [(d, extendLoad r.size (leNat seen))]
            | _ => []⟩] })
        ∧ (∀ g l, r.kind = 0 → len = r.bytes → r.lane = some (g, l) →
          exec (.response f) s = .next (u.modCore c fun k => { k with
            vpend := k.vpend.map fun p => if p.group = g then p.fill (l.map fun q => (q.2, seen.getD q.1 0)) else p }))
        ∧ (r.kind = 0 → len ≠ r.bytes → exec (.response f) s = .next (refused 0 0))
        ∧ (r.kind = 1 → r.org.core ≠ none → exec (.response f) s = .next (if len = 1 then u else refused 1 0))
        ∧ (r.kind = 1 → r.org.core = none → exec (.response f) s = .next (if len = 1 then u else dropped))
        ∧ (∀ x, r.kind = 2 → len = 1 → (s.core c).xq = [x] → x.name = r.size → x.stage = 2 →
          exec (.response f) s = .next ({ u with far := u.far.del x.farName }.modCore c fun k => { k with xq := [] }))
        ∧ (∀ x, r.kind = 2 → len ≠ 1 → (s.core c).xq = [x] → x.name = r.size → ∃ v, exec (.response f) s = .next v ∧ (v.core c).xq = [] ∧ v.remotes = [])
        ∧ (r.kind = 3 → len = r.bytes → ∃ v, exec (.response f) s = .next v ∧ v.remotes = [] ∧ v.cores = s.cores ∧
            Stored s v ((List.range r.bytes).map (spaceKey 8 (r.module * 2 ^ 48 + r.rctx * 2 ^ 44 + r.addr.toNat) + ·)) data)
        ∧ (r.kind = 3 → len ≠ r.bytes → exec (.response f) s = .next (refused 0 1))
        ∧ (r.kind = 4 → r.org.core ≠ none → exec (.response f) s = .next (if len = 1 then u else refused 1 1))
        ∧ (r.kind = 5 → len = r.bytes → r.rmw = none → exec (.response f) s = .next (u.hostFill r.size data))
        ∧ (r.kind = 5 → len ≠ r.bytes → exec (.response f) s = .next (dropped.hostFill r.size (List.replicate r.bytes 0xFF)))))
  ∧ (∀ s : State,
    let h := s.hub
    (∀ src num tokens, ∃ t, exec (.tokenGrant src num tokens) s = .next t ∧ exec (.management (.grant src num tokens)) s = .next t)
    ∧ (∀ o q l, ∃ t, exec (.faultNotice o q l) s = .next t ∧ exec (.management (.fault o q l)) s = .next t)
    ∧ (∀ m, ∃ t, exec (.loadCompleteNotice m) s = .next t ∧ exec (.management (.loadComplete m)) s = .next t)
    ∧ (∀ src groups, ∃ t, exec (.management (.heartbeat src groups)) s = .next t ∧ t.hub.heard = h.heard.set src s.frame ∧ t.cores = s.cores
        ∧ (∀ g, g ≠ 0 → ((src, g) ∈ t.hub.members ↔ ∃ b ∈ groups, b.group = g)) ∧ (∀ p, p.1 ≠ src → (p ∈ t.hub.members ↔ p ∈ h.members))
        ∧ ((∀ b ∈ groups, b.group = 0) → SameMem s t)
        ∧ ∀ b, groups = [b] → b.group ≠ 0 → b.step ≤ 15 →
          let p := s.pairOf b.group
          if p.2 < b.tick ∨ (p.2 = b.tick ∧ p.1 < b.step) then
            ∀ d, d < 8 → (s.die d).cgroup = b.group → t.pairOf b.group = (b.step, b.tick)
              ∧ (t.die d).pending = addPending b.step (s.frame + 1) (s.die d).pending
          else SameMem s t ∧ ∀ d, t.die d = s.die d)
    ∧ (s.frame / 1000 ≤ h.beatN → exec .heartbeat s = .next s)
    ∧ (h.beatN < s.frame / 1000 → exec .heartbeat s = .next { s with
        hub := { h with beatN := s.frame / 1000 }
        mgmtOut := s.mgmtOut ++ [(2048, .heartbeat h.module s.groupBeats)] })
    ∧ (∀ g, (∃ b ∈ s.groupBeats, b.group = g ∧ b.step = (s.pairOf g).1 ∧ b.tick = (s.pairOf g).2) ↔ g ≠ 0 ∧ ∃ d, d < 8 ∧ (s.die d).cgroup = g)
    ∧ (∀ o q lost, (h.notices.contains (o, q) = true → exec (.faultNotice o q lost) s = .next s)
        ∧ (h.notices.contains (o, q) = false → ∃ t, exec (.faultNotice o q lost) s = .next t ∧ (o, q) ∈ t.hub.notices
            ∧ (∀ m, lost = .module m → m ∈ t.hub.lostMods) ∧ (∀ m ∈ h.lostMods, m ∈ t.hub.lostMods)
            ∧ t.mgmtOut = s.mgmtOut ++ [(2048, .fault o q lost), (2048, .loadComplete h.module)]
            ∧ t.hub.links = linksAfter h.links o lost ∧ t.hub.routes = routesOf h.module t.hub.links
            ∧ (∀ x ∈ t.hub.links, x.toModule ≠ h.module → (∀ r ∈ t.hub.routes, r.1 / 8 % 2048 ≠ x.toModule) → x.toModule ∈ t.hub.lostMods)
            ∧ ∀ c m, c < 16 → (lost = .module m ∨ (m ∈ t.hub.lostMods ∧ m ∉ h.lostMods)) → (s.ctx c).resident = true → s.namesModule c m = true →
                (s.ctx c).kill = .none → (t.ctx c).kill = .running 1 ∧ (t.ctx c).frozen = true))
    ∧ (∀ m, let l := if h.loads.contains m then h.loads else m :: h.loads
        exec (.loadCompleteNotice m) s = .next (s.modHub fun g =>
          if g.recStep = 5 ∧ s.livePeers.all l.contains = true then { g with recStep := 0, loads := [] } else { g with loads := l }))
    ∧ (∀ m, h.heard.find m = none → exec (.peerLost m) s = .next s)
    ∧ (∀ m t, h.heard.find m = some t →
        ((s.frame < t + 3000 ∨ h.lostMods.contains m = true) → exec (.peerLost m) s = .next s)
        ∧ (t + 3000 ≤ s.frame → h.lostMods.contains m = false → h.notices.contains (h.module, h.noticeN) = false → ∃ u, exec (.peerLost m) s = .next u
            ∧ m ∈ u.hub.lostMods ∧ u.hub.noticeN = h.noticeN + 1
            ∧ u.mgmtOut = s.mgmtOut ++ [(2048, .fault h.module h.noticeN (.module m)), (2048, .loadComplete h.module)]))
    ∧ (∀ p, (32 ≤ p ∨ h.downPorts.contains p = true → exec (.linkDown p) s = .next s)
        ∧ (p < 32 → h.downPorts.contains p = false → h.notices.contains (h.module, h.noticeN) = false → ∃ u, exec (.linkDown p) s = .next u
            ∧ u.hub.downPorts = p :: h.downPorts ∧ u.hub.links = linksAfter h.links h.module (.link p (Config.freeBit s.steps 0))
            ∧ u.mgmtOut = s.mgmtOut ++
              [(2048, .fault h.module h.noticeN (.link p (Config.freeBit s.steps 0))), (2048, .loadComplete h.module)]))
    ∧ (∀ p l, (32 ≤ p ∨ 4 ≤ l ∨ h.lostLanes.contains (p, l) = true → exec (.laneLoss p l) s = .next s)
        ∧ (p < 32 → l < 4 → h.lostLanes.contains (p, l) = false → exec (.laneLoss p l) s = .next ((s.modHub fun g =>
            { g with lostLanes := (p, l) :: g.lostLanes }).post (mkRec 0x44 0 ⟨17, p / 4 % 8, p % 4, l, 0xFF⟩ (leBytes 1 0 ++ leBytes 2 0) none none)))))

/-- Power and coolant: TOKEN_GRANT, TOKX_ACK_TIMEOUT and TOKEN_OUTCOME_QUERY; GOVERNOR_WINDOW; STEP_ANNOUNCEMENT and STEP_CHANGE;
ENERGY_COUNTER_UPDATE; VALVE_SETTING, GRANT_COUNTS and SENSOR_SAMPLE; PURGE_START, PURGE_PULSE and PURGE_GAP (R305, R306, R309, R310, R313,
R318, R319, R322, R425 to R429). What measured values the events carry (log 16), to which task the energy of a tick goes in which a task ends
(log 15), and the position of a busy or a hot zone's valve (logs 33 and 51) are the model's choice. -/
def Obligations.PowerAndCoolant : Prop :=
  ∀ s : State,
    let h := s.hub
    let idle (i : Instr) : Prop := exec i s = .next s
    (∀ src num tokens, let i : Instr := .tokenGrant src num tokens
      let answer (ok : Bool) : Nat × Mgmt := (src, .grantAnswer h.module num ok)
      let ok := decide (h.balance + tokens ≤ 6400)
      (∀ g, (h.grantlog.find? fun g => g.1 == src && g.2.1 == num) = some g → exec i s = .next { s with mgmtOut := s.mgmtOut ++ [answer g.2.2] })
      ∧ ((∀ g ∈ h.grantlog, g.1 ≠ src ∨ g.2.1 ≠ num) → exec i s = .next { s with
          mgmtOut := s.mgmtOut ++ [answer ok]
          hub := { h with balance := if ok then h.balance + tokens else h.balance, grantlog := ((src, num, ok) :: h.grantlog).take 64 } }))
    ∧ (∀ t c d, h.transfers = [t] → t.dest = some (c, d) → c ≠ 512 →
        (s.frame < t.tick + 1000 → idle (.tokxAckTimeout t.peer))
        ∧ (t.tick + 1000 ≤ s.frame → exec (.tokxAckTimeout t.peer) s = .next (({ s with
            hub := { h with transfers := [{ t with dest := none, tick := s.frame }] }
            rets := s.rets ++ [(⟨c, [(d, 3)]⟩ : Ret)] }).post
              (mkRec 0x42 0 (locDie 19 8) (leBytes 2 t.peer ++ leBytes 4 t.tokens ++ leBytes 4 t.num ++ leBytes 1 0) none none))))
    ∧ (∀ t, h.transfers = [t] → t.dest = none →
        (s.frame < t.tick + 1000 → idle (.tokenOutcomeQuery t.peer))
        ∧ (t.tick + 1000 ≤ s.frame → exec (.tokenOutcomeQuery t.peer) s = .next { s with
            hub := { h with transfers := [{ t with tick := s.frame }] }
            mgmtOut := s.mgmtOut ++ [(t.peer, .outcomeQuery h.module t.num)] }))
    ∧ (∀ avg dies clusters, let i : Instr := .governorWindow avg dies clusters
      let now (g : Hub) : Hub := { g with windowN := s.frame / 1000, power := avg, govern := h.balance }
      (s.frame / 1000 ≤ h.windowN → idle i)
      ∧ (h.windowN < s.frame / 1000 → avg ≤ h.govern → h.govern * 9 ≤ avg * 10 →
          exec i s = .next (s.modHub fun g => { now g with lowwin := 0, overwin := 0 }))
      ∧ (h.windowN < s.frame / 1000 → avg * 10 < h.govern * 9 → h.lowwin < 7 →
          exec i s = .next (s.modHub fun g => { now g with lowwin := g.lowwin + 1, overwin := 0 }))
      ∧ (∀ d, h.windowN < s.frame / 1000 → h.govern < avg → d < 8 → (s.die d).step < 15 → (s.die d).cgroup = 0 →
          (∀ e, e < 8 → dies.getD e 0 < dies.getD d 0 ∨ (dies.getD e 0 = dies.getD d 0 ∧ d ≤ e)) →
          exec i s = .next ((s.modHub fun g => { now g with lowwin := 0, overwin := 0 }).modDie d fun x =>
            { x with pending := addPending ((s.die d).step + 1) (s.frame + 1) x.pending })))
    ∧ (∀ d n t, let x := s.die d
      let i : Instr := .stepAnnouncement d n t
      ((x.cgroup = 0 ∨ 15 < n) → idle i)
      ∧ (x.cgroup ≠ 0 → n ≤ 15 → s.frame ≤ t → x.pending = [] → exec i s = .next (s.modDie d fun x => { x with pending := [(n, t)] }))
      ∧ (x.cgroup ≠ 0 → n ≤ 15 → s.frame ≤ t → ∀ m, x.pending = [(m, t)] →
          exec i s = .next (s.modDie d fun x => { x with pending := [(max m n, t)] })))
    ∧ (∀ d, let x := s.die d
      (x.pending = [] → idle (.stepChange d))
      ∧ ∀ n t rest, x.pending = (n, t) :: rest →
        (s.frame < t → idle (.stepChange d))
        ∧ (t ≤ s.frame → x.cgroup = 0 → exec (.stepChange d) s = .next (s.modDie d fun x => { x with step := n, pending := rest })))
    ∧ (∀ cores dies hub total, let i : Instr := .energyCounterUpdate cores dies hub total
      let used (c : Nat) : Nat := let x := cores.getD c ⟨0, 0, 0⟩; x.own + x.arrays + x.accesses
      let account (c : Nat) : Nat := if (s.core c).task = none then 0 else (s.core c).eacct % 256
      let spent (p : Nat → Bool) : Nat := (((List.range 512).filter p).map used).sum
      (s.frame ≤ h.energyN → idle i)
      ∧ (h.energyN < s.frame → dies.length ≤ 8 → spent (fun _ => true) ≤ total → ∃ e, exec i s = .next (s.modHub fun g =>
            { g with energyN := s.frame, energy := e })
          ∧ e.total = (h.energy.total + total) % 2 ^ 64 ∧ e.hub = (h.energy.hub + hub) % 2 ^ 64
          ∧ (∀ d, d < dies.length → e.dies.get d 0 = (h.energy.dies.get d 0 + dies.getD d 0) % 2 ^ 64)
          ∧ ∀ n, n < 256 → (∀ k, h.energy.accounts.get k 0 < 2 ^ 64) → e.accounts.get n 0 = (h.energy.accounts.get n 0
              + (spent fun c => account c == n) + if n = 0 then total - spent (fun _ => true) else 0) % 2 ^ 64))
    ∧ (s.frame / 1000 ≤ h.valveN → idle .valveSetting)
    ∧ (h.valveN < s.frame / 1000 → (∀ z, z < 260 → hottest (s.zone z) ≤ h.ttarget * 16) → ∃ t, exec .valveSetting s = .next t
        ∧ t.hub.valveN = s.frame / 1000 ∧ t.cores = s.cores ∧ SameMem s t
        ∧ ∀ z, z < 260 → let x := s.zone z
          (t.zone z).valve = (if s.zoneShut z = true then 0 else if x.purge ≠ .idle then x.valve
            else if s.zoneBusy z = true then max x.grant (s.zoneDemand z) else if x.counts < x.grant then x.grant else x.min))
    ∧ (h.valveN < s.frame / 1000 → ∃ t, exec .valveSetting s = .next t ∧ ∀ z, z < 260 → let x := s.zone z
        h.ttarget * 16 < hottest x → s.zoneShut z = false → x.purge = .idle →
        ∃ n, (n = x.valve ∨ n = x.valve + 1) ∧ (t.zone z).valve = max (s.valveBase z) (min x.max n))
    ∧ (∀ z, let x := s.zone z
      (x.raised = none → idle (.grantCounts z))
      ∧ ∀ t, x.raised = some t →
        (s.frame < t + 5000 → idle (.grantCounts z))
        ∧ (t + 5000 ≤ s.frame → exec (.grantCounts z) s = .next (s.modZone z fun x => { x with counts := x.grant, raised := none })))
    ∧ (∀ l : List ZoneReading, (s.frame / 100 ≤ h.sampleN → idle (.sensorSample l))
        ∧ (h.sampleN < s.frame / 100 → ∃ t, exec (.sensorSample l) s = .next t ∧ t.hub.sampleN = s.frame / 100 ∧ (∀ j, t.regs j = s.regs j)
          ∧ ∀ z r, z < 260 → l[z]? = some r →
            (t.zone z).zsens0 = packed ((List.range 4).map fun n => (toBits 16 (r.t.getD n 0), 16 * n))
              ∧ (t.zone z).zsens1 = packed [(r.void.toNat, 32), (r.press % 2 ^ 16, 16), (r.flow % 2 ^ 16, 0)]))
    ∧ (∀ z, let x := s.zone z
      let pulsed (i : Instr) : Prop := ∃ t, exec i s = .next t ∧ (t.zone z).valve = 15 ∧ (t.zone z).purge = .pulse (s.frame + 200000)
        ∧ (t.zone z).pulses = x.pulses + 1 ∧ t.cores = s.cores
      (x.evac = none → idle (.purgeStart z))
      ∧ (∀ v, x.evac = some v → (s.frame ≤ v + 50 → idle (.purgeStart z))
        ∧ (v + 50 < s.frame → z < 260 → (∀ n, n < 260 → (s.zone n).purge = .idle ∧ (n ≠ z → (s.zone n).evac = none)) →
            (∀ k, zoneCluster z = some k → ∀ j, clusterOf j = k → (s.core j).task = none) → pulsed (.purgeStart z)))
      ∧ (∀ t, x.purge = .pulse t →
        (s.frame < t → idle (.purgePulse z))
        ∧ (t ≤ s.frame → 10 ≤ x.runs.get 6 0 → exec (.purgePulse z) s = .next
            ((s.modZone z fun x => { x with evac := none, purge := .idle, pulses := 0 }).post
              (mkRec 0x40 0 ⟨18, 8, z / 256, z % 256, 6⟩ (leBytes 1 7 ++ leBytes 1 0 ++ leBytes 4 0) none none)))
        ∧ (t ≤ s.frame → x.runs.get 6 0 < 10 → x.pulses < 5 → ∃ u, exec (.purgePulse z) s = .next u ∧ (u.zone z).valve = 0
            ∧ (u.zone z).purge = .gap (s.frame + 5000) ∧ u.cores = s.cores)
        ∧ (∀ k, t ≤ s.frame → x.runs.get 6 0 < 10 → 5 ≤ x.pulses → zoneCluster z = some k → ∃ u, exec (.purgePulse z) s = .next u
            ∧ (u.zone z).fenced = true ∧ (u.zone z).valve = 0 ∧ (u.die (k / 16)).off.getLsbD (k % 16) = true))
      ∧ (∀ t, x.purge = .gap t → (s.frame < t → idle (.purgeGap z)) ∧ (t ≤ s.frame → pulsed (.purgeGap z))))
end

