-- ==== Sys2Proof/Laws/Memory.lean ====
section
/-! SUPPORT. Memory: every operation keeps the canonical form; what is read after a write. -/
namespace Sys2Proof.Machine

/-! The canonical form. -/

theorem Memory.mem_insert (m : Memory) (a : Nat) (b : Byte) (x : Host.Cell) :
    x ∈ Memory.insert m a b ↔ x = (a, b) ∨ x ∈ m := by
  induction m with
  | nil => simp [Memory.insert]
  | cons p m ih =>
    obtain ⟨k, v⟩ := p
    unfold Memory.insert
    split
    · simp
    · simp only [List.mem_cons, ih]; exact or_left_comm

theorem Memory.wf_erase {m : Memory} (a : Nat) (h : Memory.wf m) : Memory.wf (m.erase a) :=
  ⟨h.1.filter _, fun x hx => h.2 x ((List.mem_filter.mp hx).1)⟩

theorem Memory.pairwise_insert {m : Memory} {a : Nat} (b : Byte) (h : m.Pairwise fun x y => x.1 < y.1)
    (na : ∀ x ∈ m, x.1 ≠ a) : (Memory.insert m a b).Pairwise fun x y => x.1 < y.1 := by
  induction m with
  | nil => simp [Memory.insert]
  | cons p m ih =>
    obtain ⟨k, v⟩ := p
    have h1 := List.pairwise_cons.mp h
    unfold Memory.insert
    split
    · rename_i hk
      refine List.pairwise_cons.mpr ⟨?_, h⟩
      intro x hx
      cases hx with
      | head => exact hk
      | tail _ hx => exact Nat.lt_trans hk (h1.1 x hx)
    · rename_i hk
      have hka : k ≠ a := na (k, v) (.head _)
      refine List.pairwise_cons.mpr ⟨?_, ih h1.2 fun x hx => na x (.tail _ hx)⟩
      intro x hx
      rcases (Memory.mem_insert m a b x).mp hx with e | e
      · subst e; show k < a; omega
      · exact h1.1 x e

theorem Memory.wf_write {m : Memory} (a : Nat) (b : Byte) (h : Memory.wf m) : Memory.wf (m.write a b) := by
  unfold Memory.write
  split
  · exact Memory.wf_erase a h
  · rename_i hb
    refine ⟨Memory.pairwise_insert b (Memory.wf_erase a h).1 ?_, ?_⟩
    · intro x hx
      have := (List.mem_filter.mp hx).2
      simpa using this
    · intro x hx
      rcases (Memory.mem_insert _ a b x).mp hx with e | e
      · subst e; exact hb
      · exact (Memory.wf_erase a h).2 x e

theorem Memory.wf_writeL {m : Memory} (a : Nat) (bs : List Byte) (h : Memory.wf m) : Memory.wf (m.writeL a bs) := by
  induction bs generalizing m a with
  | nil => exact h
  | cons b bs ih => exact ih (a + 1) (Memory.wf_write a b h)

theorem State.put_wf {s : State} (key : Nat) (bs : List Byte) (h : Memory.wf s.mem) : Memory.wf (s.put key bs).mem :=
  Memory.wf_writeL key bs h

theorem State.putE_wf {s : State} (key : Nat) (bs : List Byte) (h : Memory.wf s.mem) : Memory.wf (s.putE key bs).mem :=
  Memory.wf_writeL key bs h

theorem State.reset_mem_wf : Memory.wf State.reset.mem := ⟨.nil, fun _ h => nomatch h⟩

/-! Reads after writes. -/

@[simp] theorem Memory.read_nil (a : Nat) : Memory.read [] a = Memory.unlisted := rfl

@[simp] theorem Memory.read_erase_same (m : Memory) (a : Nat) : (m.erase a).read a = Memory.unlisted := by
  induction m with
  | nil => rfl
  | cons p m ih =>
    obtain ⟨k, v⟩ := p
    unfold Memory.erase at ih ⊢
    by_cases e : k = a
    · simp [e, ih]
    · simp [e, Memory.read, ih]

theorem Memory.read_erase_other (m : Memory) {a c : Nat} (h : c ≠ a) : (m.erase a).read c = m.read c := by
  induction m with
  | nil => rfl
  | cons p m ih =>
    obtain ⟨k, v⟩ := p
    unfold Memory.erase at ih ⊢
    by_cases e : k = a
    · have : ¬ a = c := fun x => h x.symm
      simp [e, Memory.read, this, ih]
    · simp [e, Memory.read, ih]

@[simp] theorem Memory.read_insert_same (m : Memory) (a : Nat) (b : Byte) (na : ∀ x ∈ m, x.1 ≠ a) : (Memory.insert m a b).read a = b := by
  induction m with
  | nil => simp [Memory.insert, Memory.read]
  | cons p m ih =>
    obtain ⟨k, v⟩ := p
    unfold Memory.insert
    split
    · simp [Memory.read]
    · have : k ≠ a := na (k, v) (.head _)
      simp [Memory.read, this, ih fun x hx => na x (.tail _ hx)]

theorem Memory.read_insert_other (m : Memory) {a c : Nat} (b : Byte) (h : c ≠ a) : (Memory.insert m a b).read c = m.read c := by
  have h' : ¬ a = c := fun e => h e.symm
  induction m with
  | nil => simp [Memory.insert, Memory.read, h']
  | cons p m ih =>
    obtain ⟨k, v⟩ := p
    unfold Memory.insert
    split
    · simp [Memory.read, h']
    · simp [Memory.read, ih]

/-- A byte written is the byte read at its address. -/
@[simp] theorem Memory.read_write_same (m : Memory) (a : Nat) (b : Byte) : (m.write a b).read a = b := by
  unfold Memory.write
  split
  · rename_i h; simp [h]
  · refine Memory.read_insert_same _ a b fun x hx => ?_
    have := (List.mem_filter.mp hx).2
    simpa using this

/-- A write leaves every other byte alone. -/
theorem Memory.read_write_other (m : Memory) {a c : Nat} (b : Byte) (h : c ≠ a) : (m.write a b).read c = m.read c := by
  unfold Memory.write
  split
  · exact Memory.read_erase_other m h
  · rw [Memory.read_insert_other _ b h, Memory.read_erase_other m h]

theorem Memory.read_writeL_outside (m : Memory) (a : Nat) (bs : List Byte) {c : Nat} (h : c < a ∨ a + bs.length ≤ c) :
    (m.writeL a bs).read c = m.read c := by
  induction bs generalizing m a with
  | nil => rfl
  | cons b bs ih =>
    simp only [List.length_cons] at h
    unfold Memory.writeL
    rw [ih _ _ (by omega), Memory.read_write_other m b (by omega)]

theorem Memory.readN_writeL (m : Memory) (a : Nat) (bs : List Byte) : (m.writeL a bs).readN a bs.length = bs := by
  induction bs generalizing m a with
  | nil => rfl
  | cons b bs ih =>
    simp only [List.length_cons, Memory.readN, Memory.writeL, ih]
    rw [Memory.read_writeL_outside _ _ _ (by omega), Memory.read_write_same]

theorem Memory.readN_congr {m n : Memory} (a k : Nat) (h : ∀ i, a ≤ i → i < a + k → m.read i = n.read i) : m.readN a k = n.readN a k := by
  induction k generalizing a with
  | zero => rfl
  | succ k ih =>
    simp only [Memory.readN]
    rw [h a (by omega) (by omega), ih (a + 1) fun i h1 h2 => h i (by omega) (by omega)]

theorem State.get_put_same (s : State) (key : Nat) (bs : List Byte) : (s.put key bs).get key bs.length = bs := by
  simp [State.get, State.put, Memory.readN_writeL]

theorem State.read_put_outside (s : State) (key : Nat) (bs : List Byte) {c : Nat} (h : c < key ∨ key + bs.length ≤ c) :
    Memory.read (s.put key bs).mem c = Memory.read s.mem c := Memory.read_writeL_outside s.mem key bs h

/-! Numbers in bytes. -/

@[simp] theorem leBytes_length (n v : Nat) : (leBytes n v).length = n := by
  induction n generalizing v with
  | zero => rfl
  | succ n ih => simp [leBytes, ih]

theorem leNat_leBytes (n v : Nat) : leNat (leBytes n v) = v % 256 ^ n := by
  induction n generalizing v with
  | zero => simp [leBytes, leNat, Nat.mod_one]
  | succ n ih =>
    have e : 256 ^ (n + 1) = 256 * 256 ^ n := by rw [Nat.pow_succ, Nat.mul_comm]
    have b : (BitVec.ofNat 8 v).toNat = v % 256 := by rw [BitVec.toNat_ofNat]
    rw [leBytes, leNat, ih, e, b, Nat.mod_mul]

end Sys2Proof.Machine
end

