-- ==== Sys2Proof/Laws/Tbl.lean ====
section
/-! SUPPORT. Sparse tables and takeAt: what a read gives after a write. -/
namespace Sys2Proof.Machine

@[simp] theorem Tbl.get_nil {α : Type} (k : Nat) (d : α) : Tbl.get [] k d = d := rfl

@[simp] theorem Tbl.get_set_same {α : Type} (t : Tbl α) (k : Nat) (v d : α) : (Tbl.set t k v).get k d = v := by
  induction t with
  | nil => simp [Tbl.set, Tbl.get]
  | cons p t ih =>
    obtain ⟨i, w⟩ := p
    unfold Tbl.set
    split
    · simp [Tbl.get]
    · split
      · simp [Tbl.get]
      · rename_i h; simp [Tbl.get, ih]; intro e; exact absurd e.symm h

theorem Tbl.get_set_other {α : Type} (t : Tbl α) {j k : Nat} (v d : α) (h : j ≠ k) : (Tbl.set t k v).get j d = t.get j d := by
  have hk : ¬ k = j := fun e => h e.symm
  induction t with
  | nil => simp [Tbl.set, Tbl.get, hk]
  | cons p t ih =>
    obtain ⟨i, w⟩ := p
    unfold Tbl.set
    split
    · simp [Tbl.get, hk]
    · split
      · rename_i e; subst e; simp [Tbl.get, hk]
      · simp [Tbl.get, ih]

theorem Tbl.get_set {α : Type} (t : Tbl α) (j k : Nat) (v d : α) :
    (Tbl.set t k v).get j d = if j = k then v else t.get j d := by
  split
  · rename_i h; subst h; simp
  · rename_i h; exact Tbl.get_set_other t v d h

/-- A table that lists a function's values over rising numbers reads as the function there. -/
theorem Tbl.get_map_range {α : Type} (f : Nat → α) (d : α) {n k : Nat} (h : k < n) :
    Tbl.get ((List.range n).map fun i => (i, f i)) k d = f k := by
  have gen : ∀ (l : List Nat), k ∈ l → Tbl.get (l.map fun i => (i, f i)) k d = f k := by
    intro l
    induction l with
    | nil => intro hk; cases hk
    | cons a l ih =>
      intro hk
      by_cases e : a = k
      · simp [Tbl.get, e]
      · have : k ∈ l := by
          cases hk with
          | head => exact absurd rfl e
          | tail _ h => exact h
        simp [Tbl.get, e, ih this]
  exact gen _ (List.mem_range.mpr h)

theorem Tbl.wf_set {α : Type} (t : Tbl α) (k : Nat) (v : α) (h : Tbl.wf t) : Tbl.wf (Tbl.set t k v) := by
  induction t with
  | nil => simp [Tbl.set, Tbl.wf]
  | cons p t ih =>
    obtain ⟨i, w⟩ := p
    have h1 := List.pairwise_cons.mp h
    unfold Tbl.set
    split
    · rename_i hk
      refine List.pairwise_cons.mpr ⟨?_, h⟩
      intro b hb
      cases hb with
      | head => exact hk
      | tail _ hb => exact Nat.lt_trans hk (h1.1 b hb)
    · split
      · rename_i e; subst e; exact List.pairwise_cons.mpr ⟨h1.1, h1.2⟩
      · rename_i h2 h3
        refine List.pairwise_cons.mpr ⟨?_, ih h1.2⟩
        have mem : ∀ (t : Tbl α) (b : Nat × α), b ∈ Tbl.set t k v → b.1 = k ∨ b ∈ t := by
          intro t
          induction t with
          | nil => intro b hb; simp [Tbl.set] at hb; exact .inl (by rw [hb])
          | cons q t ih =>
            obtain ⟨i, w⟩ := q
            intro b hb
            unfold Tbl.set at hb
            split at hb
            · cases hb with
              | head => exact .inl rfl
              | tail _ hb => exact .inr hb
            · split at hb
              · cases hb with
                | head => exact .inl rfl
                | tail _ hb => exact .inr (.tail _ hb)
              · cases hb with
                | head => exact .inr (.head _)
                | tail _ hb => exact (ih b hb).imp id (.tail _)
        intro b hb
        rcases mem t b hb with e | e
        · have : i < k := by omega
          simpa [e] using this
        · exact h1.1 b e

end Sys2Proof.Machine
end

