-- ==== Sys2Proof/Laws/State.lean ====
section
/-! SUPPORT. The fields of the state after each update, one lemma a field, and the parts of the state read through their accessors. -/
namespace Sys2Proof.Machine

/-! What modCore leaves. -/

@[simp] theorem State.modCore_mem (s : State) (c : Nat) (f : Core → Core) : (s.modCore c f).mem = s.mem := rfl
@[simp] theorem State.modCore_poison (s : State) (c : Nat) (f : Core → Core) : (s.modCore c f).poison = s.poison := rfl
@[simp] theorem State.modCore_rflags (s : State) (c : Nat) (f : Core → Core) : (s.modCore c f).rflags = s.rflags := rfl
@[simp] theorem State.modCore_tags (s : State) (c : Nat) (f : Core → Core) : (s.modCore c f).tags = s.tags := rfl
@[simp] theorem State.modCore_shadows (s : State) (c : Nat) (f : Core → Core) : (s.modCore c f).shadows = s.shadows := rfl
@[simp] theorem State.modCore_lineTimes (s : State) (c : Nat) (f : Core → Core) : (s.modCore c f).lineTimes = s.lineTimes := rfl
@[simp] theorem State.modCore_reqs (s : State) (c : Nat) (f : Core → Core) : (s.modCore c f).reqs = s.reqs := rfl
@[simp] theorem State.modCore_parked (s : State) (c : Nat) (f : Core → Core) : (s.modCore c f).parked = s.parked := rfl
@[simp] theorem State.modCore_behind (s : State) (c : Nat) (f : Core → Core) : (s.modCore c f).behind = s.behind := rfl
@[simp] theorem State.modCore_rets (s : State) (c : Nat) (f : Core → Core) : (s.modCore c f).rets = s.rets := rfl
@[simp] theorem State.modCore_conts (s : State) (c : Nat) (f : Core → Core) : (s.modCore c f).conts = s.conts := rfl
@[simp] theorem State.modCore_cancels (s : State) (c : Nat) (f : Core → Core) : (s.modCore c f).cancels = s.cancels := rfl
@[simp] theorem State.modCore_notices (s : State) (c : Nat) (f : Core → Core) : (s.modCore c f).notices = s.notices := rfl
@[simp] theorem State.modCore_upds (s : State) (c : Nat) (f : Core → Core) : (s.modCore c f).upds = s.upds := rfl
@[simp] theorem State.modCore_flitsOut (s : State) (c : Nat) (f : Core → Core) : (s.modCore c f).flitsOut = s.flitsOut := rfl
@[simp] theorem State.modCore_landing (s : State) (c : Nat) (f : Core → Core) : (s.modCore c f).landing = s.landing := rfl
@[simp] theorem State.modCore_far (s : State) (c : Nat) (f : Core → Core) : (s.modCore c f).far = s.far := rfl
@[simp] theorem State.modCore_lates (s : State) (c : Nat) (f : Core → Core) : (s.modCore c f).lates = s.lates := rfl
@[simp] theorem State.modCore_mgmtOut (s : State) (c : Nat) (f : Core → Core) : (s.modCore c f).mgmtOut = s.mgmtOut := rfl
@[simp] theorem State.modCore_remotes (s : State) (c : Nat) (f : Core → Core) : (s.modCore c f).remotes = s.remotes := rfl
@[simp] theorem State.modCore_hostOut (s : State) (c : Nat) (f : Core → Core) : (s.modCore c f).hostOut = s.hostOut := rfl
@[simp] theorem State.modCore_grade (s : State) (c : Nat) (f : Core → Core) : (s.modCore c f).grade = s.grade := rfl
@[simp] theorem State.modCore_frame (s : State) (c : Nat) (f : Core → Core) : (s.modCore c f).frame = s.frame := rfl
@[simp] theorem State.modCore_lfloor (s : State) (c : Nat) (f : Core → Core) : (s.modCore c f).lfloor = s.lfloor := rfl
@[simp] theorem State.modCore_steps (s : State) (c : Nat) (f : Core → Core) : (s.modCore c f).steps = s.steps := rfl
@[simp] theorem State.modCore_serials (s : State) (c : Nat) (f : Core → Core) : (s.modCore c f).serials = s.serials := rfl
@[simp] theorem State.modCore_turn (s : State) (c : Nat) (f : Core → Core) : (s.modCore c f).turn = s.turn := rfl
@[simp] theorem State.modCore_iss (s : State) (c : Nat) (f : Core → Core) : (s.modCore c f).iss = s.iss := rfl
@[simp] theorem State.modCore_clusters (s : State) (c : Nat) (f : Core → Core) : (s.modCore c f).clusters = s.clusters := rfl
@[simp] theorem State.modCore_dies (s : State) (c : Nat) (f : Core → Core) : (s.modCore c f).dies = s.dies := rfl
@[simp] theorem State.modCore_hub (s : State) (c : Nat) (f : Core → Core) : (s.modCore c f).hub = s.hub := rfl

/-! What modCluster leaves. -/

@[simp] theorem State.modCluster_mem (s : State) (k : Nat) (f : Cluster → Cluster) : (s.modCluster k f).mem = s.mem := rfl
@[simp] theorem State.modCluster_poison (s : State) (k : Nat) (f : Cluster → Cluster) : (s.modCluster k f).poison = s.poison := rfl
@[simp] theorem State.modCluster_rflags (s : State) (k : Nat) (f : Cluster → Cluster) : (s.modCluster k f).rflags = s.rflags := rfl
@[simp] theorem State.modCluster_tags (s : State) (k : Nat) (f : Cluster → Cluster) : (s.modCluster k f).tags = s.tags := rfl
@[simp] theorem State.modCluster_shadows (s : State) (k : Nat) (f : Cluster → Cluster) : (s.modCluster k f).shadows = s.shadows := rfl
@[simp] theorem State.modCluster_lineTimes (s : State) (k : Nat) (f : Cluster → Cluster) : (s.modCluster k f).lineTimes = s.lineTimes := rfl
@[simp] theorem State.modCluster_reqs (s : State) (k : Nat) (f : Cluster → Cluster) : (s.modCluster k f).reqs = s.reqs := rfl
@[simp] theorem State.modCluster_parked (s : State) (k : Nat) (f : Cluster → Cluster) : (s.modCluster k f).parked = s.parked := rfl
@[simp] theorem State.modCluster_behind (s : State) (k : Nat) (f : Cluster → Cluster) : (s.modCluster k f).behind = s.behind := rfl
@[simp] theorem State.modCluster_rets (s : State) (k : Nat) (f : Cluster → Cluster) : (s.modCluster k f).rets = s.rets := rfl
@[simp] theorem State.modCluster_conts (s : State) (k : Nat) (f : Cluster → Cluster) : (s.modCluster k f).conts = s.conts := rfl
@[simp] theorem State.modCluster_cancels (s : State) (k : Nat) (f : Cluster → Cluster) : (s.modCluster k f).cancels = s.cancels := rfl
@[simp] theorem State.modCluster_notices (s : State) (k : Nat) (f : Cluster → Cluster) : (s.modCluster k f).notices = s.notices := rfl
@[simp] theorem State.modCluster_upds (s : State) (k : Nat) (f : Cluster → Cluster) : (s.modCluster k f).upds = s.upds := rfl
@[simp] theorem State.modCluster_flitsOut (s : State) (k : Nat) (f : Cluster → Cluster) : (s.modCluster k f).flitsOut = s.flitsOut := rfl
@[simp] theorem State.modCluster_landing (s : State) (k : Nat) (f : Cluster → Cluster) : (s.modCluster k f).landing = s.landing := rfl
@[simp] theorem State.modCluster_far (s : State) (k : Nat) (f : Cluster → Cluster) : (s.modCluster k f).far = s.far := rfl
@[simp] theorem State.modCluster_lates (s : State) (k : Nat) (f : Cluster → Cluster) : (s.modCluster k f).lates = s.lates := rfl
@[simp] theorem State.modCluster_mgmtOut (s : State) (k : Nat) (f : Cluster → Cluster) : (s.modCluster k f).mgmtOut = s.mgmtOut := rfl
@[simp] theorem State.modCluster_remotes (s : State) (k : Nat) (f : Cluster → Cluster) : (s.modCluster k f).remotes = s.remotes := rfl
@[simp] theorem State.modCluster_hostOut (s : State) (k : Nat) (f : Cluster → Cluster) : (s.modCluster k f).hostOut = s.hostOut := rfl
@[simp] theorem State.modCluster_grade (s : State) (k : Nat) (f : Cluster → Cluster) : (s.modCluster k f).grade = s.grade := rfl
@[simp] theorem State.modCluster_frame (s : State) (k : Nat) (f : Cluster → Cluster) : (s.modCluster k f).frame = s.frame := rfl
@[simp] theorem State.modCluster_lfloor (s : State) (k : Nat) (f : Cluster → Cluster) : (s.modCluster k f).lfloor = s.lfloor := rfl
@[simp] theorem State.modCluster_steps (s : State) (k : Nat) (f : Cluster → Cluster) : (s.modCluster k f).steps = s.steps := rfl
@[simp] theorem State.modCluster_serials (s : State) (k : Nat) (f : Cluster → Cluster) : (s.modCluster k f).serials = s.serials := rfl
@[simp] theorem State.modCluster_turn (s : State) (k : Nat) (f : Cluster → Cluster) : (s.modCluster k f).turn = s.turn := rfl
@[simp] theorem State.modCluster_iss (s : State) (k : Nat) (f : Cluster → Cluster) : (s.modCluster k f).iss = s.iss := rfl
@[simp] theorem State.modCluster_cores (s : State) (k : Nat) (f : Cluster → Cluster) : (s.modCluster k f).cores = s.cores := rfl
@[simp] theorem State.modCluster_dies (s : State) (k : Nat) (f : Cluster → Cluster) : (s.modCluster k f).dies = s.dies := rfl
@[simp] theorem State.modCluster_hub (s : State) (k : Nat) (f : Cluster → Cluster) : (s.modCluster k f).hub = s.hub := rfl

/-! What modDie leaves. -/

@[simp] theorem State.modDie_mem (s : State) (d : Nat) (f : Die → Die) : (s.modDie d f).mem = s.mem := rfl
@[simp] theorem State.modDie_poison (s : State) (d : Nat) (f : Die → Die) : (s.modDie d f).poison = s.poison := rfl
@[simp] theorem State.modDie_rflags (s : State) (d : Nat) (f : Die → Die) : (s.modDie d f).rflags = s.rflags := rfl
@[simp] theorem State.modDie_tags (s : State) (d : Nat) (f : Die → Die) : (s.modDie d f).tags = s.tags := rfl
@[simp] theorem State.modDie_shadows (s : State) (d : Nat) (f : Die → Die) : (s.modDie d f).shadows = s.shadows := rfl
@[simp] theorem State.modDie_lineTimes (s : State) (d : Nat) (f : Die → Die) : (s.modDie d f).lineTimes = s.lineTimes := rfl
@[simp] theorem State.modDie_reqs (s : State) (d : Nat) (f : Die → Die) : (s.modDie d f).reqs = s.reqs := rfl
@[simp] theorem State.modDie_parked (s : State) (d : Nat) (f : Die → Die) : (s.modDie d f).parked = s.parked := rfl
@[simp] theorem State.modDie_behind (s : State) (d : Nat) (f : Die → Die) : (s.modDie d f).behind = s.behind := rfl
@[simp] theorem State.modDie_rets (s : State) (d : Nat) (f : Die → Die) : (s.modDie d f).rets = s.rets := rfl
@[simp] theorem State.modDie_conts (s : State) (d : Nat) (f : Die → Die) : (s.modDie d f).conts = s.conts := rfl
@[simp] theorem State.modDie_cancels (s : State) (d : Nat) (f : Die → Die) : (s.modDie d f).cancels = s.cancels := rfl
@[simp] theorem State.modDie_notices (s : State) (d : Nat) (f : Die → Die) : (s.modDie d f).notices = s.notices := rfl
@[simp] theorem State.modDie_upds (s : State) (d : Nat) (f : Die → Die) : (s.modDie d f).upds = s.upds := rfl
@[simp] theorem State.modDie_flitsOut (s : State) (d : Nat) (f : Die → Die) : (s.modDie d f).flitsOut = s.flitsOut := rfl
@[simp] theorem State.modDie_landing (s : State) (d : Nat) (f : Die → Die) : (s.modDie d f).landing = s.landing := rfl
@[simp] theorem State.modDie_far (s : State) (d : Nat) (f : Die → Die) : (s.modDie d f).far = s.far := rfl
@[simp] theorem State.modDie_lates (s : State) (d : Nat) (f : Die → Die) : (s.modDie d f).lates = s.lates := rfl
@[simp] theorem State.modDie_mgmtOut (s : State) (d : Nat) (f : Die → Die) : (s.modDie d f).mgmtOut = s.mgmtOut := rfl
@[simp] theorem State.modDie_remotes (s : State) (d : Nat) (f : Die → Die) : (s.modDie d f).remotes = s.remotes := rfl
@[simp] theorem State.modDie_hostOut (s : State) (d : Nat) (f : Die → Die) : (s.modDie d f).hostOut = s.hostOut := rfl
@[simp] theorem State.modDie_grade (s : State) (d : Nat) (f : Die → Die) : (s.modDie d f).grade = s.grade := rfl
@[simp] theorem State.modDie_frame (s : State) (d : Nat) (f : Die → Die) : (s.modDie d f).frame = s.frame := rfl
@[simp] theorem State.modDie_lfloor (s : State) (d : Nat) (f : Die → Die) : (s.modDie d f).lfloor = s.lfloor := rfl
@[simp] theorem State.modDie_steps (s : State) (d : Nat) (f : Die → Die) : (s.modDie d f).steps = s.steps := rfl
@[simp] theorem State.modDie_serials (s : State) (d : Nat) (f : Die → Die) : (s.modDie d f).serials = s.serials := rfl
@[simp] theorem State.modDie_turn (s : State) (d : Nat) (f : Die → Die) : (s.modDie d f).turn = s.turn := rfl
@[simp] theorem State.modDie_iss (s : State) (d : Nat) (f : Die → Die) : (s.modDie d f).iss = s.iss := rfl
@[simp] theorem State.modDie_cores (s : State) (d : Nat) (f : Die → Die) : (s.modDie d f).cores = s.cores := rfl
@[simp] theorem State.modDie_clusters (s : State) (d : Nat) (f : Die → Die) : (s.modDie d f).clusters = s.clusters := rfl
@[simp] theorem State.modDie_hub (s : State) (d : Nat) (f : Die → Die) : (s.modDie d f).hub = s.hub := rfl

/-! What modHub leaves. -/

@[simp] theorem State.modHub_mem (s : State) (f : Hub → Hub) : (s.modHub f).mem = s.mem := rfl
@[simp] theorem State.modHub_poison (s : State) (f : Hub → Hub) : (s.modHub f).poison = s.poison := rfl
@[simp] theorem State.modHub_rflags (s : State) (f : Hub → Hub) : (s.modHub f).rflags = s.rflags := rfl
@[simp] theorem State.modHub_tags (s : State) (f : Hub → Hub) : (s.modHub f).tags = s.tags := rfl
@[simp] theorem State.modHub_shadows (s : State) (f : Hub → Hub) : (s.modHub f).shadows = s.shadows := rfl
@[simp] theorem State.modHub_lineTimes (s : State) (f : Hub → Hub) : (s.modHub f).lineTimes = s.lineTimes := rfl
@[simp] theorem State.modHub_reqs (s : State) (f : Hub → Hub) : (s.modHub f).reqs = s.reqs := rfl
@[simp] theorem State.modHub_parked (s : State) (f : Hub → Hub) : (s.modHub f).parked = s.parked := rfl
@[simp] theorem State.modHub_behind (s : State) (f : Hub → Hub) : (s.modHub f).behind = s.behind := rfl
@[simp] theorem State.modHub_rets (s : State) (f : Hub → Hub) : (s.modHub f).rets = s.rets := rfl
@[simp] theorem State.modHub_conts (s : State) (f : Hub → Hub) : (s.modHub f).conts = s.conts := rfl
@[simp] theorem State.modHub_cancels (s : State) (f : Hub → Hub) : (s.modHub f).cancels = s.cancels := rfl
@[simp] theorem State.modHub_notices (s : State) (f : Hub → Hub) : (s.modHub f).notices = s.notices := rfl
@[simp] theorem State.modHub_upds (s : State) (f : Hub → Hub) : (s.modHub f).upds = s.upds := rfl
@[simp] theorem State.modHub_flitsOut (s : State) (f : Hub → Hub) : (s.modHub f).flitsOut = s.flitsOut := rfl
@[simp] theorem State.modHub_landing (s : State) (f : Hub → Hub) : (s.modHub f).landing = s.landing := rfl
@[simp] theorem State.modHub_far (s : State) (f : Hub → Hub) : (s.modHub f).far = s.far := rfl
@[simp] theorem State.modHub_lates (s : State) (f : Hub → Hub) : (s.modHub f).lates = s.lates := rfl
@[simp] theorem State.modHub_mgmtOut (s : State) (f : Hub → Hub) : (s.modHub f).mgmtOut = s.mgmtOut := rfl
@[simp] theorem State.modHub_remotes (s : State) (f : Hub → Hub) : (s.modHub f).remotes = s.remotes := rfl
@[simp] theorem State.modHub_hostOut (s : State) (f : Hub → Hub) : (s.modHub f).hostOut = s.hostOut := rfl
@[simp] theorem State.modHub_grade (s : State) (f : Hub → Hub) : (s.modHub f).grade = s.grade := rfl
@[simp] theorem State.modHub_frame (s : State) (f : Hub → Hub) : (s.modHub f).frame = s.frame := rfl
@[simp] theorem State.modHub_lfloor (s : State) (f : Hub → Hub) : (s.modHub f).lfloor = s.lfloor := rfl
@[simp] theorem State.modHub_steps (s : State) (f : Hub → Hub) : (s.modHub f).steps = s.steps := rfl
@[simp] theorem State.modHub_serials (s : State) (f : Hub → Hub) : (s.modHub f).serials = s.serials := rfl
@[simp] theorem State.modHub_turn (s : State) (f : Hub → Hub) : (s.modHub f).turn = s.turn := rfl
@[simp] theorem State.modHub_iss (s : State) (f : Hub → Hub) : (s.modHub f).iss = s.iss := rfl
@[simp] theorem State.modHub_cores (s : State) (f : Hub → Hub) : (s.modHub f).cores = s.cores := rfl
@[simp] theorem State.modHub_clusters (s : State) (f : Hub → Hub) : (s.modHub f).clusters = s.clusters := rfl
@[simp] theorem State.modHub_dies (s : State) (f : Hub → Hub) : (s.modHub f).dies = s.dies := rfl

/-! What wr leaves. -/

@[simp] theorem State.wr_mem (s : State) (d : SReg) (v : Word) : (s.wr d v).mem = s.mem := rfl
@[simp] theorem State.wr_poison (s : State) (d : SReg) (v : Word) : (s.wr d v).poison = s.poison := rfl
@[simp] theorem State.wr_rflags (s : State) (d : SReg) (v : Word) : (s.wr d v).rflags = s.rflags := rfl
@[simp] theorem State.wr_tags (s : State) (d : SReg) (v : Word) : (s.wr d v).tags = s.tags := rfl
@[simp] theorem State.wr_shadows (s : State) (d : SReg) (v : Word) : (s.wr d v).shadows = s.shadows := rfl
@[simp] theorem State.wr_lineTimes (s : State) (d : SReg) (v : Word) : (s.wr d v).lineTimes = s.lineTimes := rfl
@[simp] theorem State.wr_reqs (s : State) (d : SReg) (v : Word) : (s.wr d v).reqs = s.reqs := rfl
@[simp] theorem State.wr_parked (s : State) (d : SReg) (v : Word) : (s.wr d v).parked = s.parked := rfl
@[simp] theorem State.wr_behind (s : State) (d : SReg) (v : Word) : (s.wr d v).behind = s.behind := rfl
@[simp] theorem State.wr_rets (s : State) (d : SReg) (v : Word) : (s.wr d v).rets = s.rets := rfl
@[simp] theorem State.wr_conts (s : State) (d : SReg) (v : Word) : (s.wr d v).conts = s.conts := rfl
@[simp] theorem State.wr_cancels (s : State) (d : SReg) (v : Word) : (s.wr d v).cancels = s.cancels := rfl
@[simp] theorem State.wr_notices (s : State) (d : SReg) (v : Word) : (s.wr d v).notices = s.notices := rfl
@[simp] theorem State.wr_upds (s : State) (d : SReg) (v : Word) : (s.wr d v).upds = s.upds := rfl
@[simp] theorem State.wr_flitsOut (s : State) (d : SReg) (v : Word) : (s.wr d v).flitsOut = s.flitsOut := rfl
@[simp] theorem State.wr_landing (s : State) (d : SReg) (v : Word) : (s.wr d v).landing = s.landing := rfl
@[simp] theorem State.wr_far (s : State) (d : SReg) (v : Word) : (s.wr d v).far = s.far := rfl
@[simp] theorem State.wr_lates (s : State) (d : SReg) (v : Word) : (s.wr d v).lates = s.lates := rfl
@[simp] theorem State.wr_mgmtOut (s : State) (d : SReg) (v : Word) : (s.wr d v).mgmtOut = s.mgmtOut := rfl
@[simp] theorem State.wr_remotes (s : State) (d : SReg) (v : Word) : (s.wr d v).remotes = s.remotes := rfl
@[simp] theorem State.wr_hostOut (s : State) (d : SReg) (v : Word) : (s.wr d v).hostOut = s.hostOut := rfl
@[simp] theorem State.wr_grade (s : State) (d : SReg) (v : Word) : (s.wr d v).grade = s.grade := rfl
@[simp] theorem State.wr_frame (s : State) (d : SReg) (v : Word) : (s.wr d v).frame = s.frame := rfl
@[simp] theorem State.wr_lfloor (s : State) (d : SReg) (v : Word) : (s.wr d v).lfloor = s.lfloor := rfl
@[simp] theorem State.wr_steps (s : State) (d : SReg) (v : Word) : (s.wr d v).steps = s.steps := rfl
@[simp] theorem State.wr_serials (s : State) (d : SReg) (v : Word) : (s.wr d v).serials = s.serials := rfl
@[simp] theorem State.wr_turn (s : State) (d : SReg) (v : Word) : (s.wr d v).turn = s.turn := rfl
@[simp] theorem State.wr_iss (s : State) (d : SReg) (v : Word) : (s.wr d v).iss = s.iss := rfl
@[simp] theorem State.wr_clusters (s : State) (d : SReg) (v : Word) : (s.wr d v).clusters = s.clusters := rfl
@[simp] theorem State.wr_dies (s : State) (d : SReg) (v : Word) : (s.wr d v).dies = s.dies := rfl
@[simp] theorem State.wr_hub (s : State) (d : SReg) (v : Word) : (s.wr d v).hub = s.hub := rfl

/-! What wrP leaves. -/

@[simp] theorem State.wrP_mem (s : State) (d : BitVec 3) (v : Bool) : (s.wrP d v).mem = s.mem := rfl
@[simp] theorem State.wrP_poison (s : State) (d : BitVec 3) (v : Bool) : (s.wrP d v).poison = s.poison := rfl
@[simp] theorem State.wrP_rflags (s : State) (d : BitVec 3) (v : Bool) : (s.wrP d v).rflags = s.rflags := rfl
@[simp] theorem State.wrP_tags (s : State) (d : BitVec 3) (v : Bool) : (s.wrP d v).tags = s.tags := rfl
@[simp] theorem State.wrP_shadows (s : State) (d : BitVec 3) (v : Bool) : (s.wrP d v).shadows = s.shadows := rfl
@[simp] theorem State.wrP_lineTimes (s : State) (d : BitVec 3) (v : Bool) : (s.wrP d v).lineTimes = s.lineTimes := rfl
@[simp] theorem State.wrP_reqs (s : State) (d : BitVec 3) (v : Bool) : (s.wrP d v).reqs = s.reqs := rfl
@[simp] theorem State.wrP_parked (s : State) (d : BitVec 3) (v : Bool) : (s.wrP d v).parked = s.parked := rfl
@[simp] theorem State.wrP_behind (s : State) (d : BitVec 3) (v : Bool) : (s.wrP d v).behind = s.behind := rfl
@[simp] theorem State.wrP_rets (s : State) (d : BitVec 3) (v : Bool) : (s.wrP d v).rets = s.rets := rfl
@[simp] theorem State.wrP_conts (s : State) (d : BitVec 3) (v : Bool) : (s.wrP d v).conts = s.conts := rfl
@[simp] theorem State.wrP_cancels (s : State) (d : BitVec 3) (v : Bool) : (s.wrP d v).cancels = s.cancels := rfl
@[simp] theorem State.wrP_notices (s : State) (d : BitVec 3) (v : Bool) : (s.wrP d v).notices = s.notices := rfl
@[simp] theorem State.wrP_upds (s : State) (d : BitVec 3) (v : Bool) : (s.wrP d v).upds = s.upds := rfl
@[simp] theorem State.wrP_flitsOut (s : State) (d : BitVec 3) (v : Bool) : (s.wrP d v).flitsOut = s.flitsOut := rfl
@[simp] theorem State.wrP_landing (s : State) (d : BitVec 3) (v : Bool) : (s.wrP d v).landing = s.landing := rfl
@[simp] theorem State.wrP_far (s : State) (d : BitVec 3) (v : Bool) : (s.wrP d v).far = s.far := rfl
@[simp] theorem State.wrP_lates (s : State) (d : BitVec 3) (v : Bool) : (s.wrP d v).lates = s.lates := rfl
@[simp] theorem State.wrP_mgmtOut (s : State) (d : BitVec 3) (v : Bool) : (s.wrP d v).mgmtOut = s.mgmtOut := rfl
@[simp] theorem State.wrP_remotes (s : State) (d : BitVec 3) (v : Bool) : (s.wrP d v).remotes = s.remotes := rfl
@[simp] theorem State.wrP_hostOut (s : State) (d : BitVec 3) (v : Bool) : (s.wrP d v).hostOut = s.hostOut := rfl
@[simp] theorem State.wrP_grade (s : State) (d : BitVec 3) (v : Bool) : (s.wrP d v).grade = s.grade := rfl
@[simp] theorem State.wrP_frame (s : State) (d : BitVec 3) (v : Bool) : (s.wrP d v).frame = s.frame := rfl
@[simp] theorem State.wrP_lfloor (s : State) (d : BitVec 3) (v : Bool) : (s.wrP d v).lfloor = s.lfloor := rfl
@[simp] theorem State.wrP_steps (s : State) (d : BitVec 3) (v : Bool) : (s.wrP d v).steps = s.steps := rfl
@[simp] theorem State.wrP_serials (s : State) (d : BitVec 3) (v : Bool) : (s.wrP d v).serials = s.serials := rfl
@[simp] theorem State.wrP_turn (s : State) (d : BitVec 3) (v : Bool) : (s.wrP d v).turn = s.turn := rfl
@[simp] theorem State.wrP_iss (s : State) (d : BitVec 3) (v : Bool) : (s.wrP d v).iss = s.iss := rfl
@[simp] theorem State.wrP_clusters (s : State) (d : BitVec 3) (v : Bool) : (s.wrP d v).clusters = s.clusters := rfl
@[simp] theorem State.wrP_dies (s : State) (d : BitVec 3) (v : Bool) : (s.wrP d v).dies = s.dies := rfl
@[simp] theorem State.wrP_hub (s : State) (d : BitVec 3) (v : Bool) : (s.wrP d v).hub = s.hub := rfl

/-! What jump leaves. -/

@[simp] theorem State.jump_mem (s : State) (a : Word) : (s.jump a).mem = s.mem := rfl
@[simp] theorem State.jump_poison (s : State) (a : Word) : (s.jump a).poison = s.poison := rfl
@[simp] theorem State.jump_rflags (s : State) (a : Word) : (s.jump a).rflags = s.rflags := rfl
@[simp] theorem State.jump_tags (s : State) (a : Word) : (s.jump a).tags = s.tags := rfl
@[simp] theorem State.jump_shadows (s : State) (a : Word) : (s.jump a).shadows = s.shadows := rfl
@[simp] theorem State.jump_lineTimes (s : State) (a : Word) : (s.jump a).lineTimes = s.lineTimes := rfl
@[simp] theorem State.jump_reqs (s : State) (a : Word) : (s.jump a).reqs = s.reqs := rfl
@[simp] theorem State.jump_parked (s : State) (a : Word) : (s.jump a).parked = s.parked := rfl
@[simp] theorem State.jump_behind (s : State) (a : Word) : (s.jump a).behind = s.behind := rfl
@[simp] theorem State.jump_rets (s : State) (a : Word) : (s.jump a).rets = s.rets := rfl
@[simp] theorem State.jump_conts (s : State) (a : Word) : (s.jump a).conts = s.conts := rfl
@[simp] theorem State.jump_cancels (s : State) (a : Word) : (s.jump a).cancels = s.cancels := rfl
@[simp] theorem State.jump_notices (s : State) (a : Word) : (s.jump a).notices = s.notices := rfl
@[simp] theorem State.jump_upds (s : State) (a : Word) : (s.jump a).upds = s.upds := rfl
@[simp] theorem State.jump_flitsOut (s : State) (a : Word) : (s.jump a).flitsOut = s.flitsOut := rfl
@[simp] theorem State.jump_landing (s : State) (a : Word) : (s.jump a).landing = s.landing := rfl
@[simp] theorem State.jump_far (s : State) (a : Word) : (s.jump a).far = s.far := rfl
@[simp] theorem State.jump_lates (s : State) (a : Word) : (s.jump a).lates = s.lates := rfl
@[simp] theorem State.jump_mgmtOut (s : State) (a : Word) : (s.jump a).mgmtOut = s.mgmtOut := rfl
@[simp] theorem State.jump_remotes (s : State) (a : Word) : (s.jump a).remotes = s.remotes := rfl
@[simp] theorem State.jump_hostOut (s : State) (a : Word) : (s.jump a).hostOut = s.hostOut := rfl
@[simp] theorem State.jump_grade (s : State) (a : Word) : (s.jump a).grade = s.grade := rfl
@[simp] theorem State.jump_frame (s : State) (a : Word) : (s.jump a).frame = s.frame := rfl
@[simp] theorem State.jump_lfloor (s : State) (a : Word) : (s.jump a).lfloor = s.lfloor := rfl
@[simp] theorem State.jump_steps (s : State) (a : Word) : (s.jump a).steps = s.steps := rfl
@[simp] theorem State.jump_serials (s : State) (a : Word) : (s.jump a).serials = s.serials := rfl
@[simp] theorem State.jump_turn (s : State) (a : Word) : (s.jump a).turn = s.turn := rfl
@[simp] theorem State.jump_cores (s : State) (a : Word) : (s.jump a).cores = s.cores := rfl
@[simp] theorem State.jump_clusters (s : State) (a : Word) : (s.jump a).clusters = s.clusters := rfl
@[simp] theorem State.jump_dies (s : State) (a : Word) : (s.jump a).dies = s.dies := rfl
@[simp] theorem State.jump_hub (s : State) (a : Word) : (s.jump a).hub = s.hub := rfl

/-! What hold leaves. -/

@[simp] theorem State.hold_mem (s : State) : (s.hold).mem = s.mem := rfl
@[simp] theorem State.hold_poison (s : State) : (s.hold).poison = s.poison := rfl
@[simp] theorem State.hold_rflags (s : State) : (s.hold).rflags = s.rflags := rfl
@[simp] theorem State.hold_tags (s : State) : (s.hold).tags = s.tags := rfl
@[simp] theorem State.hold_shadows (s : State) : (s.hold).shadows = s.shadows := rfl
@[simp] theorem State.hold_lineTimes (s : State) : (s.hold).lineTimes = s.lineTimes := rfl
@[simp] theorem State.hold_reqs (s : State) : (s.hold).reqs = s.reqs := rfl
@[simp] theorem State.hold_parked (s : State) : (s.hold).parked = s.parked := rfl
@[simp] theorem State.hold_behind (s : State) : (s.hold).behind = s.behind := rfl
@[simp] theorem State.hold_rets (s : State) : (s.hold).rets = s.rets := rfl
@[simp] theorem State.hold_conts (s : State) : (s.hold).conts = s.conts := rfl
@[simp] theorem State.hold_cancels (s : State) : (s.hold).cancels = s.cancels := rfl
@[simp] theorem State.hold_notices (s : State) : (s.hold).notices = s.notices := rfl
@[simp] theorem State.hold_upds (s : State) : (s.hold).upds = s.upds := rfl
@[simp] theorem State.hold_flitsOut (s : State) : (s.hold).flitsOut = s.flitsOut := rfl
@[simp] theorem State.hold_landing (s : State) : (s.hold).landing = s.landing := rfl
@[simp] theorem State.hold_far (s : State) : (s.hold).far = s.far := rfl
@[simp] theorem State.hold_lates (s : State) : (s.hold).lates = s.lates := rfl
@[simp] theorem State.hold_mgmtOut (s : State) : (s.hold).mgmtOut = s.mgmtOut := rfl
@[simp] theorem State.hold_remotes (s : State) : (s.hold).remotes = s.remotes := rfl
@[simp] theorem State.hold_hostOut (s : State) : (s.hold).hostOut = s.hostOut := rfl
@[simp] theorem State.hold_grade (s : State) : (s.hold).grade = s.grade := rfl
@[simp] theorem State.hold_frame (s : State) : (s.hold).frame = s.frame := rfl
@[simp] theorem State.hold_lfloor (s : State) : (s.hold).lfloor = s.lfloor := rfl
@[simp] theorem State.hold_steps (s : State) : (s.hold).steps = s.steps := rfl
@[simp] theorem State.hold_serials (s : State) : (s.hold).serials = s.serials := rfl
@[simp] theorem State.hold_turn (s : State) : (s.hold).turn = s.turn := rfl
@[simp] theorem State.hold_cores (s : State) : (s.hold).cores = s.cores := rfl
@[simp] theorem State.hold_clusters (s : State) : (s.hold).clusters = s.clusters := rfl
@[simp] theorem State.hold_dies (s : State) : (s.hold).dies = s.dies := rfl
@[simp] theorem State.hold_hub (s : State) : (s.hold).hub = s.hub := rfl

/-! What faulted leaves. -/

@[simp] theorem State.faulted_mem (s : State) : (s.faulted).mem = s.mem := rfl
@[simp] theorem State.faulted_poison (s : State) : (s.faulted).poison = s.poison := rfl
@[simp] theorem State.faulted_rflags (s : State) : (s.faulted).rflags = s.rflags := rfl
@[simp] theorem State.faulted_tags (s : State) : (s.faulted).tags = s.tags := rfl
@[simp] theorem State.faulted_shadows (s : State) : (s.faulted).shadows = s.shadows := rfl
@[simp] theorem State.faulted_lineTimes (s : State) : (s.faulted).lineTimes = s.lineTimes := rfl
@[simp] theorem State.faulted_reqs (s : State) : (s.faulted).reqs = s.reqs := rfl
@[simp] theorem State.faulted_parked (s : State) : (s.faulted).parked = s.parked := rfl
@[simp] theorem State.faulted_behind (s : State) : (s.faulted).behind = s.behind := rfl
@[simp] theorem State.faulted_rets (s : State) : (s.faulted).rets = s.rets := rfl
@[simp] theorem State.faulted_conts (s : State) : (s.faulted).conts = s.conts := rfl
@[simp] theorem State.faulted_cancels (s : State) : (s.faulted).cancels = s.cancels := rfl
@[simp] theorem State.faulted_notices (s : State) : (s.faulted).notices = s.notices := rfl
@[simp] theorem State.faulted_upds (s : State) : (s.faulted).upds = s.upds := rfl
@[simp] theorem State.faulted_flitsOut (s : State) : (s.faulted).flitsOut = s.flitsOut := rfl
@[simp] theorem State.faulted_landing (s : State) : (s.faulted).landing = s.landing := rfl
@[simp] theorem State.faulted_far (s : State) : (s.faulted).far = s.far := rfl
@[simp] theorem State.faulted_lates (s : State) : (s.faulted).lates = s.lates := rfl
@[simp] theorem State.faulted_mgmtOut (s : State) : (s.faulted).mgmtOut = s.mgmtOut := rfl
@[simp] theorem State.faulted_remotes (s : State) : (s.faulted).remotes = s.remotes := rfl
@[simp] theorem State.faulted_hostOut (s : State) : (s.faulted).hostOut = s.hostOut := rfl
@[simp] theorem State.faulted_grade (s : State) : (s.faulted).grade = s.grade := rfl
@[simp] theorem State.faulted_frame (s : State) : (s.faulted).frame = s.frame := rfl
@[simp] theorem State.faulted_lfloor (s : State) : (s.faulted).lfloor = s.lfloor := rfl
@[simp] theorem State.faulted_steps (s : State) : (s.faulted).steps = s.steps := rfl
@[simp] theorem State.faulted_serials (s : State) : (s.faulted).serials = s.serials := rfl
@[simp] theorem State.faulted_turn (s : State) : (s.faulted).turn = s.turn := rfl
@[simp] theorem State.faulted_cores (s : State) : (s.faulted).cores = s.cores := rfl
@[simp] theorem State.faulted_clusters (s : State) : (s.faulted).clusters = s.clusters := rfl
@[simp] theorem State.faulted_dies (s : State) : (s.faulted).dies = s.dies := rfl
@[simp] theorem State.faulted_hub (s : State) : (s.faulted).hub = s.hub := rfl

/-! What put leaves. -/

@[simp] theorem State.put_poison (s : State) (key : Nat) (bs : List Byte) : (s.put key bs).poison = s.poison := rfl
@[simp] theorem State.put_rflags (s : State) (key : Nat) (bs : List Byte) : (s.put key bs).rflags = s.rflags := rfl
@[simp] theorem State.put_tags (s : State) (key : Nat) (bs : List Byte) : (s.put key bs).tags = s.tags := rfl
@[simp] theorem State.put_lineTimes (s : State) (key : Nat) (bs : List Byte) : (s.put key bs).lineTimes = s.lineTimes := rfl
@[simp] theorem State.put_reqs (s : State) (key : Nat) (bs : List Byte) : (s.put key bs).reqs = s.reqs := rfl
@[simp] theorem State.put_parked (s : State) (key : Nat) (bs : List Byte) : (s.put key bs).parked = s.parked := rfl
@[simp] theorem State.put_behind (s : State) (key : Nat) (bs : List Byte) : (s.put key bs).behind = s.behind := rfl
@[simp] theorem State.put_rets (s : State) (key : Nat) (bs : List Byte) : (s.put key bs).rets = s.rets := rfl
@[simp] theorem State.put_conts (s : State) (key : Nat) (bs : List Byte) : (s.put key bs).conts = s.conts := rfl
@[simp] theorem State.put_cancels (s : State) (key : Nat) (bs : List Byte) : (s.put key bs).cancels = s.cancels := rfl
@[simp] theorem State.put_notices (s : State) (key : Nat) (bs : List Byte) : (s.put key bs).notices = s.notices := rfl
@[simp] theorem State.put_upds (s : State) (key : Nat) (bs : List Byte) : (s.put key bs).upds = s.upds := rfl
@[simp] theorem State.put_flitsOut (s : State) (key : Nat) (bs : List Byte) : (s.put key bs).flitsOut = s.flitsOut := rfl
@[simp] theorem State.put_landing (s : State) (key : Nat) (bs : List Byte) : (s.put key bs).landing = s.landing := rfl
@[simp] theorem State.put_far (s : State) (key : Nat) (bs : List Byte) : (s.put key bs).far = s.far := rfl
@[simp] theorem State.put_lates (s : State) (key : Nat) (bs : List Byte) : (s.put key bs).lates = s.lates := rfl
@[simp] theorem State.put_mgmtOut (s : State) (key : Nat) (bs : List Byte) : (s.put key bs).mgmtOut = s.mgmtOut := rfl
@[simp] theorem State.put_remotes (s : State) (key : Nat) (bs : List Byte) : (s.put key bs).remotes = s.remotes := rfl
@[simp] theorem State.put_hostOut (s : State) (key : Nat) (bs : List Byte) : (s.put key bs).hostOut = s.hostOut := rfl
@[simp] theorem State.put_grade (s : State) (key : Nat) (bs : List Byte) : (s.put key bs).grade = s.grade := rfl
@[simp] theorem State.put_frame (s : State) (key : Nat) (bs : List Byte) : (s.put key bs).frame = s.frame := rfl
@[simp] theorem State.put_lfloor (s : State) (key : Nat) (bs : List Byte) : (s.put key bs).lfloor = s.lfloor := rfl
@[simp] theorem State.put_steps (s : State) (key : Nat) (bs : List Byte) : (s.put key bs).steps = s.steps := rfl
@[simp] theorem State.put_serials (s : State) (key : Nat) (bs : List Byte) : (s.put key bs).serials = s.serials := rfl
@[simp] theorem State.put_turn (s : State) (key : Nat) (bs : List Byte) : (s.put key bs).turn = s.turn := rfl
@[simp] theorem State.put_iss (s : State) (key : Nat) (bs : List Byte) : (s.put key bs).iss = s.iss := rfl
@[simp] theorem State.put_cores (s : State) (key : Nat) (bs : List Byte) : (s.put key bs).cores = s.cores := rfl
@[simp] theorem State.put_clusters (s : State) (key : Nat) (bs : List Byte) : (s.put key bs).clusters = s.clusters := rfl
@[simp] theorem State.put_dies (s : State) (key : Nat) (bs : List Byte) : (s.put key bs).dies = s.dies := rfl
@[simp] theorem State.put_hub (s : State) (key : Nat) (bs : List Byte) : (s.put key bs).hub = s.hub := rfl

/-! What putE leaves. -/

@[simp] theorem State.putE_rflags (s : State) (key : Nat) (bs : List Byte) : (s.putE key bs).rflags = s.rflags := rfl
@[simp] theorem State.putE_tags (s : State) (key : Nat) (bs : List Byte) : (s.putE key bs).tags = s.tags := rfl
@[simp] theorem State.putE_lineTimes (s : State) (key : Nat) (bs : List Byte) : (s.putE key bs).lineTimes = s.lineTimes := rfl
@[simp] theorem State.putE_reqs (s : State) (key : Nat) (bs : List Byte) : (s.putE key bs).reqs = s.reqs := rfl
@[simp] theorem State.putE_parked (s : State) (key : Nat) (bs : List Byte) : (s.putE key bs).parked = s.parked := rfl
@[simp] theorem State.putE_behind (s : State) (key : Nat) (bs : List Byte) : (s.putE key bs).behind = s.behind := rfl
@[simp] theorem State.putE_rets (s : State) (key : Nat) (bs : List Byte) : (s.putE key bs).rets = s.rets := rfl
@[simp] theorem State.putE_conts (s : State) (key : Nat) (bs : List Byte) : (s.putE key bs).conts = s.conts := rfl
@[simp] theorem State.putE_cancels (s : State) (key : Nat) (bs : List Byte) : (s.putE key bs).cancels = s.cancels := rfl
@[simp] theorem State.putE_notices (s : State) (key : Nat) (bs : List Byte) : (s.putE key bs).notices = s.notices := rfl
@[simp] theorem State.putE_upds (s : State) (key : Nat) (bs : List Byte) : (s.putE key bs).upds = s.upds := rfl
@[simp] theorem State.putE_flitsOut (s : State) (key : Nat) (bs : List Byte) : (s.putE key bs).flitsOut = s.flitsOut := rfl
@[simp] theorem State.putE_landing (s : State) (key : Nat) (bs : List Byte) : (s.putE key bs).landing = s.landing := rfl
@[simp] theorem State.putE_far (s : State) (key : Nat) (bs : List Byte) : (s.putE key bs).far = s.far := rfl
@[simp] theorem State.putE_lates (s : State) (key : Nat) (bs : List Byte) : (s.putE key bs).lates = s.lates := rfl
@[simp] theorem State.putE_mgmtOut (s : State) (key : Nat) (bs : List Byte) : (s.putE key bs).mgmtOut = s.mgmtOut := rfl
@[simp] theorem State.putE_remotes (s : State) (key : Nat) (bs : List Byte) : (s.putE key bs).remotes = s.remotes := rfl
@[simp] theorem State.putE_hostOut (s : State) (key : Nat) (bs : List Byte) : (s.putE key bs).hostOut = s.hostOut := rfl
@[simp] theorem State.putE_grade (s : State) (key : Nat) (bs : List Byte) : (s.putE key bs).grade = s.grade := rfl
@[simp] theorem State.putE_frame (s : State) (key : Nat) (bs : List Byte) : (s.putE key bs).frame = s.frame := rfl
@[simp] theorem State.putE_lfloor (s : State) (key : Nat) (bs : List Byte) : (s.putE key bs).lfloor = s.lfloor := rfl
@[simp] theorem State.putE_steps (s : State) (key : Nat) (bs : List Byte) : (s.putE key bs).steps = s.steps := rfl
@[simp] theorem State.putE_serials (s : State) (key : Nat) (bs : List Byte) : (s.putE key bs).serials = s.serials := rfl
@[simp] theorem State.putE_turn (s : State) (key : Nat) (bs : List Byte) : (s.putE key bs).turn = s.turn := rfl
@[simp] theorem State.putE_iss (s : State) (key : Nat) (bs : List Byte) : (s.putE key bs).iss = s.iss := rfl
@[simp] theorem State.putE_cores (s : State) (key : Nat) (bs : List Byte) : (s.putE key bs).cores = s.cores := rfl
@[simp] theorem State.putE_clusters (s : State) (key : Nat) (bs : List Byte) : (s.putE key bs).clusters = s.clusters := rfl
@[simp] theorem State.putE_dies (s : State) (key : Nat) (bs : List Byte) : (s.putE key bs).dies = s.dies := rfl
@[simp] theorem State.putE_hub (s : State) (key : Nat) (bs : List Byte) : (s.putE key bs).hub = s.hub := rfl

/-! The parts of the state. -/

@[simp] theorem State.core_modCore_same (s : State) (c : Nat) (f : Core → Core) : (s.modCore c f).core c = f (s.core c) := by
  simp [State.modCore, State.core]

theorem State.core_modCore_other (s : State) {c k : Nat} (f : Core → Core) (h : k ≠ c) : (s.modCore c f).core k = s.core k := by
  simp [State.modCore, State.core, Tbl.get_set, h]

theorem State.core_modCore (s : State) (c k : Nat) (f : Core → Core) : (s.modCore c f).core k = if k = c then f (s.core c) else s.core k := by
  simp [State.modCore, State.core, Tbl.get_set]

@[simp] theorem State.cluster_modCluster_same (s : State) (k : Nat) (f : Cluster → Cluster) : (s.modCluster k f).cluster k = f (s.cluster k) := by
  simp [State.modCluster, State.cluster]

theorem State.cluster_modCluster_other (s : State) {k j : Nat} (f : Cluster → Cluster) (h : j ≠ k) : (s.modCluster k f).cluster j = s.cluster j := by
  simp [State.modCluster, State.cluster, Tbl.get_set, h]

@[simp] theorem State.die_modDie_same (s : State) (d : Nat) (f : Die → Die) : (s.modDie d f).die d = f (s.die d) := by
  simp [State.modDie, State.die]

theorem State.die_modDie_other (s : State) {d e : Nat} (f : Die → Die) (h : e ≠ d) : (s.modDie d f).die e = s.die e := by
  simp [State.modDie, State.die, Tbl.get_set, h]

@[simp] theorem State.hub_modHub (s : State) (f : Hub → Hub) : (s.modHub f).hub = f s.hub := rfl

@[simp] theorem State.ctx_modCtx_same (s : State) (c : Nat) (f : Ctx → Ctx) : (s.modCtx c f).ctx c = f (s.ctx c) := by
  simp [State.modCtx, State.ctx]

theorem State.ctx_modCtx_other (s : State) {c k : Nat} (f : Ctx → Ctx) (h : k ≠ c) : (s.modCtx c f).ctx k = s.ctx k := by
  simp [State.modCtx, State.ctx, Tbl.get_set, h]

@[simp] theorem State.cluster_modCore (s : State) (c : Nat) (f : Core → Core) (x : Nat) : (s.modCore c f).cluster x = s.cluster x := rfl
@[simp] theorem State.die_modCore (s : State) (c : Nat) (f : Core → Core) (x : Nat) : (s.modCore c f).die x = s.die x := rfl
@[simp] theorem State.ctx_modCore (s : State) (c : Nat) (f : Core → Core) (x : Nat) : (s.modCore c f).ctx x = s.ctx x := rfl
@[simp] theorem State.core_modCluster (s : State) (k : Nat) (f : Cluster → Cluster) (x : Nat) : (s.modCluster k f).core x = s.core x := rfl
@[simp] theorem State.die_modCluster (s : State) (k : Nat) (f : Cluster → Cluster) (x : Nat) : (s.modCluster k f).die x = s.die x := rfl
@[simp] theorem State.ctx_modCluster (s : State) (k : Nat) (f : Cluster → Cluster) (x : Nat) : (s.modCluster k f).ctx x = s.ctx x := rfl
@[simp] theorem State.core_modDie (s : State) (d : Nat) (f : Die → Die) (x : Nat) : (s.modDie d f).core x = s.core x := rfl
@[simp] theorem State.cluster_modDie (s : State) (d : Nat) (f : Die → Die) (x : Nat) : (s.modDie d f).cluster x = s.cluster x := rfl
@[simp] theorem State.ctx_modDie (s : State) (d : Nat) (f : Die → Die) (x : Nat) : (s.modDie d f).ctx x = s.ctx x := rfl
@[simp] theorem State.core_modHub (s : State) (f : Hub → Hub) (x : Nat) : (s.modHub f).core x = s.core x := rfl
@[simp] theorem State.cluster_modHub (s : State) (f : Hub → Hub) (x : Nat) : (s.modHub f).cluster x = s.cluster x := rfl
@[simp] theorem State.die_modHub (s : State) (f : Hub → Hub) (x : Nat) : (s.modHub f).die x = s.die x := rfl
@[simp] theorem State.cluster_wr (s : State) (d : SReg) (v : Word) (x : Nat) : (s.wr d v).cluster x = s.cluster x := rfl
@[simp] theorem State.die_wr (s : State) (d : SReg) (v : Word) (x : Nat) : (s.wr d v).die x = s.die x := rfl
@[simp] theorem State.ctx_wr (s : State) (d : SReg) (v : Word) (x : Nat) : (s.wr d v).ctx x = s.ctx x := rfl
@[simp] theorem State.cluster_wrP (s : State) (d : BitVec 3) (v : Bool) (x : Nat) : (s.wrP d v).cluster x = s.cluster x := rfl
@[simp] theorem State.die_wrP (s : State) (d : BitVec 3) (v : Bool) (x : Nat) : (s.wrP d v).die x = s.die x := rfl
@[simp] theorem State.ctx_wrP (s : State) (d : BitVec 3) (v : Bool) (x : Nat) : (s.wrP d v).ctx x = s.ctx x := rfl
@[simp] theorem State.core_jump (s : State) (a : Word) (x : Nat) : (s.jump a).core x = s.core x := rfl
@[simp] theorem State.cluster_jump (s : State) (a : Word) (x : Nat) : (s.jump a).cluster x = s.cluster x := rfl
@[simp] theorem State.die_jump (s : State) (a : Word) (x : Nat) : (s.jump a).die x = s.die x := rfl
@[simp] theorem State.ctx_jump (s : State) (a : Word) (x : Nat) : (s.jump a).ctx x = s.ctx x := rfl
@[simp] theorem State.core_hold (s : State) (x : Nat) : (s.hold).core x = s.core x := rfl
@[simp] theorem State.cluster_hold (s : State) (x : Nat) : (s.hold).cluster x = s.cluster x := rfl
@[simp] theorem State.die_hold (s : State) (x : Nat) : (s.hold).die x = s.die x := rfl
@[simp] theorem State.ctx_hold (s : State) (x : Nat) : (s.hold).ctx x = s.ctx x := rfl
@[simp] theorem State.core_faulted (s : State) (x : Nat) : (s.faulted).core x = s.core x := rfl
@[simp] theorem State.cluster_faulted (s : State) (x : Nat) : (s.faulted).cluster x = s.cluster x := rfl
@[simp] theorem State.die_faulted (s : State) (x : Nat) : (s.faulted).die x = s.die x := rfl
@[simp] theorem State.ctx_faulted (s : State) (x : Nat) : (s.faulted).ctx x = s.ctx x := rfl
@[simp] theorem State.core_put (s : State) (key : Nat) (bs : List Byte) (x : Nat) : (s.put key bs).core x = s.core x := rfl
@[simp] theorem State.cluster_put (s : State) (key : Nat) (bs : List Byte) (x : Nat) : (s.put key bs).cluster x = s.cluster x := rfl
@[simp] theorem State.die_put (s : State) (key : Nat) (bs : List Byte) (x : Nat) : (s.put key bs).die x = s.die x := rfl
@[simp] theorem State.ctx_put (s : State) (key : Nat) (bs : List Byte) (x : Nat) : (s.put key bs).ctx x = s.ctx x := rfl
@[simp] theorem State.core_putE (s : State) (key : Nat) (bs : List Byte) (x : Nat) : (s.putE key bs).core x = s.core x := rfl
@[simp] theorem State.cluster_putE (s : State) (key : Nat) (bs : List Byte) (x : Nat) : (s.putE key bs).cluster x = s.cluster x := rfl
@[simp] theorem State.die_putE (s : State) (key : Nat) (bs : List Byte) (x : Nat) : (s.putE key bs).die x = s.die x := rfl
@[simp] theorem State.ctx_putE (s : State) (key : Nat) (bs : List Byte) (x : Nat) : (s.putE key bs).ctx x = s.ctx x := rfl

/-! Registers. -/

@[simp] theorem Regs.getS_zero (r : Regs) : r.getS 0 = 0 := rfl
@[simp] theorem Regs.setS_zero (r : Regs) (v : Word) : r.setS 0 v = r := rfl
@[simp] theorem Regs.setP_zero (r : Regs) (v : Bool) : r.setP 0 v = r := rfl
@[simp] theorem Regs.getP_zero (r : Regs) : r.getP 0 = true := rfl
@[simp] theorem Regs.getQ_zero (r : Regs) (g : Nat) : r.getQ g 0 = 0xFFFFFFFF := rfl
@[simp] theorem Regs.setQ_zero (r : Regs) (g : Nat) (v : Lane) : r.setQ g 0 v = r := rfl

theorem Regs.getS_setS (r : Regs) (n k : Nat) (v : Word) : (r.setS n v).getS k = if k = n ∧ n ≠ 0 then v else r.getS k := by
  by_cases h : n = 0
  · subst h; simp
  · by_cases hk : k = 0
    · subst hk
      have : ¬ 0 = n := fun e => h e.symm
      simp [this]
    · simp [Regs.setS, Regs.getS, h, hk, Tbl.get_set]

@[simp] theorem Regs.setS_p (r : Regs) (n : Nat) (x : Word) : (r.setS n x).p = r.p := by unfold Regs.setS; split <;> rfl
@[simp] theorem Regs.setS_lc (r : Regs) (n : Nat) (x : Word) : (r.setS n x).lc = r.lc := by unfold Regs.setS; split <;> rfl
@[simp] theorem Regs.setS_v (r : Regs) (n : Nat) (x : Word) : (r.setS n x).v = r.v := by unfold Regs.setS; split <;> rfl
@[simp] theorem Regs.setS_q (r : Regs) (n : Nat) (x : Word) : (r.setS n x).q = r.q := by unfold Regs.setS; split <;> rfl
@[simp] theorem Regs.setS_b (r : Regs) (n : Nat) (x : Word) : (r.setS n x).b = r.b := by unfold Regs.setS; split <;> rfl
@[simp] theorem Regs.setP_s (r : Regs) (n : Nat) (x : Bool) : (r.setP n x).s = r.s := by unfold Regs.setP; split <;> rfl
@[simp] theorem Regs.setP_lc (r : Regs) (n : Nat) (x : Bool) : (r.setP n x).lc = r.lc := by unfold Regs.setP; split <;> rfl
@[simp] theorem Regs.setP_v (r : Regs) (n : Nat) (x : Bool) : (r.setP n x).v = r.v := by unfold Regs.setP; split <;> rfl
@[simp] theorem Regs.setP_q (r : Regs) (n : Nat) (x : Bool) : (r.setP n x).q = r.q := by unfold Regs.setP; split <;> rfl
@[simp] theorem Regs.setP_b (r : Regs) (n : Nat) (x : Bool) : (r.setP n x).b = r.b := by unfold Regs.setP; split <;> rfl
@[simp] theorem Regs.setV_s (r : Regs) (g n : Nat) (x : List Lane) : (r.setV g n x).s = r.s := rfl
@[simp] theorem Regs.setV_p (r : Regs) (g n : Nat) (x : List Lane) : (r.setV g n x).p = r.p := rfl
@[simp] theorem Regs.setV_lc (r : Regs) (g n : Nat) (x : List Lane) : (r.setV g n x).lc = r.lc := rfl
@[simp] theorem Regs.setV_q (r : Regs) (g n : Nat) (x : List Lane) : (r.setV g n x).q = r.q := rfl
@[simp] theorem Regs.setV_b (r : Regs) (g n : Nat) (x : List Lane) : (r.setV g n x).b = r.b := rfl
@[simp] theorem Regs.setQ_s (r : Regs) (g n : Nat) (x : Lane) : (r.setQ g n x).s = r.s := by unfold Regs.setQ; split <;> rfl
@[simp] theorem Regs.setQ_p (r : Regs) (g n : Nat) (x : Lane) : (r.setQ g n x).p = r.p := by unfold Regs.setQ; split <;> rfl
@[simp] theorem Regs.setQ_lc (r : Regs) (g n : Nat) (x : Lane) : (r.setQ g n x).lc = r.lc := by unfold Regs.setQ; split <;> rfl
@[simp] theorem Regs.setQ_v (r : Regs) (g n : Nat) (x : Lane) : (r.setQ g n x).v = r.v := by unfold Regs.setQ; split <;> rfl
@[simp] theorem Regs.setQ_b (r : Regs) (g n : Nat) (x : Lane) : (r.setQ g n x).b = r.b := by unfold Regs.setQ; split <;> rfl

@[simp] theorem Regs.getV_setV_same (r : Regs) (g n : Nat) (x : List Lane) : (r.setV g n x).getV g n = x := by
  simp [Regs.getV, Regs.setV]

/-- A scalar result of the issuing core, read back. -/
theorem State.wr_reg (s : State) (d : SReg) (v : Word) (k : Nat) :
    ((s.wr d v).core s.iss.core).regs.getS k = if k = d.toNat ∧ d.toNat ≠ 0 then v else (s.core s.iss.core).regs.getS k := by
  simp [State.wr, Regs.getS_setS]

end Sys2Proof.Machine
end

