-- ==== Sys2Proof/Laws/Ops.lean ====
section
/-! SUPPORT. The shared operations of the meanings: for each, one lemma that says what it does and what it leaves. -/
namespace Sys2Proof.Machine

/-! The predicate of an instruction. -/

/-- A true guard: the effect is the instruction's own. -/
theorem State.under_true {s : State} {g : Guard} (h : s.guard g = true) (r : Out) : s.under g r = r := by simp [State.under, h]

/-- A false guard: the state stays (R177). -/
theorem State.under_false {s : State} {g : Guard} (h : s.guard g = false) (r : Out) : s.under g r = .next s := by simp [State.under, h]

/-! Registers, branches and loops. -/

/-- A scalar write: that register of that core alone, and scalar 0 takes nothing. -/
theorem State.wr_does (s : State) (d : SReg) (v : Word) : OnlyScalars s.iss.core [d.toNat] s (s.wr d v)
    ∧ ((s.wr d v).regs s.iss.core).getS d.toNat = if d = 0 then 0 else v := by
  refine ⟨⟨⟨rfl, ?_, ?_, fun _ => rfl⟩, ?_, ?_⟩, ?_⟩
  · intro k h; exact State.core_modCore_other s _ h
  · simp [State.wr, State.regs]
  · intro n hn; rw [List.mem_singleton] at hn; simp [State.regs, State.wr_reg, hn]
  · simp [State.regs, State.wr]
  · rw [State.regs, State.wr_reg]
    by_cases h : d = 0
    · subst h; simp [Regs.getS]
    · have : d.toNat ≠ 0 := fun e => h (BitVec.eq_of_toNat_eq (by simpa using e))
      simp [this]; intro e; exact absurd e h

/-- The target of a branch counts bundles of 32 bytes from the bundle's address. -/
theorem State.target_does (s : State) (off : BitVec 32) : s.target off = BitVec.ofInt 64 (s.iss.a.toInt + 32 * off.toInt) := by
  unfold State.target off32
  apply BitVec.eq_of_toInt_eq
  rw [BitVec.toInt_add, BitVec.toInt_mul, BitVec.toInt_signExtend_of_le (by decide), BitVec.toInt_ofInt]
  have : (32 : BitVec 64).toInt = 32 := by decide
  rw [this]; simp

/-- The target of a jump through a register. -/
theorem State.brr_target (s : State) (a : SReg) (off : BitVec 32) : s.rd a + 32 * off32 off = BitVec.ofInt 64 ((s.rd a).toInt + 32 * off.toInt) := by
  unfold off32
  apply BitVec.eq_of_toInt_eq
  rw [BitVec.toInt_add, BitVec.toInt_mul, BitVec.toInt_signExtend_of_le (by decide), BitVec.toInt_ofInt]
  have : (32 : BitVec 64).toInt = 32 := by decide
  rw [this]; simp

/-- The effective address of a load or a store. -/
theorem State.effAddr_eq (s : State) (base : SReg) (off : BitVec 32) : s.rd base + off32 off = effAddr s base off := by
  unfold off32 effAddr
  apply BitVec.eq_of_toInt_eq
  rw [BitVec.toInt_add, BitVec.toInt_signExtend_of_le (by decide), BitVec.toInt_ofInt]

/-- A loop end writes its counter and jumps, and nothing else. -/
theorem State.loop_does (s : State) (n : Nat) (v : BitVec 32) (p : Word) :
    OnlyLoop s.iss.core n s ((s.modCore s.iss.core fun k => { k with regs := k.regs.setLc n v }).jump p)
      ∧ (((s.modCore s.iss.core fun k => { k with regs := k.regs.setLc n v }).jump p).regs s.iss.core).getLc n = v := by
  refine ⟨⟨rfl, ?_, ?_, ?_, ?_, fun _ => rfl⟩, ?_⟩
  · intro k h; rw [State.core_jump]; exact State.core_modCore_other s _ h
  · rw [State.core_jump, State.core_modCore_same]
  · intro m hm
    rw [State.regs, State.core_jump, State.core_modCore_same]; exact Tbl.get_set_other _ _ _ hm
  · rw [State.regs, State.core_jump, State.core_modCore_same]; rfl
  · rw [State.regs, State.core_jump, State.core_modCore_same]; exact Tbl.get_set_same _ _ _ _

/-! What a load notes. -/

/-- t differs from s only in the times of lines, and in what core c has noted for its phase. -/
structure Noted (c : Nat) (s t : State) : Prop where
  rest : { t with cores := s.cores, lineTimes := s.lineTimes } = s
  other : ∀ k, k ≠ c → t.core k = s.core k
  own : { t.core c with phase := (s.core c).phase, ltime := (s.core c).ltime } = s.core c

theorem Noted.refl (c s) : Noted c s s := ⟨rfl, fun _ _ => rfl, rfl⟩

/-- Two such updates in turn. -/
theorem Noted.trans {c s t u} (a : Noted c s t) (b : Noted c t u) : Noted c s u := by
  refine ⟨?_, fun k h => (b.other k h).trans (a.other k h), ?_⟩
  · have h1 := a.rest; have h2 := b.rest
    rw [← h1]; rw [← h2]
  · have h1 := a.own; have h2 := b.own
    rw [← h1]; rw [← h2]

theorem State.core_lineTimes (s : State) (x : Tbl (Nat × Nat)) (k : Nat) : ({ s with lineTimes := x } : State).core k = s.core k := rfl

/-- The time of a line that a load reads. -/
theorem State.loadTime_noted (s : State) (c k : Nat) : Noted c s (s.loadTime c k) := by
  unfold State.loadTime
  split
  · exact .refl c s
  · refine ⟨rfl, ?_, ?_⟩
    · intro j h; simp only [State.core_lineTimes]; exact State.core_modCore_other s _ h
    · simp only [State.core_lineTimes, State.core_modCore_same]

/-- A line noted as read. -/
theorem State.noteRd_noted (s : State) (c k n : Nat) : Noted c s (s.noteRd c k n) := by
  refine ⟨rfl, ?_, ?_⟩
  · intro j h; exact State.core_modCore_other s _ h
  · unfold State.noteRd State.modPhase; rw [State.core_modCore_same]

/-- The notes of all the bytes of a load. -/
theorem State.notes_noted (c : Nat) (ks : List Nat) (s : State) : Noted c s (ks.foldl (fun s k => (s.loadTime c k).noteRd c k 1) s) := by
  induction ks generalizing s with
  | nil => exact .refl c s
  | cons k ks ih => exact ((State.loadTime_noted s c k).trans (State.noteRd_noted _ c k 1)).trans (ih _)

theorem State.loadTime_high (s : State) (c k : Nat) (h : 1 < keySpace k) : s.loadTime c k = s := by unfold State.loadTime; simp [h]

theorem State.notes_high (c : Nat) (ks : List Nat) (s : State) (h : ∀ k ∈ ks, 1 < keySpace k) :
    (ks.foldl (fun s k => (s.loadTime c k).noteRd c k 1) s).lineTimes = s.lineTimes
     ∧ ((ks.foldl (fun s k => (s.loadTime c k).noteRd c k 1) s).core c).ltime = (s.core c).ltime := by
  induction ks generalizing s with
  | nil => exact ⟨rfl, rfl⟩
  | cons k ks ih =>
    rw [List.foldl_cons, State.loadTime_high _ _ _ (h k (.head _))]
    obtain ⟨a, b⟩ := ih (s.noteRd c k 1) (fun j hj => h j (.tail _ hj))
    refine ⟨a, b.trans ?_⟩
    unfold State.noteRd State.modPhase; rw [State.core_modCore_same]

/-- An address of an on-chip space lies in no space with a line time. -/
theorem State.spaceKeyAt_high (s : State) (core ctx : Nat) (sp : Space) (a : Word) (acc : Acc) (k : Nat) (hs : sp = .c ∨ sp = .k ∨ sp = .d)
   (h : s.spaceKeyAt core ctx sp a acc = .ok k) : 1 < keySpace k := by
  unfold State.spaceKeyAt at h
  rw [if_neg (by rcases hs with e | e | e <;> simp [e])] at h
  unfold State.chipKey at h
  split at h
  · rename_i k' he
    cases h
    rcases hs with e | e | e <;> subst e <;> simp only at he <;> split at he <;> cases he <;>
      (simp only [keySpace, cKey, kKey, dKey, spaceKey, Nat.reducePow]; omega)
  · cases h

theorem State.spanKeys_high (s : State) (core ctx : Nat) (sp : Space) (n : Nat) (a : Word) (acc : Acc) (ks : List Nat) (hs : sp = .c ∨ sp = .k ∨ sp = .d)
   (h : s.spanKeys core ctx sp a n acc = .ok ks) : ∀ k ∈ ks, 1 < keySpace k := by
  induction n generalizing a ks with
  | zero => cases h; intro k hk; cases hk
  | succ n ih =>
    unfold State.spanKeys at h
    split at h
    · cases h
    · cases h
    · rename_i k l h1 h2
      cases h
      intro j hj
      cases hj with
      | head => exact State.spaceKeyAt_high _ _ _ _ _ _ _ hs h1
      | tail _ hj => exact ih _ _ h2 j hj

/-- A span answers one key a byte. -/
theorem State.spanKeys_length (s : State) (core ctx : Nat) (sp : Space) (n : Nat) (a : Word) (acc : Acc) (ks : List Nat)
   (h : s.spanKeys core ctx sp a n acc = .ok ks) : ks.length = n := by
  induction n generalizing a ks with
  | zero => cases h; rfl
  | succ n ih =>
    unfold State.spanKeys at h
    split at h
    · cases h
    · cases h
    · rename_i k l h1 h2; cases h; simp [ih _ _ h2]

theorem Noted.iss {c s t} (h : Noted c s t) : t.iss = s.iss := by have := congrArg State.iss h.rest; exact this

theorem Noted.mem {c s t} (h : Noted c s t) : t.mem = s.mem := by have := congrArg State.mem h.rest; exact this

theorem Noted.regs {c s t} (h : Noted c s t) : (t.core c).regs = (s.core c).regs := by have := congrArg Core.regs h.own; exact this

/-! Results. -/

/-- A register file after the scalar writes of l in turn. -/
def Regs.setAll (r : Regs) (l : List (SReg × Word)) : Regs := l.foldl (fun r p => r.setS p.1.toNat p.2) r

/-- Several scalar writes of one instruction. -/
theorem State.wrAll_does (l : List (SReg × Word)) (s : State) : let t := s.wrAll l
    { t with cores := s.cores } = s ∧ t.iss = s.iss ∧ t.mem = s.mem ∧ (∀ k, k ≠ s.iss.core → t.core k = s.core k)
      ∧ { t.core s.iss.core with regs := s.regs s.iss.core } = s.core s.iss.core
      ∧ t.regs s.iss.core = Regs.setAll (s.regs s.iss.core) l := by
  induction l generalizing s with
  | nil => exact ⟨rfl, rfl, rfl, fun _ _ => rfl, rfl, rfl⟩
  | cons p l ih =>
    obtain ⟨a, b, m, d, e, f⟩ := ih (s.wr p.1 p.2)
    have hw := State.wr_does s p.1 p.2
    refine ⟨?_, b, m, ?_, ?_, ?_⟩
    · have := hw.1.1.1; rw [← this]; exact congrArg (fun t : State => { t with cores := s.cores }) a
    · intro k h; exact (d k h).trans (hw.1.1.2.1 k h)
    · have h1 := hw.1.1.2.2.1
      rw [← h1]; rw [← show _ = (s.wr p.1 p.2).core s.iss.core from e]; rfl
    · refine f.trans ?_
      show Regs.setAll ((s.modCore s.iss.core _).core s.iss.core).regs l = _
      rw [State.core_modCore_same]; rfl

theorem Regs.setAll_other (l : List (SReg × Word)) (r : Regs) :
    (∀ n, n ∉ l.map (fun p => p.1.toNat) → (Regs.setAll r l).getS n = r.getS n) ∧ (Regs.setAll r l).p = r.p ∧ (Regs.setAll r l).lc = r.lc
    ∧ (Regs.setAll r l).v = r.v ∧ (Regs.setAll r l).q = r.q ∧ (Regs.setAll r l).b = r.b := by
  induction l generalizing r with
  | nil => exact ⟨fun _ _ => rfl, rfl, rfl, rfl, rfl, rfl⟩
  | cons p l ih =>
    obtain ⟨a, b, c, d, e, f⟩ := ih (r.setS p.1.toNat p.2)
    refine ⟨?_, b.trans (by simp), c.trans (by simp), d.trans (by simp), e.trans (by simp), f.trans (by simp)⟩
    intro n hn
    simp only [List.map_cons, List.mem_cons, not_or] at hn
    exact (a n hn.2).trans (by simp [Regs.getS_setS, hn.1])

/-! Loads. -/

theorem State.scalarKeys_ok (s : State) (sp : Space) (ea : Word) (n : Nat) (acc : Acc) (ks)
   (h : s.spanKeys s.iss.core s.iss.src.ctxid sp ea n acc = .ok ks) : s.scalarKeys sp ea n acc = .ok ks := by
  simp [State.scalarKeys, h]

/-- Free bytes are read with no stop. -/
theorem State.readStop_free (s : State) (op : Nat) (sp : Space) (ea : Word) (ks) (hf : LoadFree s sp ks) : s.readStop op sp ea ks = none := by
  have hl : (sp == .c && ks.any fun k => s.bankLocked s.iss.core (k % 2 ^ 22)) = false := by
    by_cases e : sp = .c
    · have : (ks.any fun k => s.bankLocked s.iss.core (k % 2 ^ 22)) = false := by
        rw [List.any_eq_false]; intro k hk; rw [hf.2.1 e k hk]; simp
      rw [this, Bool.and_false]
    · have : (sp == .c) = false := by simpa using e
      rw [this, Bool.false_and]
  unfold State.readStop
  simp only [hl, hf.1, hf.2.2.1]
  rfl

/-- Where no entry among the bytes is still to be formed, a read forms none. -/
theorem State.reform_formed (s : State) (ks : List Nat) (h : ∀ k ∈ ks, s.unformed (k / 256) = none) : s.reform ks = s := by
  unfold State.reform
  have : ∀ n ∈ ((ks.filter (keySpace · ≤ 1)).map (· / 256)).eraseDups, s.unformed n = none := by
    intro n hn
    obtain ⟨k, hk, rfl⟩ := List.mem_map.1 (List.mem_eraseDups.1 hn)
    exact h k (List.mem_filter.1 hk).1
  generalize ((ks.filter (keySpace · ≤ 1)).map (· / 256)).eraseDups = l at this
  induction l with
  | nil => rfl
  | cons n l ih => rw [List.foldl_cons, this n (.head _)]; exact ih fun m hm => this m (.tail _ hm)

/-- A load notes each byte that it reads. -/
theorem State.noteLoad_noted (s : State) (ks : List Nat) : Noted s.iss.core s (s.noteLoad ks) := by
  suffices h : ∀ (l : List Nat) (u : State), u.iss = s.iss →
      Noted s.iss.core u (l.foldl (fun s k => (s.loadTime s.iss.core k).noteRd s.iss.core k 1) u) from h ks s rfl
  intro l
  induction l with
  | nil => intro u _; exact .refl _ u
  | cons k l ih =>
    intro u hu
    have h1 := State.loadTime_noted u u.iss.core k
    have i1 : (u.loadTime u.iss.core k).iss = s.iss := (Noted.iss h1).trans hu
    have h2 := State.noteRd_noted (u.loadTime u.iss.core k) s.iss.core k 1
    rw [List.foldl_cons]
    rw [hu] at h1 h2 i1 ⊢
    exact (h1.trans h2).trans (ih _ i1)

theorem State.noteLoad_high (s : State) (ks : List Nat) (h : ∀ k ∈ ks, 1 < keySpace k) :
    (s.noteLoad ks).lineTimes = s.lineTimes ∧ ((s.noteLoad ks).core s.iss.core).ltime = (s.core s.iss.core).ltime := by
  unfold State.noteLoad
  induction ks generalizing s with
  | nil => exact ⟨rfl, rfl⟩
  | cons k ks ih =>
    rw [List.foldl_cons, State.loadTime_high _ _ _ (h k (.head _))]
    obtain ⟨a, b⟩ := ih (s.noteRd s.iss.core k 1) (fun j hj => h j (.tail _ hj))
    refine ⟨a, b.trans ?_⟩
    show ((s.modCore _ _).core s.iss.core).ltime = _
    rw [State.core_modCore_same]

/-- A load whose address is found and whose bytes are free reads the bytes before the boundary of a sector, notes them, and writes its registers,
sends the value on its way, or defers the rest. -/
theorem State.scalarLoad_free (s : State) (sp : Space) (ea : Word) (n : Nat) (dest : List SReg) (size : Nat) (ks)
    (h : s.spanKeys s.iss.core s.iss.src.ctxid sp ea n .read = .ok ks)
    (hr : s.remoteAt sp ea n .read = none) (hf : LoadFree s sp (ks.take (firstHalf ea n))) :
    s.scalarLoad sp ea n dest size =
      let h := firstHalf ea n
      let bs := (ks.take h).map (s.loadByte s.iss.core)
      let u := s.noteLoad (ks.take h)
      let u := match u.translate u.iss.src.ctxid ea .read with | .ok t => if sp = Space.g then u.cacheLines s.iss.core t ks else u | .error _ => u
      if h = n then u.loadDone sp dest size bs else u.defer (.load sp.code (ea + BitVec.ofNat 64 h) (ks.drop h) bs dest size) := by
  unfold State.scalarLoad
  simp only [State.scalarKeys_ok s sp ea n .read ks h, hr, State.readStop_free s _ sp ea _ hf, State.reform_formed s _ hf.2.2.2] <;> rfl

/-- Values written after a load of on-chip bytes: nothing else changes but what the phase notes. -/
theorem State.wrAll_noted (s : State) (ks : List Nat) (l : List (SReg × Word)) (hk : ∀ k ∈ ks, 1 < keySpace k) :
    let t := (s.noteLoad ks).wrAll l
    OnlyRegsNoted s.iss.core s t ∧ OtherScalarsKept s.iss.core (l.map fun p => p.1.toNat) s t ∧ t.regs s.iss.core = Regs.setAll (s.regs s.iss.core) l := by
  have hu := State.noteLoad_noted s ks
  have hh := State.noteLoad_high s ks hk
  generalize s.noteLoad ks = u at *
  have hi := Noted.iss hu
  have hw := State.wrAll_does l u
  rw [hi] at hw
  obtain ⟨a, b, m, d, e, f⟩ := hw
  have hr := Noted.regs hu
  intro t
  have f' : t.regs s.iss.core = Regs.setAll (s.regs s.iss.core) l := f.trans (by rw [State.regs, hr])
  refine ⟨⟨?_, ?_, ?_, ?_⟩, ?_, f'⟩
  · have h1 := hu.rest
    have : ({ u with cores := s.cores } : State) = s := by rw [← h1, ← hh.1]
    rw [← this]; exact congrArg (fun t : State => { t with cores := s.cores }) a
  · intro k hk; exact (d k hk).trans (hu.other k hk)
  · have h1 := hu.own
    have h2 := hh.2
    calc ({ t.core s.iss.core with regs := s.regs s.iss.core, phase := (s.core s.iss.core).phase } : Core)
        = { ({ t.core s.iss.core with regs := u.regs s.iss.core } : Core) with regs := s.regs s.iss.core, phase := (s.core s.iss.core).phase } := rfl
      _ = { u.core s.iss.core with regs := s.regs s.iss.core, phase := (s.core s.iss.core).phase } := by rw [e]
      _ = { u.core s.iss.core with phase := (s.core s.iss.core).phase } := by rw [State.regs, ← hr]
      _ = s.core s.iss.core := by
          rw [← show _ = s.core s.iss.core from h1]
          rw [← h2]
  · intro x; show Memory.read (u.wrAll l).mem x = _; rw [m, Noted.mem hu]
  · have := Regs.setAll_other l (s.regs s.iss.core)
    unfold OtherScalarsKept; rw [f']; exact this

/-- A load of an on-chip space within a sector: it writes its destinations and notes its lines, and leaves the rest. -/
theorem State.scalarLoad_onChip (s : State) (sp : Space) (ea : Word) (n : Nat) (dest : List SReg) (size : Nat) (ks)
    (hsp : sp = .c ∨ sp = .k ∨ sp = .d) (h : s.spanKeys s.iss.core s.iss.src.ctxid sp ea n .read = .ok ks) (hn : firstHalf ea n = n)
    (hf : LoadFree s sp (ks.take n)) :
    let t := s.scalarLoad sp ea n dest size
    let l := loadValues dest size (ks.map (s.loadByte s.iss.core))
    OnlyRegsNoted s.iss.core s t ∧ OtherScalarsKept s.iss.core (l.map fun p => p.1.toNat) s t ∧ t.regs s.iss.core = Regs.setAll (s.regs s.iss.core) l := by
  have hg : sp ≠ .g := by rcases hsp with e | e | e <;> simp [e]
  have hl : ks.take n = ks := List.take_of_length_le (Nat.le_of_eq (State.spanKeys_length _ _ _ _ _ _ _ _ h))
  have := State.scalarLoad_free s sp ea n dest size ks h (by simp [State.remoteAt, hg]) (by rw [hn]; exact hf)
  simp only [hn, hl, hg, if_false, if_true] at this
  have he : s.scalarLoad sp ea n dest size = (s.noteLoad ks).wrAll (loadValues dest size (ks.map (s.loadByte s.iss.core))) := by
    rw [this]; split <;> simp [State.loadDone, hg]
  rw [he]
  exact State.wrAll_noted s ks _ (State.spanKeys_high _ _ _ _ _ _ _ _ hsp h)

theorem leNat_split (n : Nat) (bs : List Byte) (h : n ≤ bs.length) : leNat bs = leNat (bs.take n) + 256 ^ n * leNat (bs.drop n) := by
  induction n generalizing bs with
  | zero => simp [leNat]
  | succ n ih =>
    cases bs with
    | nil => simp at h
    | cons b bs =>
      simp only [List.take_succ_cons, List.drop_succ_cons, leNat]
      rw [ih bs (by simpa using h), Nat.pow_succ]
      rw [Nat.mul_add, ← Nat.add_assoc, ← Nat.mul_assoc, Nat.mul_comm 256 (256 ^ n)]

theorem leNat_lt (bs : List Byte) : leNat bs < 256 ^ bs.length := by
  induction bs with
  | nil => simp [leNat]
  | cons b bs ih => simp only [leNat, List.length_cons, Nat.pow_succ]; have := b.isLt; omega

/-- A load whose address is refused faults and does nothing else (R206, R405). -/
theorem State.scalarLoad_fault (s : State) (sp : Space) (ea : Word) (n : Nat) (dest : List SReg) (size : Nat)
    (f : FaultInfo) (h : s.scalarKeys sp ea n .read = .error f) : s.scalarLoad sp ea n dest size = s.takeFault f := by
  unfold State.scalarLoad; rw [h]

/-- A store whose address is refused faults and stores nothing (R206, R405). -/
theorem State.scalarStore_fault (s : State) (sp : Space) (ea : Word) (bs : List Byte)
    (f : FaultInfo) (h : s.scalarKeys sp ea bs.length .write = .error f) : s.scalarStore sp ea bs = s.takeFault f := by
  unfold State.scalarStore; rw [h]

/-! Holding, faulting and fencing. -/

/-- A held bundle: nothing but its status in issue changes. -/
theorem State.hold_does (s : State) : { s.hold with iss := s.iss } = s ∧ s.hold.iss.st = .held := ⟨rfl, rfl⟩

/-- A precise fault leaves the bundle marked, whatever the posting and the cancelling do. -/
theorem State.takeFault_marks (s : State) (f : FaultInfo) : (s.takeFault f).iss.st = .faulted := rfl

/-- An imprecise fault is a record posted, then a cancellation. -/
theorem State.lateFault_eq (s : State) (o : Org) (f : FaultInfo) :
    s.lateFault o f = (s.post (mkRec f.code 2 f.loc f.detail f.addr (some o))).cancelTask o := rfl

/-- A fence joins those of its core that still hold something; nothing else changes. -/
theorem State.addFence_does (s : State) (f : FenceSt) :
    (s.addFence f).iss = s.iss ∧ (s.addFence f).mem = s.mem ∧ (∀ k, k ≠ s.iss.core → (s.addFence f).core k = s.core k)
      ∧ (s.addFence f).core s.iss.core
          = { s.core s.iss.core with fences := (s.core s.iss.core).fences.filter (fun g => !s.fenceDone s.iss.core g) ++ [f] } :=
  ⟨rfl, rfl, fun _ h => State.core_modCore_other s _ h, State.core_modCore_same s _ _⟩

/-- A send is kept for the end of the phase; nothing else changes. -/
theorem State.holdSend_does (s : State) (x : Send) :
    (s.holdSend x).iss = s.iss ∧ (s.holdSend x).mem = s.mem ∧ (∀ k, k ≠ s.iss.core → (s.holdSend x).core k = s.core k)
      ∧ (s.holdSend x).core s.iss.core = { s.core s.iss.core with held := (s.core s.iss.core).held ++ [x] } :=
  ⟨rfl, rfl, fun _ h => State.core_modCore_other s _ h, State.core_modCore_same s _ _⟩

end Sys2Proof.Machine
end

