-- ==== Sys2Proof/Laws/PerInstr.lean ====
section
/-! SUPPORT. Per instruction: an instruction with a guard has the word of an issue slot, a table operation has an entry's 128 bits, and
none has both. -/
namespace Sys2Proof.Laws.SlotOrTable

/-- An instruction with a guard is one of an issue slot, and one of an issue slot is no table operation. -/
def Statement (i : Instr) : Prop :=
  ((Machine.guardOf i).isSome = true → (encode i).isSome = true) ∧ ((encode i).isSome = true → encodeTable i = none)

theorem nop : Statement (.nop) := ⟨nofun, fun _ => rfl⟩
theorem add (g d a b) : Statement (.add g d a b) := ⟨fun _ => rfl, fun _ => rfl⟩
theorem sub (g d a b) : Statement (.sub g d a b) := ⟨fun _ => rfl, fun _ => rfl⟩
theorem mul (g d a b) : Statement (.mul g d a b) := ⟨fun _ => rfl, fun _ => rfl⟩
theorem mulh (g d a b) : Statement (.mulh g d a b) := ⟨fun _ => rfl, fun _ => rfl⟩
theorem mulhn (g d a b) : Statement (.mulhn g d a b) := ⟨fun _ => rfl, fun _ => rfl⟩
theorem div (g d a b) : Statement (.div g d a b) := ⟨fun _ => rfl, fun _ => rfl⟩
theorem divn (g d a b) : Statement (.divn g d a b) := ⟨fun _ => rfl, fun _ => rfl⟩
theorem rem (g d a b) : Statement (.rem g d a b) := ⟨fun _ => rfl, fun _ => rfl⟩
theorem remn (g d a b) : Statement (.remn g d a b) := ⟨fun _ => rfl, fun _ => rfl⟩
theorem and_ (g d a b) : Statement (.and_ g d a b) := ⟨fun _ => rfl, fun _ => rfl⟩
theorem or_ (g d a b) : Statement (.or_ g d a b) := ⟨fun _ => rfl, fun _ => rfl⟩
theorem xor (g d a b) : Statement (.xor g d a b) := ⟨fun _ => rfl, fun _ => rfl⟩
theorem andn (g d a b) : Statement (.andn g d a b) := ⟨fun _ => rfl, fun _ => rfl⟩
theorem shl (g d a b) : Statement (.shl g d a b) := ⟨fun _ => rfl, fun _ => rfl⟩
theorem shr (g d a b) : Statement (.shr g d a b) := ⟨fun _ => rfl, fun _ => rfl⟩
theorem sra (g d a b) : Statement (.sra g d a b) := ⟨fun _ => rfl, fun _ => rfl⟩
theorem rol (g d a b) : Statement (.rol g d a b) := ⟨fun _ => rfl, fun _ => rfl⟩
theorem min_ (g d a b) : Statement (.min_ g d a b) := ⟨fun _ => rfl, fun _ => rfl⟩
theorem max_ (g d a b) : Statement (.max_ g d a b) := ⟨fun _ => rfl, fun _ => rfl⟩
theorem minn (g d a b) : Statement (.minn g d a b) := ⟨fun _ => rfl, fun _ => rfl⟩
theorem maxn (g d a b) : Statement (.maxn g d a b) := ⟨fun _ => rfl, fun _ => rfl⟩
theorem clz (g d a) : Statement (.clz g d a) := ⟨fun _ => rfl, fun _ => rfl⟩
theorem popc (g d a) : Statement (.popc g d a) := ⟨fun _ => rfl, fun _ => rfl⟩
theorem sext (g d a n) : Statement (.sext g d a n) := ⟨fun _ => rfl, fun _ => rfl⟩
theorem zext (g d a n) : Statement (.zext g d a n) := ⟨fun _ => rfl, fun _ => rfl⟩
theorem bfx (g d a b len) : Statement (.bfx g d a b len) := ⟨fun _ => rfl, fun _ => rfl⟩
theorem bfi (g d a b c len) : Statement (.bfi g d a b c len) := ⟨fun _ => rfl, fun _ => rfl⟩
theorem sel (g d a b cond) : Statement (.sel g d a b cond) := ⟨fun _ => rfl, fun _ => rfl⟩
theorem cmp (g d a b cc) : Statement (.cmp g d a b cc) := ⟨fun _ => rfl, fun _ => rfl⟩
theorem plog (g d a b t) : Statement (.plog g d a b t) := ⟨fun _ => rfl, fun _ => rfl⟩
theorem lea (g d a b sh) : Statement (.lea g d a b sh) := ⟨fun _ => rfl, fun _ => rfl⟩
theorem addi (g d a imm) : Statement (.addi g d a imm) := ⟨fun _ => rfl, fun _ => rfl⟩
theorem andi (g d a imm) : Statement (.andi g d a imm) := ⟨fun _ => rfl, fun _ => rfl⟩
theorem ori (g d a imm) : Statement (.ori g d a imm) := ⟨fun _ => rfl, fun _ => rfl⟩
theorem xori (g d a imm) : Statement (.xori g d a imm) := ⟨fun _ => rfl, fun _ => rfl⟩
theorem shli (g d a sh) : Statement (.shli g d a sh) := ⟨fun _ => rfl, fun _ => rfl⟩
theorem shri (g d a sh) : Statement (.shri g d a sh) := ⟨fun _ => rfl, fun _ => rfl⟩
theorem srai (g d a sh) : Statement (.srai g d a sh) := ⟨fun _ => rfl, fun _ => rfl⟩
theorem li (g d imm) : Statement (.li g d imm) := ⟨fun _ => rfl, fun _ => rfl⟩
theorem lih (g d a imm) : Statement (.lih g d a imm) := ⟨fun _ => rfl, fun _ => rfl⟩
theorem muli (g d a imm) : Statement (.muli g d a imm) := ⟨fun _ => rfl, fun _ => rfl⟩
theorem addpc (g d imm) : Statement (.addpc g d imm) := ⟨fun _ => rfl, fun _ => rfl⟩
theorem cmpi (g d a imm cc) : Statement (.cmpi g d a imm cc) := ⟨fun _ => rfl, fun _ => rfl⟩
theorem br (g off) : Statement (.br g off) := ⟨fun _ => rfl, fun _ => rfl⟩
theorem brp (g cond off) : Statement (.brp g cond off) := ⟨fun _ => rfl, fun _ => rfl⟩
theorem brz (g a off) : Statement (.brz g a off) := ⟨fun _ => rfl, fun _ => rfl⟩
theorem brnz (g a off) : Statement (.brnz g a off) := ⟨fun _ => rfl, fun _ => rfl⟩
theorem brr (g a off) : Statement (.brr g a off) := ⟨fun _ => rfl, fun _ => rfl⟩
theorem call (g off) : Statement (.call g off) := ⟨fun _ => rfl, fun _ => rfl⟩
theorem callr (g a) : Statement (.callr g a) := ⟨fun _ => rfl, fun _ => rfl⟩
theorem ret (g) : Statement (.ret g) := ⟨fun _ => rfl, fun _ => rfl⟩
theorem loop (g lc a off) : Statement (.loop g lc a off) := ⟨fun _ => rfl, fun _ => rfl⟩
theorem loopi (g lc count off) : Statement (.loopi g lc count off) := ⟨fun _ => rfl, fun _ => rfl⟩
theorem lbrk (g lc off) : Statement (.lbrk g lc off) := ⟨fun _ => rfl, fun _ => rfl⟩
theorem ld (g d base size space off) : Statement (.ld g d base size space off) := ⟨fun _ => rfl, fun _ => rfl⟩
theorem st (g v base size space off) : Statement (.st g v base size space off) := ⟨fun _ => rfl, fun _ => rfl⟩
theorem ldp (g d base space off) : Statement (.ldp g d base space off) := ⟨fun _ => rfl, fun _ => rfl⟩
theorem stp (g v base space off) : Statement (.stp g v base space off) := ⟨fun _ => rfl, fun _ => rfl⟩
theorem amo (g d addr b k op w) : Statement (.amo g d addr b k op w) := ⟨fun _ => rfl, fun _ => rfl⟩
theorem cas (g d addr b c w) : Statement (.cas g d addr b c w) := ⟨fun _ => rfl, fun _ => rfl⟩
theorem casc (g d addr b c k w) : Statement (.casc g d addr b c k w) := ⟨fun _ => rfl, fun _ => rfl⟩
theorem amoct (g d addr b c k op cc w) : Statement (.amoct g d addr b c k op cc w) := ⟨fun _ => rfl, fun _ => rfl⟩
theorem fred (g addr b k op fmt) : Statement (.fred g addr b k op fmt) := ⟨fun _ => rfl, fun _ => rfl⟩
theorem tspawn (g a) : Statement (.tspawn g a) := ⟨fun _ => rfl, fun _ => rfl⟩
theorem tdec (g a b) : Statement (.tdec g a b) := ⟨fun _ => rfl, fun _ => rfl⟩
theorem tarm (g a b) : Statement (.tarm g a b) := ⟨fun _ => rfl, fun _ => rfl⟩
theorem tdone (g a) : Statement (.tdone g a) := ⟨fun _ => rfl, fun _ => rfl⟩
theorem freeze (g a planes) : Statement (.freeze g a planes) := ⟨fun _ => rfl, fun _ => rfl⟩
theorem fence (g) : Statement (.fence g) := ⟨fun _ => rfl, fun _ => rfl⟩
theorem xfence (g before after scope) : Statement (.xfence g before after scope) := ⟨fun _ => rfl, fun _ => rfl⟩
theorem gsync (g) : Statement (.gsync g) := ⟨fun _ => rfl, fun _ => rfl⟩
theorem tswap (g n) : Statement (.tswap g n) := ⟨fun _ => rfl, fun _ => rfl⟩
theorem publish (g a b) : Statement (.publish g a b) := ⟨fun _ => rfl, fun _ => rfl⟩
theorem csrr (g d csr) : Statement (.csrr g d csr) := ⟨fun _ => rfl, fun _ => rfl⟩
theorem csrw (g d a csr) : Statement (.csrw g d a csr) := ⟨fun _ => rfl, fun _ => rfl⟩
theorem csrs (g d a csr) : Statement (.csrs g d a csr) := ⟨fun _ => rfl, fun _ => rfl⟩
theorem csrc (g d a csr) : Statement (.csrc g d a csr) := ⟨fun _ => rfl, fun _ => rfl⟩
theorem trap (g a code) : Statement (.trap g a code) := ⟨fun _ => rfl, fun _ => rfl⟩
theorem icinv (g scope) : Statement (.icinv g scope) := ⟨fun _ => rfl, fun _ => rfl⟩
theorem srfence (g) : Statement (.srfence g) := ⟨fun _ => rfl, fun _ => rfl⟩
theorem eread (g d sel) : Statement (.eread g d sel) := ⟨fun _ => rfl, fun _ => rfl⟩
theorem tokx (g d a) : Statement (.tokx g d a) := ⟨fun _ => rfl, fun _ => rfl⟩
theorem vix (g index bs fsel foff bi) : Statement (.vix g index bs fsel foff bi) := ⟨fun _ => rfl, fun _ => rfl⟩
theorem vnop (e) : Statement (.vnop e) := ⟨nofun, nofun⟩
theorem vadd (e) : Statement (.vadd e) := ⟨nofun, nofun⟩
theorem vsub (e) : Statement (.vsub e) := ⟨nofun, nofun⟩
theorem vmul (e) : Statement (.vmul e) := ⟨nofun, nofun⟩
theorem vfma (e) : Statement (.vfma e) := ⟨nofun, nofun⟩
theorem vfms (e) : Statement (.vfms e) := ⟨nofun, nofun⟩
theorem vfnma (e) : Statement (.vfnma e) := ⟨nofun, nofun⟩
theorem vmin (e) : Statement (.vmin e) := ⟨nofun, nofun⟩
theorem vmax (e) : Statement (.vmax e) := ⟨nofun, nofun⟩
theorem vabs (e) : Statement (.vabs e) := ⟨nofun, nofun⟩
theorem vneg (e) : Statement (.vneg e) := ⟨nofun, nofun⟩
theorem vcpys (e) : Statement (.vcpys e) := ⟨nofun, nofun⟩
theorem vrcp (e) : Statement (.vrcp e) := ⟨nofun, nofun⟩
theorem vrsq (e) : Statement (.vrsq e) := ⟨nofun, nofun⟩
theorem vsqrt (e) : Statement (.vsqrt e) := ⟨nofun, nofun⟩
theorem vdiv (e) : Statement (.vdiv e) := ⟨nofun, nofun⟩
theorem vexp2 (e) : Statement (.vexp2 e) := ⟨nofun, nofun⟩
theorem vlog2 (e) : Statement (.vlog2 e) := ⟨nofun, nofun⟩
theorem vtanh (e) : Statement (.vtanh e) := ⟨nofun, nofun⟩
theorem vsigm (e) : Statement (.vsigm e) := ⟨nofun, nofun⟩
theorem vcmpf (e) : Statement (.vcmpf e) := ⟨nofun, nofun⟩
theorem vclass (e) : Statement (.vclass e) := ⟨nofun, nofun⟩
theorem vrndi (e) : Statement (.vrndi e) := ⟨nofun, nofun⟩
theorem vscale (e) : Statement (.vscale e) := ⟨nofun, nofun⟩
theorem vdot2 (e) : Statement (.vdot2 e) := ⟨nofun, nofun⟩
theorem viadd (e) : Statement (.viadd e) := ⟨nofun, nofun⟩
theorem visub (e) : Statement (.visub e) := ⟨nofun, nofun⟩
theorem vimul (e) : Statement (.vimul e) := ⟨nofun, nofun⟩
theorem vimulh (e) : Statement (.vimulh e) := ⟨nofun, nofun⟩
theorem vimad (e) : Statement (.vimad e) := ⟨nofun, nofun⟩
theorem vand (e) : Statement (.vand e) := ⟨nofun, nofun⟩
theorem vor (e) : Statement (.vor e) := ⟨nofun, nofun⟩
theorem vxor (e) : Statement (.vxor e) := ⟨nofun, nofun⟩
theorem vshl (e) : Statement (.vshl e) := ⟨nofun, nofun⟩
theorem vshr (e) : Statement (.vshr e) := ⟨nofun, nofun⟩
theorem vsra (e) : Statement (.vsra e) := ⟨nofun, nofun⟩
theorem vimin (e) : Statement (.vimin e) := ⟨nofun, nofun⟩
theorem vimax (e) : Statement (.vimax e) := ⟨nofun, nofun⟩
theorem vicmp (e) : Statement (.vicmp e) := ⟨nofun, nofun⟩
theorem vsel (e) : Statement (.vsel e) := ⟨nofun, nofun⟩
theorem vpopc (e) : Statement (.vpopc e) := ⟨nofun, nofun⟩
theorem vclz (e) : Statement (.vclz e) := ⟨nofun, nofun⟩
theorem vbfx (e) : Statement (.vbfx e) := ⟨nofun, nofun⟩
theorem viabs (e) : Statement (.viabs e) := ⟨nofun, nofun⟩
theorem vsat (e) : Statement (.vsat e) := ⟨nofun, nofun⟩
theorem vmov (e) : Statement (.vmov e) := ⟨nofun, nofun⟩
theorem vlane (e) : Statement (.vlane e) := ⟨nofun, nofun⟩
theorem vgrp (e) : Statement (.vgrp e) := ⟨nofun, nofun⟩
theorem vqlog (e) : Statement (.vqlog e) := ⟨nofun, nofun⟩
theorem vqcnt (e) : Statement (.vqcnt e) := ⟨nofun, nofun⟩
theorem vld (e) : Statement (.vld e) := ⟨nofun, nofun⟩
theorem vst (e) : Statement (.vst e) := ⟨nofun, nofun⟩
theorem vldx (e) : Statement (.vldx e) := ⟨nofun, nofun⟩
theorem vstx (e) : Statement (.vstx e) := ⟨nofun, nofun⟩
theorem vldg (e) : Statement (.vldg e) := ⟨nofun, nofun⟩
theorem vstg (e) : Statement (.vstg e) := ⟨nofun, nofun⟩
theorem vamo (e) : Statement (.vamo e) := ⟨nofun, nofun⟩
theorem vcas (e) : Statement (.vcas e) := ⟨nofun, nofun⟩
theorem vstt (e) : Statement (.vstt e) := ⟨nofun, nofun⟩
theorem vnbr (e) : Statement (.vnbr e) := ⟨nofun, nofun⟩
theorem vperm (e) : Statement (.vperm e) := ⟨nofun, nofun⟩
theorem vbcl (e) : Statement (.vbcl e) := ⟨nofun, nofun⟩
theorem vrsum (e) : Statement (.vrsum e) := ⟨nofun, nofun⟩
theorem vrmax (e) : Statement (.vrmax e) := ⟨nofun, nofun⟩
theorem vrmin (e) : Statement (.vrmin e) := ⟨nofun, nofun⟩
theorem vscan (e) : Statement (.vscan e) := ⟨nofun, nofun⟩
theorem vgbc (e) : Statement (.vgbc e) := ⟨nofun, nofun⟩
theorem vcvt (e) : Statement (.vcvt e) := ⟨nofun, nofun⟩
theorem vpack (e) : Statement (.vpack e) := ⟨nofun, nofun⟩
theorem vunpk (e) : Statement (.vunpk e) := ⟨nofun, nofun⟩
theorem vmxq (e) : Statement (.vmxq e) := ⟨nofun, nofun⟩
theorem vmxd (e) : Statement (.vmxd e) := ⟨nofun, nofun⟩
theorem vrimec (e) : Statement (.vrimec e) := ⟨nofun, nofun⟩
theorem vsamp (e) : Statement (.vsamp e) := ⟨nofun, nofun⟩
theorem mnop (g) : Statement (.mnop g) := ⟨fun _ => rfl, fun _ => rfl⟩
theorem mlease (g n) : Statement (.mlease g n) := ⟨fun _ => rfl, fun _ => rfl⟩
theorem mrels (g) : Statement (.mrels g) := ⟨fun _ => rfl, fun _ => rfl⟩
theorem mclaim (g d n) : Statement (.mclaim g d n) := ⟨fun _ => rfl, fun _ => rfl⟩
theorem mfree (g) : Statement (.mfree g) := ⟨fun _ => rfl, fun _ => rfl⟩
theorem mlds (f) : Statement (.mlds f) := ⟨fun _ => rfl, fun _ => rfl⟩
theorem msts (g slot sa sb sc pitch) : Statement (.msts g slot sa sb sc pitch) := ⟨fun _ => rfl, fun _ => rfl⟩
theorem mtran (g dst src) : Statement (.mtran g dst src) := ⟨fun _ => rfl, fun _ => rfl⟩
theorem mma (f) : Statement (.mma f) := ⟨fun _ => rfl, fun _ => rfl⟩
theorem mmah (f) : Statement (.mmah f) := ⟨fun _ => rfl, fun _ => rfl⟩
theorem mzero (g plane) : Statement (.mzero g plane) := ⟨fun _ => rfl, fun _ => rfl⟩
theorem mdrain (f) : Statement (.mdrain f) := ⟨fun _ => rfl, fun _ => rfl⟩
theorem mdrainh (f) : Statement (.mdrainh f) := ⟨fun _ => rfl, fun _ => rfl⟩
theorem msamp (f) : Statement (.msamp f) := ⟨fun _ => rfl, fun _ => rfl⟩
theorem maccld (f) : Statement (.maccld f) := ⟨fun _ => rfl, fun _ => rfl⟩
theorem xnop (g) : Statement (.xnop g) := ⟨fun _ => rfl, fun _ => rfl⟩
theorem xcopy (f) : Statement (.xcopy f) := ⟨fun _ => rfl, fun _ => rfl⟩
theorem xgath (f) : Statement (.xgath f) := ⟨fun _ => rfl, fun _ => rfl⟩
theorem xscat (f) : Statement (.xscat f) := ⟨fun _ => rfl, fun _ => rfl⟩
theorem xfill (f) : Statement (.xfill f) := ⟨fun _ => rfl, fun _ => rfl⟩
theorem xput (f addr) : Statement (.xput f addr) := ⟨fun _ => rfl, fun _ => rfl⟩
theorem xtbl (f) : Statement (.xtbl f) := ⟨fun _ => rfl, fun _ => rfl⟩
theorem xcoll (f peer rel op) : Statement (.xcoll f peer rel op) := ⟨fun _ => rfl, fun _ => rfl⟩
theorem xroute (f topk mode) : Statement (.xroute f topk mode) := ⟨fun _ => rfl, fun _ => rfl⟩
theorem xrsnap (f clear) : Statement (.xrsnap f clear) := ⟨fun _ => rfl, fun _ => rfl⟩
theorem xexpa (f expert) : Statement (.xexpa f expert) := ⟨fun _ => rfl, fun _ => rfl⟩
theorem xexpr (f expert) : Statement (.xexpr f expert) := ⟨fun _ => rfl, fun _ => rfl⟩
theorem xfmt (f first count) : Statement (.xfmt f first count) := ⟨fun _ => rfl, fun _ => rfl⟩
theorem xrime (f mode) : Statement (.xrime f mode) := ⟨fun _ => rfl, fun _ => rfl⟩
theorem loadReturn (n) : Statement (.loadReturn n) := ⟨nofun, nofun⟩
theorem tableAccessComplete (core) : Statement (.tableAccessComplete core) := ⟨nofun, nofun⟩
theorem saveComplete (core) : Statement (.saveComplete core) := ⟨nofun, nofun⟩
theorem gateReleaseComplete (core) : Statement (.gateReleaseComplete core) := ⟨nofun, nofun⟩
theorem switchArrival (n) : Statement (.switchArrival n) := ⟨nofun, nofun⟩
theorem swapTick (core) : Statement (.swapTick core) := ⟨nofun, nofun⟩
theorem switchAbort (n) : Statement (.switchAbort n) := ⟨nofun, nofun⟩
theorem nancntAccess (op d v) : Statement (.nancntAccess op d v) := ⟨nofun, nofun⟩
theorem lfsrseedWrite (v) : Statement (.lfsrseedWrite v) := ⟨nofun, nofun⟩
theorem rimeinjWrite (v) : Statement (.rimeinjWrite v) := ⟨nofun, nofun⟩
theorem swgroupWrite (v) : Statement (.swgroupWrite v) := ⟨nofun, nofun⟩
theorem errbaseWrite (ctx v) : Statement (.errbaseWrite ctx v) := ⟨nofun, nofun⟩
theorem errsizeWrite (ctx v) : Statement (.errsizeWrite ctx v) := ⟨nofun, nofun⟩
theorem errtailWrite (ctx v) : Statement (.errtailWrite ctx v) := ⟨nofun, nofun⟩
theorem errflagsWrite (ctx v) : Statement (.errflagsWrite ctx v) := ⟨nofun, nofun⟩
theorem hubCsrAnswer (core) : Statement (.hubCsrAnswer core) := ⟨nofun, nofun⟩
theorem errorBankWrite (unit v) : Statement (.errorBankWrite unit v) := ⟨nofun, nofun⟩
theorem registerWrite (csr v) : Statement (.registerWrite csr v) := ⟨nofun, nofun⟩
theorem leaseGrant (cluster) : Statement (.leaseGrant cluster) := ⟨nofun, nofun⟩
theorem leaseExpiry (cluster) : Statement (.leaseExpiry cluster) := ⟨nofun, nofun⟩
theorem mmahFetch (core) : Statement (.mmahFetch core) := ⟨nofun, nofun⟩
theorem kChunk (core) : Statement (.kChunk core) := ⟨nofun, nofun⟩
theorem slotCommandComplete (core) : Statement (.slotCommandComplete core) := ⟨nofun, nofun⟩
theorem planeCommandComplete (core) : Statement (.planeCommandComplete core) := ⟨nofun, nofun⟩
theorem mdrainhWritesPerformed (core) : Statement (.mdrainhWritesPerformed core) := ⟨nofun, nofun⟩
theorem msampWaitExpiry (core) : Statement (.msampWaitExpiry core) := ⟨nofun, nofun⟩
theorem xgathRowStep (core n) : Statement (.xgathRowStep core n) := ⟨nofun, nofun⟩
theorem xtblHeaderCheck (core n) : Statement (.xtblHeaderCheck core n) := ⟨nofun, nofun⟩
theorem fillComplete (core n) : Statement (.fillComplete core n) := ⟨nofun, nofun⟩
theorem xcollRelease (core n) : Statement (.xcollRelease core n) := ⟨nofun, nofun⟩
theorem routePass (die) : Statement (.routePass die) := ⟨nofun, nofun⟩
theorem expertSlotLoadDone (die) : Statement (.expertSlotLoadDone die) := ⟨nofun, nofun⟩
theorem xCommandComplete (core n) : Statement (.xCommandComplete core n) := ⟨nofun, nofun⟩
theorem applyContinuation (n) : Statement (.applyContinuation n) := ⟨nofun, nofun⟩
theorem applyCancel (n) : Statement (.applyCancel n) := ⟨nofun, nofun⟩
theorem atomicAtHomeSlice (n) : Statement (.atomicAtHomeSlice n) := ⟨nofun, nofun⟩
theorem fredApply (n) : Statement (.fredApply n) := ⟨nofun, nofun⟩
theorem lineRepair (key bytes) : Statement (.lineRepair key bytes) := ⟨nofun, nofun⟩
theorem atomwaitExpiry (n) : Statement (.atomwaitExpiry n) := ⟨nofun, nofun⟩
theorem floorBroadcast : Statement (.floorBroadcast) := ⟨nofun, nofun⟩
theorem lineTimeSweep (owner) : Statement (.lineTimeSweep owner) := ⟨nofun, nofun⟩
theorem incrementalUpdate (n) : Statement (.incrementalUpdate n) := ⟨nofun, nofun⟩
theorem readyNotice (n) : Statement (.readyNotice n) := ⟨nofun, nofun⟩
theorem occupancyBroadcast (die) : Statement (.occupancyBroadcast die) := ⟨nofun, nofun⟩
theorem dispatch (die) : Statement (.dispatch die) := ⟨nofun, nofun⟩
theorem priorityAgeing (die) : Statement (.priorityAgeing die) := ⟨nofun, nofun⟩
theorem releaseReached (die) : Statement (.releaseReached die) := ⟨nofun, nofun⟩
theorem preemptionRequest (die) : Statement (.preemptionRequest die) := ⟨nofun, nofun⟩
theorem forcedYield (core) : Statement (.forcedYield core) := ⟨nofun, nofun⟩
theorem hangWatchdog (core) : Statement (.hangWatchdog core) := ⟨nofun, nofun⟩
theorem vacateWaitExpiry (cluster) : Statement (.vacateWaitExpiry cluster) := ⟨nofun, nofun⟩
theorem moduleReset : Statement (.moduleReset) := ⟨nofun, nofun⟩
theorem powerGood (cfg) : Statement (.powerGood cfg) := ⟨nofun, nofun⟩
theorem decrementPortWrite (ctx v) : Statement (.decrementPortWrite ctx v) := ⟨nofun, nofun⟩
theorem winnWrite (n v) : Statement (.winnWrite n v) := ⟨nofun, nofun⟩
theorem bar2Access (off write bytes) : Statement (.bar2Access off write bytes) := ⟨nofun, nofun⟩
theorem hostAtomicop (off op bytes a b) : Statement (.hostAtomicop off op bytes a b) := ⟨nofun, nofun⟩
theorem atomicopCompletion (n ok) : Statement (.atomicopCompletion n ok) := ⟨nofun, nofun⟩
theorem hostWriteDropped (n) : Statement (.hostWriteDropped n) := ⟨nofun, nofun⟩
theorem pcieLinkDown : Statement (.pcieLinkDown) := ⟨nofun, nofun⟩
theorem mbdoor (request) : Statement (.mbdoor request) := ⟨nofun, nofun⟩
theorem mbdoneClear (v) : Statement (.mbdoneClear v) := ⟨nofun, nofun⟩
theorem loadmap : Statement (.loadmap) := ⟨nofun, nofun⟩
theorem kill : Statement (.kill) := ⟨nofun, nofun⟩
theorem attest : Statement (.attest) := ⟨nofun, nofun⟩
theorem debugread : Statement (.debugread) := ⟨nofun, nofun⟩
theorem setperm : Statement (.setperm) := ⟨nofun, nofun⟩
theorem coolset : Statement (.coolset) := ⟨nofun, nofun⟩
theorem settrap : Statement (.settrap) := ⟨nofun, nofun⟩
theorem tokgive : Statement (.tokgive) := ⟨nofun, nofun⟩
theorem flashImageWrite : Statement (.flashImageWrite) := ⟨nofun, nofun⟩
theorem contextKill (ctx) : Statement (.contextKill ctx) := ⟨nofun, nofun⟩
theorem clcapWrite (die v) : Statement (.clcapWrite die v) := ⟨nofun, nofun⟩
theorem remoteLoad (f) : Statement (.remoteLoad f) := ⟨nofun, nofun⟩
theorem remoteStore (f) : Statement (.remoteStore f) := ⟨nofun, nofun⟩
theorem put (f) : Statement (.put f) := ⟨nofun, nofun⟩
theorem collectiveStep (f) : Statement (.collectiveStep f) := ⟨nofun, nofun⟩
theorem response (f) : Statement (.response f) := ⟨nofun, nofun⟩
theorem management (m) : Statement (.management m) := ⟨nofun, nofun⟩
theorem heartbeat : Statement (.heartbeat) := ⟨nofun, nofun⟩
theorem peerLost (m) : Statement (.peerLost m) := ⟨nofun, nofun⟩
theorem linkDown (port) : Statement (.linkDown port) := ⟨nofun, nofun⟩
theorem laneLoss (port lane) : Statement (.laneLoss port lane) := ⟨nofun, nofun⟩
theorem faultNotice (origin seq lost) : Statement (.faultNotice origin seq lost) := ⟨nofun, nofun⟩
theorem loadCompleteNotice (src) : Statement (.loadCompleteNotice src) := ⟨nofun, nofun⟩
theorem tokenGrant (src num tokens) : Statement (.tokenGrant src num tokens) := ⟨nofun, nofun⟩
theorem tokxAckTimeout (peer) : Statement (.tokxAckTimeout peer) := ⟨nofun, nofun⟩
theorem tokenOutcomeQuery (peer) : Statement (.tokenOutcomeQuery peer) := ⟨nofun, nofun⟩
theorem governorWindow (avg dieUse clusterUse) : Statement (.governorWindow avg dieUse clusterUse) := ⟨nofun, nofun⟩
theorem stepAnnouncement (die step tick) : Statement (.stepAnnouncement die step tick) := ⟨nofun, nofun⟩
theorem stepChange (die) : Statement (.stepChange die) := ⟨nofun, nofun⟩
theorem energyCounterUpdate (cores dies hub total) : Statement (.energyCounterUpdate cores dies hub total) := ⟨nofun, nofun⟩
theorem valveSetting : Statement (.valveSetting) := ⟨nofun, nofun⟩
theorem grantCounts (zone) : Statement (.grantCounts zone) := ⟨nofun, nofun⟩
theorem sensorSample (readings) : Statement (.sensorSample readings) := ⟨nofun, nofun⟩
theorem purgeStart (zone) : Statement (.purgeStart zone) := ⟨nofun, nofun⟩
theorem purgePulse (zone) : Statement (.purgePulse zone) := ⟨nofun, nofun⟩
theorem purgeGap (zone) : Statement (.purgeGap zone) := ⟨nofun, nofun⟩

end Sys2Proof.Laws.SlotOrTable
end

