-- ==== Sys2Proof/Tests/Slice0.lean ====
section
/-! SUPPORT. Tests: words written out from the spec's encodings, ill-formed terms refused, the spec's worked examples, and for every
statement a witness: a concrete state and operands that meet its hypotheses, clause by clause. Every expected result is the spec's or
worked out by hand from it. -/
set_option Elab.async false

namespace Sys2Proof.Machine.Tests

/-- The state that an outcome goes on in. -/
def nx (o : Host.Outcome State Fault Refusal) : State := match o with | .next t => t | _ => State.reset

/-- Core 0 runs a task of context 0 and issues the bundle at address 0, with the given scalar registers, predicates p0 and p1 true; the
first 4 GiB of addresses are the start of HBM, memory-side. -/
def at0 (l : Tbl Word) : State :=
  ((State.reset.withFetchWord 0 0).modCore 0 fun k => { k with regs := ⟨l, 2, [], [], [], []⟩ }).enter 0 0

/-- The state after an instruction. -/
def run (i : Instr) (s : State) : State := nx (exec i s)

/-- The key of the byte of HBM at an address of the first region. -/
def hbm (a : Nat) : Nat := Target.key ⟨0, 0, a, fetchRegion⟩

/-- The error of a result. -/
def err {ε α : Type} (x : Except ε α) : Option ε := match x with | .error e => some e | .ok _ => none

/-- Scalar register n of core 0. -/
def sreg (s : State) (n : Nat) : Word := (s.regs 0).getS n

/-! Decoding: words written out from the encodings of R163 to R179. -/

/-- The example of R179: ADDI and VIX. -/
theorem test_decode_addi_vix :
    decodeC 0x2014520000001000 = .ok (.addi 2 5 5 64) ∧ decodeV 0x100904800400 = .ok (.vix 0 64 9 1 2 16) := ⟨rfl, rfl⟩

/-- The examples of R203, R208 and R215, and TRAP and TSWAP by R170 and R171. -/
theorem test_decode_control :
    decodeC 0x273000048D15A000 = .ok (.li 0 12 0x12345680) ∧ decodeC 0x2830C00032100400 = .ok (.lih 0 12 12 0x00C84010)
      ∧ decodeC 0x8328824B03004000 = .ok (.amoct 0 10 8 9 11 12 0 0 1) ∧ decodeC 0xC400900000000123 = .ok (.trap 0 9 0x123)
      ∧ decodeC 0xA600000000000201 = .ok (.xfence 0 1 2 0) ∧ decodeC 0xA800000000000001 = .ok (.tswap 0 1) := ⟨rfl, rfl, rfl, rfl, rfl, rfl⟩

/-- A register instruction (CR: SUB s3, s1, s2), a branch back by one bundle (CB) and a load of a doubleword from G (CM: size 6). -/
theorem test_decode_formats :
    decodeC 0x020C108000000000 = .ok (.sub 0 3 1 2) ∧ decodeC 0x40000000FFFFFFFF = .ok (.br 0 0xFFFFFFFF)
      ∧ decodeC 0x601460C000000038 = .ok (.ld 0 5 6 6 0 0x38) := ⟨rfl, rfl, rfl⟩

/-- Commands of the M and X slots: MMA and MDRAIN by R177 and R263, XCOPY and XTBL by R179, R274 and R287. -/
theorem test_decode_commands :
    decodeM 0x21102803004E0000 = .ok (.mma ⟨0, 2, 64, 320, 3, 0, 1, 3, 1⟩)
      ∧ decodeM 0x2C32D00000080000 = .ok (.mdrain ⟨0, 0, 25, 26, 0, ⟨0, 0, 0, 0⟩, 2, 0, 0⟩)
      ∧ decodeX 0x0545565CC0430000 = .ok (.xcopy ⟨0, 20, 21, 22, 23, 12, 0, 1, 3⟩)
      ∧ decodeX 0x1800040000000000 = .ok (.xtbl ⟨0, 0, 0, 4, 0, 0, 0, 0, 0⟩) := ⟨rfl, rfl, rfl, rfl⟩

/-- The example of R176, VFMA, and a VLD of bank 3, base b2, offset 64 at class 3 by R174. -/
theorem test_decode_entries :
    decodeEntry ((0x01110F302083A000 : BitVec 64) ++ (0 : BitVec 64)) = some (.vfma ⟨2, 1, 7, 1, 1, 1, 1, 2, 7, 2, 0, 0, 0, 0, 0, 0, 0⟩)
      ∧ decodeEntry ((0x80180A0000000340 : BitVec 64) ++ (0x0000004000000000 : BitVec 64))
          = some (.vld ⟨3, 0, 5, 0, 0, 0, 0, 0, 0, 0, 3, 2, 0, 0, 0, 0x40, 0⟩) := ⟨rfl, rfl⟩

/-- Reserved opcodes and fields are refused (R164, R169, R176): opcode 0x30, a nonzero fn of ADD, CM space 4, M opcode 0x0F, X opcode 0x0E,
table opcode 0x019. -/
theorem test_decode_refuses :
    (decodeC 0x3000000000000000).toOption = none ∧ (decodeC 0x0100000000100000).toOption = none ∧ (decodeC 0x600000D000000000).toOption = none
      ∧ (decodeM 0x3C00000000000000).toOption = none ∧ (decodeX 0x3800000000000000).toOption = none
      ∧ decodeEntry (0x019#10 ++ 0#118) = none := by decide +kernel

/-- Terms that no encoding admits are ill-formed, one for each check: BFX and BFI lengths, condition codes, a forward loop, LD size 7, a
sign code of ST, s63 of LDP and STP, AMO, AMOCT and FRED codes, an XFENCE scope and an EREAD selector (R168, R170, R201, R205, R224). -/
theorem test_wellformed_control :
    [Instr.bfx 0 1 2 3 0, .bfx 0 1 2 3 65, .bfi 0 1 2 3 4 0, .cmp 0 1 2 3 6, .cmpi 0 1 2 3 7, .loop 0 0 1 1, .loopi 0 0 4 1,
      .ld 0 1 2 7 0 0, .st 0 1 2 1 0 0, .ldp 0 63 2 0 0, .stp 0 63 2 0 0, .amo 0 1 2 3 4 9 0, .amoct 0 1 2 3 4 5 9 0 0,
      .amoct 0 1 2 3 4 5 0 6 0, .fred 0 1 2 3 1 0, .fred 0 1 2 3 0 5, .xfence 0 1 1 5, .eread 0 1 0x10A].all (fun i => !wellFormed i) = true
    ∧ [Instr.bfx 0 1 2 3 64, .loop 0 0 1 0xFFFFFFFF, .ld 0 1 2 6 0 0, .ldp 0 62 2 0 0, .amo 0 1 2 3 4 8 0, .fred 0 1 2 3 5 4, .xfence 0 1 1 4,
      .eread 0 1 0x109].all wellFormed = true := by decide +kernel

/-- The same of the M and X slots, of entries and of events: a pitch of 0, an MLDS format, slots past 511, a region past the plane, COUT with
BUF, an unused register field, a mode of XROUTE and XRIME, XFMT past entry 15, a class below the natural one, payload and line lengths
(R256, R259, R263, R269, R288, R294, R411, R331, R334). -/
theorem test_wellformed_commands :
    [Instr.mlds ⟨0, 0, 1, 2, 3, 1, 0, 0, 0, 0⟩, .mlds ⟨0, 0, 1, 2, 3, 0, 2, 0, 0, 0⟩, .msts 0 0 1 2 3 0, .mma ⟨0, 0, 511, 0, 0, 0, 0, 0, 0⟩,
      .mdrain ⟨0, 0, 1, 2, 3, ⟨0, 0, 0, 0⟩, 0, 0, 0⟩, .mdrain ⟨0, 0, 1, 2, 3, ⟨7, 0, 1, 0⟩, 1, 0, 0⟩, .mdrainh ⟨0, 0, 1, 2, 3, ⟨0, 7, 0, 1⟩, 0, 0⟩,
      .maccld ⟨0, 0, 1, 2, ⟨0, 0, 0, 0⟩, 0⟩, .xcopy ⟨0, 1, 2, 3, 4, 0, 1, 1, 0⟩, .xgath ⟨0, 1, 2, 3, 4, 0, 1, 0, 0⟩, .xfill ⟨0, 1, 2, 3, 4, 0, 0, 0, 0⟩,
      .xscat ⟨0, 1, 2, 3, 4, 0, 0, 1, 0⟩, .xtbl ⟨0, 1, 0, 3, 0, 0, 0, 0, 0⟩, .xroute ⟨0, 1, 0, 3, 0, 0, 0, 0, 0⟩ 0 2, .xfmt ⟨0, 0, 0, 3, 0, 0, 0, 0, 0⟩ 15 1,
      .xrime ⟨0, 1, 2, 0, 0, 0, 0, 0, 0⟩ 3, .vfma ⟨1, 0, 7, 0, 0, 0, 1, 2, 7, 0, 0, 0, 0, 0, 0, 0, 0⟩, .put ⟨0, List.replicate 225 0, none⟩,
      .lineRepair 0 [], .mbdoor (List.replicate 4097 0)].all (fun i => !wellFormed i) = true
    ∧ [Instr.mma ⟨0, 0, 504, 0, 0, 0, 0, 0, 0⟩, .mdrain ⟨0, 0, 1, 2, 3, ⟨7, 0, 0, 7⟩, 127, 0, 0⟩, .xfmt ⟨0, 0, 0, 3, 0, 0, 0, 0, 0⟩ 15 0,
      .vfma ⟨2, 0, 7, 0, 0, 0, 1, 2, 7, 0, 0, 0, 0, 0, 0, 0, 0⟩, .put ⟨0, List.replicate 224 0, none⟩].all wellFormed = true := by decide +kernel

/-- The host's question: the bundle of ADDI s5, s5, 64 (guard 0, header 1, the slot above bit 8) decodes, and runs as the first step. -/
theorem test_first_step :
    decodeTableWord 72 0x20145000000010_0001 = some (.addi 0 5 5 64)
      ∧ ((nx (step (State.reset.withFetchWord 72 0x20145000000010_0001))).core 0).regs.getS 5 = 64
      ∧ ((nx (step (State.reset.withFetchWord 72 0x20145000000010_0001))).core 0).pc = 32 := by decide +kernel

/-! Control slot: results of R201 to R205. -/

/-- Division by zero and −2^63 / −1 (R202). -/
theorem test_division :
    let s := at0 [(1, 7), (2, 0x8000000000000000), (3, 0xFFFFFFFFFFFFFFFF), (4, 0xFFFFFFFFFFFFFFF9), (5, 2)]
    sreg (run (.div 0 9 1 0) s) 9 = 0xFFFFFFFFFFFFFFFF ∧ sreg (run (.rem 0 9 1 0) s) 9 = 7 ∧ sreg (run (.divn 0 9 1 0) s) 9 = 0xFFFFFFFFFFFFFFFF
      ∧ sreg (run (.remn 0 9 1 0) s) 9 = 7 ∧ sreg (run (.div 0 9 2 3) s) 9 = 0x8000000000000000 ∧ sreg (run (.rem 0 9 2 3) s) 9 = 0
      ∧ sreg (run (.div 0 9 4 5) s) 9 = 0xFFFFFFFFFFFFFFFD ∧ sreg (run (.rem 0 9 4 5) s) 9 = 0xFFFFFFFFFFFFFFFF
      ∧ sreg (run (.divn 0 9 4 5) s) 9 = 0x7FFFFFFFFFFFFFFC ∧ sreg (run (.remn 0 9 4 5) s) 9 = 1 := by decide +kernel

/-- Sums, products, logic and shifts with operands that tell them apart (R201): a = −2, b = 65, of which a shift takes 1. -/
theorem test_register_results :
    let s := at0 [(1, 0xFFFFFFFFFFFFFFFE), (2, 65)]
    let r (i : Instr) : Word := sreg (run i s) 9
    [r (.add 0 9 1 2), r (.sub 0 9 2 1), r (.mul 0 9 1 2), r (.mulh 0 9 1 2), r (.mulhn 0 9 1 2), r (.and_ 0 9 1 2), r (.or_ 0 9 1 2), r (.xor 0 9 1 2),
        r (.andn 0 9 2 1), r (.shl 0 9 1 2), r (.shr 0 9 1 2), r (.sra 0 9 1 2), r (.rol 0 9 1 2), r (.min_ 0 9 1 2), r (.max_ 0 9 1 2), r (.minn 0 9 1 2),
        r (.maxn 0 9 1 2), r (.lea 0 9 2 1 3)]
      = [63, 67, 0xFFFFFFFFFFFFFF7E, 0xFFFFFFFFFFFFFFFF, 64, 64, 0xFFFFFFFFFFFFFFFF, 0xFFFFFFFFFFFFFFBF, 1, 0xFFFFFFFFFFFFFFFC,
        0x7FFFFFFFFFFFFFFF, 0xFFFFFFFFFFFFFFFF, 0xFFFFFFFFFFFFFFFD, 0xFFFFFFFFFFFFFFFE, 65, 65, 0xFFFFFFFFFFFFFFFE, 49] := by decide +kernel

/-- Counts, extensions, fields and selection (R201): BFX reads zero above bit 63, BFI drops what lands above it. -/
theorem test_field_results :
    let s := at0 [(1, 0x00000000000080F0), (2, 60), (3, 0xFFFFFFFFFFFFFFFF)]
    let r (i : Instr) : Word := sreg (run i s) 9
    [r (.clz 0 9 1), r (.clz 0 9 0), r (.popc 0 9 1), r (.sext 0 9 1 15), r (.zext 0 9 1 7), r (.bfx 0 9 3 2 8), r (.bfi 0 9 1 3 2 8), r (.sel 0 9 1 2 1),
        r (.sel 0 9 1 2 9)]
      = [48, 64, 5, 0xFFFFFFFFFFFF80F0, 0xF0, 0xF, 0xF0000000000080F0, 0x80F0, 60] := by decide +kernel

/-- Immediates: LI and LIH build the word of the example of R203; a negative ANDI keeps the upper bits; ADDPC adds to the address. -/
theorem test_immediates :
    let s := at0 [(1, 0xF000000000000005), (2, 6)]
    let r (i : Instr) : Word := sreg (run i s) 9
    r (.li 0 9 0x12345680) = 0x12345680
      ∧ sreg (run (.lih 0 12 12 0x00C84010) (at0 [(12, 0x12345680)])) 12 = 0x0321004012345680
      ∧ r (.andi 0 9 1 0x3FFFFFFFE) = 0xF000000000000004 ∧ r (.addi 0 9 1 0x3FFFFFFFF) = 0xF000000000000004 ∧ r (.muli 0 9 2 0x3FFFFFFFF) = 0xFFFFFFFFFFFFFFFA
      ∧ r (.ori 0 9 2 1) = 7 ∧ r (.xori 0 9 2 3) = 5 ∧ r (.shli 0 9 2 63) = 0 ∧ r (.shri 0 9 1 60) = 15 ∧ r (.srai 0 9 1 60) = 0xFFFFFFFFFFFFFFFF
      ∧ r (.addpc 0 9 0x3FFFFFFFF) = 0xFFFFFFFFFFFFFFFF := by decide +kernel

/-- The example of R202: CMP.ltn clears p2, CMP.lt sets p3, PLOG xor of them sets p1; CMPI extends its immediate. -/
theorem test_predicates :
    let s := at0 [(4, 0xFFFFFFFFFFFFFFFF), (5, 3)]
    ((run (.cmp 0 2 4 5 4) s).regs 0).getP 2 = false ∧ ((run (.cmp 0 3 4 5 2) s).regs 0).getP 3 = true
      ∧ ((run (.plog 0 1 2 3 6) ((run (.cmp 0 3 4 5 2) s).enter 0 0)).regs 0).getP 1 = true
      ∧ ((run (.cmpi 0 2 4 0x3FFFFFFFF 0) s).regs 0).getP 2 = true := by decide +kernel

/-- Branches of R204, forward by two bundles from address 0, and their conditions; CALL links. -/
theorem test_branches :
    let s := at0 [(1, 0x40), (63, 0x80)]
    (run (.br 0 2) s).iss.npc = 64 ∧ (run (.brp 0 9 2) s).iss.npc = 32 ∧ (run (.brz 0 1 2) s).iss.npc = 32 ∧ (run (.brnz 0 1 2) s).iss.npc = 64
      ∧ (run (.brr 0 1 0xFFFFFFFF) s).iss.npc = 0x20 ∧ (run (.ret 0) s).iss.npc = 0x80 ∧ (run (.callr 0 63) s).iss.npc = 0x80
      ∧ sreg (run (.callr 0 63) s) 63 = 32 ∧ sreg (run (.call 0 2) s) 63 = 32 ∧ (run (.callr 0 2) (at0 [(2, 4)])).iss.st = .faulted := by decide +kernel

/-- The example of R205: with limit 3 the counter goes 1, 2, 0; LOOPI of count 0 ends at once; LBRK clears and leaves. -/
theorem test_loops :
    let s (n : BitVec 32) : State := ((at0 [(20, 3)]).modCore 0 fun k => { k with regs := k.regs.setLc 0 n }).enter 0 0
    let t (n : BitVec 32) : State := run (.loop 0 0 20 0xFFFFFFFF) (s n)
    (((t 0).regs 0).getLc 0, (t 0).iss.npc) = (1, 0xFFFFFFFFFFFFFFE0) ∧ (((t 1).regs 0).getLc 0, (t 1).iss.npc) = (2, 0xFFFFFFFFFFFFFFE0)
      ∧ (((t 2).regs 0).getLc 0, (t 2).iss.npc) = (0, 32) ∧ ((run (.loopi 0 0 0 0) (s 0)).regs 0).getLc 0 = 0
      ∧ (((run (.lbrk 0 0 4) (s 2)).regs 0).getLc 0, (run (.lbrk 0 0 4) (s 2)).iss.npc) = (0, 128) := by decide +kernel

/-! Witnesses: reset, decoding, the step. -/

/-- A word of the host's question: header 1, ADDI s5, s5, 64. -/
def addiWord : Nat := 0x201450000000100001

/-- StepRunsDecoded, DecodeEncode, EntryRoundTrip, InvariantsKept: the bytes at the pc decode to one well-formed instruction that nothing
holds, and the step runs it. -/
theorem test_step_runs_decoded :
    let s := State.reset.withFetchWord 72 addiWord
    let f := (s.translate 0 0 .fetch).toOption.map fun t => (s.enter 0 0).fetchLine 0 t 0
    s.turn = .issue 0 ∧ (s.core 0).task.isSome = true ∧ s.hub.fenced = false ∧ (s.core 0).hold = .none
      ∧ (f.bind fun p => (decodeBundle (bundleOf p.1 0)).toOption.bind Bundle.single) = some (.addi 0 5 5 64)
      ∧ (f.map fun p => p.2.blocked 0 [.addi 0 5 5 64]) = some false
      ∧ wellFormed (.addi 0 5 5 64) = true ∧ encode (.addi 0 5 5 64) = some (BitVec.ofNat 256 addiWord) := by decide +kernel

/-- An entry with an encoding (EntryRoundTrip), and the premise of InvariantsKept. -/
theorem test_entry_and_invariant :
    (encodeTable (.vfma ⟨2, 1, 7, 1, 1, 1, 1, 2, 7, 2, 0, 0, 0, 0, 0, 0, 0⟩) = some 0x01110F302083A0000000000000000000)
      ∧ Memory.wf State.reset.mem ∧ (∀ c, (State.reset.core c).banks.length = 2 ∧ (State.reset.core c).active < 2) :=
  ⟨by decide +kernel, ⟨.nil, fun _ h => nomatch h⟩, fun _ => ⟨rfl, Nat.zero_lt_two⟩⟩

/-- GuardFalse: guard 8 is never true, and p2 is false. -/
theorem test_guard_false :
    let s := at0 [(1, 7)]
    guardOf (.add 8 9 1 1) = some 8 ∧ s.guard 8 = false ∧ guardOf (.mzero 2 0) = some 2 ∧ s.guard 2 = false ∧ s.guard 10 = true
      ∧ sreg (run (.add 2 9 1 1) s) 9 = 0 ∧ sreg (run (.add 10 9 1 1) s) 9 = 14 := by decide +kernel

/-- ScalarResults: a write to s0 is discarded, one to s63 is not; a predicate likewise; BFI of all 64 bits. -/
theorem test_scalar_results :
    let s := at0 [(1, 7), (2, 5)]
    s.guard 0 = true ∧ wellFormed (.add 0 0 1 2) = true ∧ scalarResult (.add 0 0 1 2) s = some (0, 0, 12) ∧ sreg (run (.add 0 0 1 2) s) 0 = 0
      ∧ scalarResult (.add 0 63 1 2) s = some (0, 63, 12) ∧ sreg (run (.add 0 63 1 2) s) 63 = 12
      ∧ predicateResult (.cmp 0 0 1 2 2) s = some (0, 0, false) ∧ ((run (.cmp 0 0 1 2 2) s).regs 0).getP 0 = true
      ∧ predicateResult (.cmp 0 7 2 1 2) s = some (0, 7, true) ∧ ((run (.cmp 0 7 2 1 2) s).regs 0).getP 7 = true
      ∧ sreg (run (.bfi 0 9 1 2 0 64) s) 9 = 5 := by decide +kernel

/-- BranchTargets, RegisterJumps and HardwareLoops have no premise but a true guard: see the tests of R204 and R205 above. -/
theorem test_register_jumps :
    let s := at0 [(1, 0x7F)]
    s.guard 1 = true ∧ (s.rd 1).toNat % 32 ≠ 0 ∧ (run (.brr 0 1 0) s).iss.st = .faulted ∧ (run (.ret 0) s).iss.npc = 0
      ∧ (run (.brr 0 0 3) s).iss.npc = 96 := by decide +kernel

/-! Witnesses: scalar memory. -/

/-- Core 0 with bytes at an offset of its C space. -/
def withC (s : State) (off : Nat) (bs : List Byte) : State := s.put (cKey 0 off) bs

/-- A core with its second region in module 1 (class 4, flat, RD and WR). -/
def withFar (s : State) : State :=
  (s.modCtx 0 fun x => { x with map := { x.map with
    regions := x.map.regions.set 1 (BitVec.ofNat 128 (2 ^ 117 + 2048 * 2 ^ 84 + 4 * 2 ^ 73 + 2 ^ 71 + 2 ^ 69 + 2 ^ 68)) } }).enter 0 0

/-- OnChipLoads, and the sizes of R168: b extends the sign, bn zero; the last byte of the space; LDP. -/
theorem test_onchip_loads :
    let s := withC (withC (at0 [(6, 0x100), (7, 0x3FFFFF)]) 0x100 [0xF0, 0x80, 3, 4, 5, 6, 7, 8, 9, 0, 0, 0, 0, 0, 0, 0x80]) 0x3FFFFF [0x7F]
    let ks := (List.range 16).map fun i => cKey 0 (0x100 + i)
    s.guard 0 = true ∧ (∀ k ∈ ks, s.unformed (k / 256) = none) ∧ s.behindParked ks = false ∧ (∀ k ∈ ks, s.bankLocked 0 (k % 2 ^ 22) = false)
      ∧ s.loadHurt 0 ks = none ∧ (s.spanKeys 0 0 .c 0x100 16 .read).toOption = some ks
      ∧ (s.spanKeys 0 0 .c 0x3FFFFF 1 .read).toOption = some [cKey 0 0x3FFFFF]
      ∧ sreg (run (.ld 0 5 6 0 1 0) s) 5 = 0xFFFFFFFFFFFFFFF0 ∧ sreg (run (.ld 0 5 6 1 1 0) s) 5 = 0xF0 ∧ sreg (run (.ld 0 5 6 2 1 0) s) 5 = 0xFFFFFFFFFFFF80F0
      ∧ sreg (run (.ld 0 5 6 3 1 0) s) 5 = 0x80F0 ∧ sreg (run (.ld 0 5 6 4 1 0) s) 5 = 0x040380F0 ∧ sreg (run (.ld 0 5 6 6 1 0) s) 5 = 0x08070605040380F0
      ∧ sreg (run (.ld 0 5 7 1 1 0) s) 5 = 0x7F ∧ sreg (run (.ldp 0 62 6 1 0) s) 62 = 0x08070605040380F0
      ∧ sreg (run (.ldp 0 62 6 1 0) s) 63 = 0x8000000000000009 := by decide +kernel

/-- OnChipLoads, GlobalLoads, OnChipStores: an access at the last byte before a sector boundary is performed in two halves (R144). -/
theorem test_halves :
    let s := withC (at0 [(6, 0x1C), (1, 0x1122334455667788)]) 0x1C [1, 2, 3, 4, 5, 6, 7, 8]
    let ks := (List.range 8).map fun i => cKey 0 (0x1C + i)
    let t := run (.ld 0 5 6 6 1 0) s
    let u := run (.ld 0 5 6 6 0 0) s
    let w := run (.st 0 1 6 6 1 0) s
    firstHalf 0x1C 8 = 4 ∧ t.lates.map (·.todo) = [[.load 1 0x20 (ks.drop 4) [1, 2, 3, 4] [5] 6]] ∧ sreg t 5 = 0
      ∧ s.loadHurt 0 ks = none ∧ (∀ k ∈ ks, 1 < keySpace k) ∧ sreg (nx (s.actLate (.load 1 0x20 (ks.drop 4) [1, 2, 3, 4] [5] 6))) 5 = 0x0807060504030201
      ∧ u.rets = [] ∧ u.lates.map (·.todo) = [[.load 0 0x20 ((List.range 4).map fun i => hbm (0x20 + i)) [0, 0, 0, 0] [5] 6]]
      ∧ w.num (cKey 0 0x1C) 8 = 0x0807060555667788 ∧ w.lates.map (·.todo) = [[.store 1 (ks.drop 4) [0x44, 0x33, 0x22, 0x11]]]
      ∧ (nx (w.actLate (.store 1 (ks.drop 4) [0x44, 0x33, 0x22, 0x11]))).num (cKey 0 0x1C) 8 = 0x1122334455667788 := by decide +kernel

/-- GlobalLoads: from the module's memory a value is on its way and lands at LOAD_RETURN; another module is asked. -/
theorem test_global_loads :
    let s := withFar ((at0 [(6, 0x1000), (7, 0x100000000)]).put (hbm 0x1004) [0x21, 0x43])
    let ks := (List.range 8).map fun i => hbm (0x1000 + i)
    let t := run (.ld 0 5 6 6 0 0) s
    (s.spanKeys 0 0 .g 0x1000 8 .read).toOption = some ks ∧ s.remoteAt .g 0x1000 8 .read = none ∧ s.behindParked ks = false ∧ s.loadHurt 0 ks = none
      ∧ t.rets = [⟨0, [(5, 0x432100000000)]⟩] ∧ sreg t 5 = 0 ∧ sreg (run (.loadReturn 0) t) 5 = 0x432100000000
      ∧ (s.spanKeys 0 0 .g 0x100000000 16 .read).toOption.isSome = true ∧ (s.remoteAt .g 0x100000000 16 .read).isSome = true
      ∧ (run (.ldp 0 5 7 0 0) s).remotes.length = 1 := by decide +kernel

/-- OnChipStores and GatedStores: a store in the C space is in memory at once; one in the G space enters the gate, split at a sector. -/
theorem test_stores :
    let s := at0 [(6, 0x1C), (1, 0x1122334455667788), (2, 0xFF)]
    let kc := (List.range 8).map fun i => cKey 0 (0x1C + i)
    let kg := (List.range 8).map fun i => hbm (0x1C + i)
    let t := run (.st 0 1 6 6 0 0) s
    s.copyOutReads 0 kc = false ∧ (∀ k ∈ kc, s.bankLocked 0 (k % 2 ^ 22) = false)
      ∧ (s.spanKeys 0 0 .c 0x1C 8 .write).toOption = some kc ∧ (run (.st 0 1 6 6 1 4) s).num (cKey 0 0x20) 8 = 0x1122334455667788
      ∧ (run (.stp 0 1 6 1 4) s).num (cKey 0 0x28) 8 = 0xFF
      ∧ (s.spanKeys 0 0 .g 0x1C 8 .write).toOption = some kg ∧ s.copyOutReads 0 kg = false
      ∧ (sectors 0x1C (regBytes 8 (s.rd 1))).length = 2 ∧ 2 ≤ (s.core 0).gateFree ∧ t.mem = []
      ∧ (t.core 0).gate.map (fun e => (e.va, e.bytes)) = [(0x1C, [0x88, 0x77, 0x66, 0x55]), (0x20, [0x44, 0x33, 0x22, 0x11])] := by decide +kernel

/-- AccessFaults: above 2^44 the reason is 0, past the C space the access is refused; an atomic with a reserved KIND, misaligned, and in a
region without MS. -/
theorem test_access_faults :
    let s := at0 [(6, 0x100000000000), (7, 0x400000), (8, 0x1000), (9, 0x1004), (10, 0x0040000000000000)]
    let u := (s.modCtx 0 fun x => { x with map := { x.map with regions := x.map.regions.set 0 (fetchRegion &&& ~~~(BitVec.ofNat 128 (2 ^ 67))) } })
    err (s.spanKeys 0 0 .g 0x100000000000 8 .read) = some (0, 0x100000000000)
      ∧ (err (s.spanKeys 0 0 .c 0x400000 8 .write)).isSome = true
      ∧ (run (.ld 0 5 6 6 0 0) s).iss.st = .faulted ∧ ((run (.ld 0 5 6 6 0 0) s).core 0).task = none ∧ (run (.st 0 5 7 6 1 0) s).iss.st = .faulted
      ∧ contBad (s.rd 10) = some 0 ∧ (run (.amoct 0 5 8 1 2 10 0 0 1) s).iss.st = .faulted
      ∧ contBad (s.rd 0) = none ∧ (s.rd 9).toNat % 8 ≠ 0 ∧ (run (.amoct 0 5 9 1 2 0 0 0 1) s).iss.st = .faulted
      ∧ ((u.translate 0 0x1000 .atomic).toOption.map fun t => (t.cls, t.ms)) = some (0, false)
      ∧ (run (.amoct 0 5 8 1 2 0 0 0 1) u).iss.st = .faulted := by decide +kernel

/-! Witnesses: atomics. The word 0x0010…1000 decrements the record at 0x1000 by one (R27). -/

/-- AtomicsRequested and AtomicPerformed: AMO.add.d of 5 to 7; CAS and CASC succeed where the word is expected; AMOCT fires at its threshold. -/
theorem test_atomics :
    let s := (at0 [(8, 0x2000), (9, 5), (10, 7), (11, 12), (12, 0x0010000000001000)]).put (hbm 0x2000) [7]
    let perform (i : Instr) : State := run (.loadReturn 0) (run (.atomicAtHomeSlice 0) (run i s))
    let r := (run (.amo 0 20 8 9 12 0 1) s).reqs
    ((s.translate 0 0x2000 .atomic).toOption.map fun t => (t.cls, t.rc, atomicReason t (.amo 0))) = some (0, false, none)
      ∧ contBad (s.rd 12) = none ∧ r.map (fun q => (q.w, q.b, q.k)) = [(8, 5, 0x0010000000001000)]
      ∧ ((run (.amo 0 20 8 9 12 0 1) s).readyReq 0 false).isSome = true ∧ s.lineBad (hbm 0x2000) = false ∧ s.behindParked [hbm 0x2000] = false
      ∧ (perform (.amo 0 20 8 9 12 0 1)).num (hbm 0x2000) 8 = 12 ∧ sreg (perform (.amo 0 20 8 9 12 0 1)) 20 = 7 ∧ (perform (.amo 0 20 8 9 12 0 1)).conts.length = 1
      ∧ s.outboundFull (sliceNo (hbm 0x2000)) = false
      ∧ { s with conts := List.replicate 64 ⟨.tspawn 0, 0, s.iss.org, some (sliceNo (hbm 0x2000)), (13, 0)⟩ }.outboundFull (sliceNo (hbm 0x2000)) = true
      ∧ (perform (.cas 0 20 8 10 9 1)).num (hbm 0x2000) 8 = 5 ∧ (perform (.cas 0 20 8 9 10 1)).num (hbm 0x2000) 8 = 7
      ∧ (perform (.casc 0 20 8 10 9 12 1)).conts.length = 1 ∧ (perform (.casc 0 20 8 9 9 12 1)).conts.length = 0
      ∧ (perform (.amoct 0 20 8 9 11 12 0 0 1)).conts.length = 1 ∧ (perform (.amoct 0 20 8 9 10 12 0 0 1)).conts.length = 0 := by decide +kernel

/-- FredPerformed: 1.0 + 2.0 in FP32, and in BF16 with its shadow. -/
theorem test_fred :
    let s := ((at0 [(8, 0x2000), (9, 0x3F800000), (10, 0x3F800001)]).put (hbm 0x2000) [0, 0, 0, 0x40]).put (hbm 0x2010) [0x80, 0x3F]
    let t := run (.fredApply 0) (run (.fred 0 8 9 0 0 0) s)
    let u := run (.fredApply 0) (run (.fred 0 8 10 0 0 2) { s with iss := { s.iss with src := { s.iss.src with regs := s.iss.src.regs.setS 8 0x2010 } } })
    ((run (.fred 0 8 9 0 0 0) s).readyReq 0 true).isSome = true ∧ (run (.fred 0 8 9 0 0 0) s).reqs.map (·.w) = [4] ∧ t.num (hbm 0x2000) 4 = 0x40400000
      ∧ u.num (hbm 0x2010) 2 = 0x4000 ∧ u.shadows.map (fun x => (x.key, x.fmt)) = [(hbm 0x2010, 2)] := by decide +kernel

/-! Witnesses: sends, phases, fences. -/

/-- A region of class 3, the host's memory, flat, RD and WR. -/
def withHost (s : State) : State :=
  (s.modCtx 0 fun x => { x with map := { x.map with
    regions := x.map.regions.set 1 (BitVec.ofNat 128 (2048 * 2 ^ 84 + 3 * 2 ^ 73 + 2 ^ 71 + 2 ^ 69 + 2 ^ 68)) } }).enter 0 0

/-- Sends: TSPAWN, TARM, TDEC and PUBLISH are held; a refused word, a misaligned address, one out of map and one of another class fault. -/
theorem test_sends :
    let s := withHost (at0 [(8, 0x1000), (9, 0x0010000000001000), (10, 0x100000008), (11, 0x100000004), (12, 0x0050000000001000), (13, 0x200000000)])
    ((run (.tspawn 0 8) s).core 0).held = [.tspawn 0x1000] ∧ ((run (.tarm 0 8 9) s).core 0).held = [.tarm 0x1000 0x0010000000001000]
      ∧ contBad (s.rd 9) = none ∧ contKind (s.rd 9) = 1 ∧ ((run (.tdec 0 9 8) s).core 0).held = [.tdec 0x0010000000001000 0x1000]
      ∧ contKind (s.rd 8) = 0 ∧ ((run (.tdec 0 8 8) s).core 0).held = []
      ∧ ((s.translate 0 0x100000008 .write).toOption.map (·.cls)) = some 3 ∧ ((run (.publish 0 10 8) s).core 0).held = [.publish 0x100000008 0x1000]
      ∧ contBad (s.rd 12) = some 0 ∧ (run (.tdec 0 12 8) s).iss.st = .faulted ∧ (run (.publish 0 11 8) s).iss.st = .faulted
      ∧ err (s.translate 0 0x200000000 .write) = some 1 ∧ (run (.publish 0 13 8) s).iss.st = .faulted
      ∧ ((s.translate 0 0x1000 .write).toOption.map (·.cls)) = some 0 ∧ (run (.publish 0 8 8) s).iss.st = .faulted := by decide +kernel

/-- PhaseEnds: held while a value is on its way; else the gate is released, buffers 1 of the consumed set are free, 0 of the refetch set are
recorded; a task asked to yield saves. -/
theorem test_phase_ends :
    let s := ((at0 [(6, 0x1000), (7, 0x20001)]).modCore 0 fun k => { k with bufs := [(0, ⟨1, []⟩), (1, ⟨2, []⟩)], latches := [(3, ⟨true, []⟩)] }).enter 0 0
    let busy := run (.ld 0 5 6 6 0 0) s
    let gated := run (.st 0 7 6 6 0 0) s
    let t := run (.freeze 0 7 3) gated
    let y := run (.freeze 0 7 3) (s.modCore 0 fun k => { k with yieldReq := some ⟨0, some (0, 0)⟩ })
    busy.canFreeze 0 = false ∧ ((run (.freeze 0 7 3) busy).core 0).hold = .freezing 0x20001 3 ∧ ((run (.tdone 0 7) busy).core 0).hold = .ending 0x20001
      ∧ gated.canFreeze 0 = true ∧ (t.core 0).releasing.length = 1 ∧ (t.core 0).gate = [] ∧ (t.core 0).shadow.refetch = [(0, ⟨1, []⟩)]
      ∧ (t.core 0).bufs = [(0, ⟨1, []⟩)] ∧ (t.core 0).shadow.pc = 32 ∧ (t.core 0).hold = .none ∧ ((t.core 0).latches.get 3 ⟨false, []⟩).landed = false
      ∧ (y.core 0).hold = .saving ∧ ((run (.tdone 0 7) gated).core 0).hold = .retiring 0x20001 := by decide +kernel

/-- Fences, GangBarrier and BankSwap: each clause has its state. -/
theorem test_fences_and_swaps :
    let s := at0 []
    let hold (h : Hold) : State := s.modCore 0 fun k => { k with hold := h }
    let gang (h : Hold) : State := [0, 1, 2, 3].foldl (fun (u : State) c => u.modCore c fun k =>
      { k with task := some { fetchTask with gang := true, member := c }, hold := if c = 0 then .none else h }) s
    let group (w : Word) : State := (s.modCore 0 fun k => { k with csrs := { k.csrs with swgroup := w } }).enter 0 0
    let fails : State := (s.modCore 0 fun k => { k with shadowSt := .failed }).enter 0 0
    ((run (.fence 0) s).core 0).fences.length = 1 ∧ ((run (.xfence 0 1 2 4) s).core 0).fences.map (·.system) = [true]
      ∧ ((run (.xfence 0 0 2 4) s).core 0).fences = []
      ∧ (run (.gsync 0) s).iss.st = .ok ∧ (gang .none).barrierMet ((gang .none).coresOf 1) = false ∧ (run (.gsync 0) (gang .none)).iss.st = .held
      ∧ (run (.gsync 0) (gang .gsync)).iss.st = .held ∧ ((run (.gsync 0) (gang .gsync)).core 3).hold = .synced
      ∧ ((run (.gsync 0) ((gang .gsync).modCore 0 fun k => { k with hold := .synced })).core 0).hold = .none
      ∧ ((run (.tswap 0 0) s).core 0).active = 1 ∧ ((run (.tswap 0 0) s).core 0).hold = .swapped ∧ (run (.tswap 0 0) s).iss.st = .held
      ∧ ((run (.tswap 0 0) (hold .swapped)).core 0).hold = .none ∧ (run (.tswap 0 5) s).iss.st = .faulted ∧ (run (.tswap 0 0) fails).iss.st = .faulted
      ∧ (run (.tswap 0 5) (group 0x20005)).hub.swmsgs = [⟨0, 0, 5, 2, false, false⟩] ∧ ((run (.tswap 0 5) (group 0x20005)).core 0).hold = .swap 5 := by decide +kernel

/-! Witnesses: control and status registers, and exceptions. -/

/-- CsrInstructions: LFSRSEED and RIMETOL take their fields only; a register at the hub is asked for. -/
theorem test_csrs :
    let s := at0 [(1, 0xFFFFFFFFFFFFFFFF), (2, 0x0F)]
    let w (i : Instr) (n : Nat) : Word := (run i s).csrGet 0 n
    csrMask 0x033 = some 0x1F ∧ csrWaits (s.core 0) 0x033 true = false ∧ w (.csrw 0 5 1 0x033) 0x033 = 0x1F ∧ w (.csrs 0 5 2 0x033) 0x033 = 0x0F
      ∧ w (.csrs 0 5 0 0x033) 0x033 = 0 ∧ ((run (.csrc 0 5 2 0x033) (run (.csrw 0 5 1 0x033) s)).csrGet 0 0x033) = 0x10
      ∧ sreg (run (.csrr 0 5 0x033) (run (.csrw 0 5 1 0x033) s)) 5 = 0x1F ∧ w (.csrw 0 5 1 0x060) 0x060 = 0xFFFFFFFF
      ∧ (s.core 0).ctxid = 0 ∧ hubHeld 0x000 = false ∧ sreg (run (.csrr 0 5 0x000) s) 5 = 0x100000
      ∧ hubHeld 0x072 = true ∧ (run (.csrr 0 5 0x072) s).hub.hubcsr.length = 1 := by decide +kernel

/-- CsrPrivilege: in context 3 a privileged register, an unlisted one, one that takes no write, and RIMEINJ without the permission fault; in
context 0 the privileged register is read. -/
theorem test_csr_privilege :
    let s := ((at0 [(1, 1)]).modCore 0 fun k => { k with ctxid := 3 }).enter 0 0
    (s.core 0).ctxid = 3 ∧ (run (.csrr 0 5 0x880) s).iss.st = .faulted ∧ listed 0x7FF = false ∧ (run (.csrr 0 5 0x7FF) s).iss.st = .faulted
      ∧ listed 0x001 = true ∧ writable 0x001 = false ∧ (run (.csrw 0 5 0 0x001) s).iss.st = .faulted ∧ (run (.csrs 0 5 0 0x001) s).iss.st = .ok
      ∧ (run (.csrs 0 5 1 0x001) s).iss.st = .faulted ∧ (s.ctx 3).test = false ∧ (run (.csrw 0 5 1 0x034) s).iss.st = .faulted
      ∧ sreg (run (.csrr 0 5 0x880) (at0 [])) 5 = 1000 := by decide +kernel

/-- TaskCancelled and TrapTaken: the record of the task at 0x100000 has one successor; its STATE becomes 5 and CANCEL is set; the trap of the
example of R419 (trap code 0x123, SEQ 41, ARGIX 2) sends the trap word 0x0000_1230_0000_0029. -/
theorem test_task_cancelled :
    let s := ((at0 [(9, 0x55)]).modCore 0 fun k => { k with task := some { fetchTask with succs := [0x0010000000001000, 0] } }).modCtx 0 fun x =>
      { x with traprec := 0x0000000000002021, ring := { x.ring with base := 0x800, size := 4, seqctr := 41 } }
    let t := run (.trap 0 9 0x123) s
    s.coresOf 1 = [0] ∧ s.recKey 0 0x100000 = some (hbm 0x100000) ∧ contBad 0x0010000000001000 = none ∧ contBad 0 = none
      ∧ Memory.read t.mem (hbm 0x10000C) = 5 ∧ Memory.read t.mem (hbm 0x10001B) = 1 ∧ t.cancels.map (·.send) = [.tdec 0x0010000000001000 0]
      ∧ (t.core 0).task = none ∧ t.iss.st = .faulted ∧ t.conts.map (·.send) = [.tdec 0x0122000000002000 0x0000123000000029]
      ∧ t.num (hbm 0x20028) 8 = 0x55 := by decide +kernel

/-- RecordInRing: the ring of four records at 0x20000 is empty; the first record is written there, HEAD rises to 1, vector 2 is signalled. -/
theorem test_record_in_ring :
    let s := (at0 []).modCtx 0 fun x => { x with ring := { x.ring with base := 0x800, size := 4 } }
    let g := (s.ctx 0).ring
    let t := s.post (mkRec 7 2 (locCore 0 0 0xFF) (leBytes 8 0x55) none (some s.iss.org))
    (mkRec 7 2 (locCore 0 0 0xFF) (leBytes 8 0x55) none (some s.iss.org)).ctx = some 0 ∧ g.size ≠ 0 ∧ g.bad = false ∧ (s.ctx 0).kill ≠ .complete
      ∧ (g.head + 2 ^ 32 - g.tail) % 2 ^ 32 ≠ g.size ∧ ((s.translate 0 0x20000 .write).toOption.map (·.cls)) = some 0
      ∧ (t.ctx 0).ring.head = 1 ∧ (t.ctx 0).ring.seqctr = 1 ∧ t.hub.msix = 4 ∧ (t.mem.length ≠ 0) := by decide +kernel

/-- UndefinedTaken: a present C slot with opcode 0x30 is undefined when it issues. -/
theorem test_undefined_taken :
    let s := State.reset.withFetchWord 72 0x300000000000000001
    let f := (s.translate 0 0 .fetch).toOption.map fun t => (s.enter 0 0).fetchLine 0 t 0
    s.turn = .issue 0 ∧ (f.map fun p => (bundleOf p.1 0).extractLsb' 0 4) = some 1
      ∧ (f.map fun p => (err (decodeBundle (bundleOf p.1 0))).map fun e => (e.slot, e.reason)) = some (some (1, 1))
      ∧ (f.map fun p => p.2.blocked 0 (presentOf (slots (bundleOf p.1 0)))) = some false
      ∧ ((nx (step s)).core 0).task = none := by decide +kernel

/-- CachesAndEnergy and TokenExchange: caches are emptied in their scope; the die counter of EREAD; TOKX of 100 tokens to module 5, to which a
route leads; of two cores the first to come is served first. -/
theorem test_caches_energy_tokens :
    let s := ((at0 [(1, 0x1000), (2, 0x1008), (3, 0x1010)]).put (hbm 0x1000) [5, 0, 0, 0, 100]).put (hbm 0x1010) [5, 0, 0, 0, 0xA0, 0x19]
    let u := ((s.modCore 0 fun k => { k with icache := [(0, [])], srcache := [(0, [])] }).modCore 5 fun k => { k with icache := [(0, [])] }).enter 0 0
    let e := s.modHub fun h => { h with energy := { h.energy with dies := [(7, 42)], hub := 9 } }
    let s := s.modHub fun h => { h with routes := [(routeNo 0 5 0, [0])] }
    let wait := s.modHub fun h => { h with tokq := [4] }
    let low := s.modHub fun h => { h with floor := 5550 }
    let lost := s.modHub fun h => { h with lostMods := [5] }
    ((run (.icinv 0 0) u).core 0).icache = [] ∧ ((run (.icinv 0 0) u).core 5).icache = [(0, [])] ∧ ((run (.icinv 0 2) u).core 5).icache = []
      ∧ ((run (.srfence 0) u).core 0).srcache = [] ∧ (run (.eread 0 5 0x107) e).rets = [⟨0, [(5, 42)]⟩] ∧ (run (.eread 0 5 0x108) e).rets = [⟨0, [(5, 9)]⟩]
      ∧ (s.spanKeys 0 0 .g 0x1000 16 .read).toOption.isSome = true ∧ (run (.tokx 0 6 1) s).hub.balance = 5500
      ∧ (run (.tokx 0 6 1) s).mgmtOut = [(5, .grant 0 0 100)] ∧ (run (.tokx 0 6 2) s).rets = [⟨0, [(6, 4)]⟩] ∧ (run (.tokx 0 6 3) s).rets = [⟨0, [(6, 4)]⟩]
      ∧ (run (.tokx 0 6 1) low).rets = [⟨0, [(6, 1)]⟩] ∧ (run (.tokx 0 6 1) lost).rets = [⟨0, [(6, 2)]⟩]
      ∧ (run (.tokx 0 6 1) wait).iss.st = .held ∧ (run (.tokx 0 6 1) wait).hub.tokq = [4, 0] ∧ s.farNeeds (coreFar 0) ((List.range 16).map fun i => hbm (0x1000 + i)) = []
      ∧ (run (.tokx 0 6 1) ((s.modCore 0 fun k => { k with ctxid := 3 }).enter 0 0)).iss.st = .faulted := by decide +kernel

/-! Witnesses: table operations, in group 3. -/

/-- Group 3 of core 0 executes an entry; the given vector registers, all lanes enabled by q0, lane 0 alone by q1; base register b2 holds
0x100. -/
def vec (l : List (Nat × List Lane)) : State :=
  let s := (at0 [(9, 0x3000)]).modCore 0 fun k => { k with regs := { k.regs with
    v := l.foldl (fun (t : Tbl (List Lane)) p => t.set (3 * 64 + p.1) p.2) []
    q := [(3 * 8 + 1, 1)]
    b := [(3 * 8 + 2, 0x100)] } }
  let s := s.enter 0 0
  { s with iss := { s.iss with group := 3, bs := 0x3000 } }

/-- An entry of a type with destination v9, sources v1, v2, v3, all lanes. -/
def ent (ty : BitVec 3) (fn : BitVec 4) : Entry := ⟨0, ty, 9, 0, 0, 0, 1, 2, 3, 0, 0, 2, 0, 0, fn, 0, 0⟩

/-- Lane l of v9 of group 3 after an instruction. -/
def lane9 (i : Instr) (s : State) (l : Nat) : Lane := laneOf (((run i s).regs 0).getV 3 9) l

/-- FloatOperations: 1.5 and 2.0 with addend 0.25; the signed zero of a minimum; a NaN is taken as zero and counted under NANZ. -/
theorem test_float_operations :
    let s := vec [(1, [0x3FC00000, 0x80000000, 0x7FC00000]), (2, [0x40000000, 0, 0x40000000]), (3, [0x3E800000])]
    let z := { s with iss := { s.iss with src := { s.iss.src with fmts := [(0, BitVec.ofNat 128 (2 ^ 29))] } } }
    let r (i : Instr) : Lane := lane9 i s 0
    s.entriesFault [(3, 0x004, ent 0 0)] = none
      ∧ [r (.vadd (ent 0 0)), r (.vsub (ent 0 0)), r (.vmul (ent 0 0)), r (.vfma (ent 0 0)), r (.vfms (ent 0 0)), r (.vfnma (ent 0 0)), r (.vmin (ent 0 0)),
          r (.vmax (ent 0 0)), r (.vneg (ent 0 0)), r (.vabs (ent 0 0)), r (.vcpys (ent 0 0)), r (.vdiv (ent 0 0)), r (.vrndi (ent 0 0))]
        = [0x40600000, 0xBF000000, 0x40400000, 0x40500000, 0x40300000, 0xC0300000, 0x3FC00000, 0x40000000, 0xBFC00000, 0x3FC00000, 0x3FC00000, 0x3F400000, 0x40000000]
      ∧ lane9 (.vsqrt { ent 0 0 with sa := 2 }) (vec [(2, [0x40800000])]) 0 = 0x40000000 ∧ lane9 (.vrcp { ent 0 0 with sa := 2 }) s 0 = 0x3F000000
      ∧ lane9 (.vrsq { ent 0 0 with sa := 2 }) (vec [(2, [0x40800000])]) 0 = 0x3F000000
      ∧ lane9 (.vmin (ent 0 0)) s 1 = 0x80000000 ∧ lane9 (.vadd (ent 0 0)) s 2 = 0x7FC00000 ∧ lane9 (.vadd (ent 0 0)) z 2 = 0x40000000
      ∧ ((run (.vadd (ent 0 0)) z).core 0).csrs.nancnt = 1 := by decide +kernel

/-- FloatFunctions: VSCALE by 2^3, the class of a negative zero, VDOT2 of two BF16 pairs with an FP32 addend. -/
theorem test_float_functions :
    let s := vec [(1, [0x3FC00000, 0x80000000]), (2, [3]), (3, [0x3F800000])]
    let d := vec [(1, [0x40003F80]), (2, [0x3F804000]), (3, [0x3F800000])]
    s.entriesFault [(3, 0x017, ent 0 0)] = none ∧ s.entriesFault [(3, 0x010, { ent 0 0 with cls := 4 })] = none ∧ s.entriesFault [(3, 0x015, ent 0 0)] = none
      ∧ d.entriesFault [(3, 0x018, ent 1 0)] = none ∧ lane9 (.vscale (ent 0 0)) s 0 = 0x41400000 ∧ lane9 (.vdot2 (ent 1 0)) d 0 = 0x40A00000 := by decide +kernel

/-- The example of R235, VSAT and VIADD, and the other integer operations on s32: A = −2, B = 33 of which a shift takes 1, C = 5. -/
theorem test_integer_operations :
    let x := vec [(1, [0x7F800A05]), (2, [0x0101F80A])]
    let s := vec [(1, [0xFFFFFFFE]), (2, [33]), (3, [5])]
    let r (i : Instr) : Lane := lane9 i s 0
    x.entriesFault [(3, 0x113, ent 6 0)] = none ∧ lane9 (.vsat (ent 6 0)) x 0 = 0x7F81020F ∧ lane9 (.viadd (ent 6 0)) x 0 = 0x8081020F
      ∧ [r (.viadd (ent 3 0)), r (.visub (ent 3 0)), r (.vimul (ent 3 0)), r (.vimulh (ent 3 0)), r (.vimulh (ent 4 0)), r (.vimad (ent 3 0)), r (.vshl (ent 3 0)),
          r (.vshr (ent 3 0)), r (.vsra (ent 3 0)), r (.vimin (ent 3 0)), r (.vimin (ent 4 0)), r (.vimax (ent 3 0)), r (.viabs (ent 3 0))]
        = [31, 0xFFFFFFDD, 0xFFFFFFBE, 0xFFFFFFFF, 32, 0xFFFFFFC3, 0xFFFFFFFC, 0x7FFFFFFF, 0xFFFFFFFF, 0xFFFFFFFE, 33, 33, 2] := by decide +kernel

/-- LaneOperations: logic, fields, moves and packing; masks by VICMP, VCMPF and VQLOG, a write to q0 being discarded; a disabled lane keeps
its own. -/
theorem test_lane_operations :
    let s := vec [(1, [0x80FF00F0, 7]), (2, [0x0000070C, 1]), (9, [0, 0xAA])]
    let r (i : Instr) : Lane := lane9 i s 0
    let q (i : Instr) (n : Nat) : Lane := ((run i s).regs 0).getQ 3 n
    s.entriesFault [(3, 0x105, ent 3 0)] = none ∧ s.entriesFault [(3, 0x10D, { ent 3 4 with dest := 66 })] = none
      ∧ [r (.vand (ent 3 0)), r (.vor (ent 3 0)), r (.vxor (ent 3 0)), r (.vpopc (ent 3 0)), r (.vclz (ent 3 0)), r (.vbfx (ent 3 0)), r (.vbfx (ent 3 1)), r (.vmov (ent 3 0)),
          r (.vgrp (ent 3 0)), r (.vsel (ent 3 1)), lane9 (.vsel (ent 3 1)) s 1, lane9 (.vlane (ent 3 0)) s 1, r (.vpack (ent 3 0)), r (.vpack (ent 3 3)), r (.vunpk (ent 3 3)),
          r (.vunpk (ent 3 15)), r (.vqcnt { ent 3 0 with sa := 1 }), lane9 (.vmov { ent 3 0 with mask := 1 }) s 1]
        = [0, 0x80FF07FC, 0x80FF07FC, 13, 0, 0xF0, 0xFFFFFFF0, 0x80FF00F0, 0x80FF1614, 0x80FF00F0, 1, 8, 0x070C00F0, 0x00078000, 0xFFFF80FF, 0xFFFFFF80, 1, 0xAA]
      ∧ q (.vicmp { ent 3 4 with dest := 66 }) 2 = 0xFFFFFFFF &&& 0 ∧ q (.vicmp { ent 3 2 with dest := 66 }) 2 = 1
      ∧ q (.vqlog { ent 3 8 with dest := 65, sa := 0, sb := 1 }) 1 = 1 ∧ q (.vqlog { ent 3 0 with dest := 64, sa := 0, sb := 1 }) 0 = 0xFFFFFFFF
      ∧ q (.vcmpf { ent 0 2 with dest := 66 }) 2 = 1 := by decide +kernel

/-- Reductions: the example of R243, in which the tree and the scan round each step; integer maxima; disabled lanes hold the identity. -/
theorem test_reductions :
    let s := vec [(1, [0x4B800000, 0x3F800000, 0x3F800000])]
    let u := vec [(1, [5, 0xFFFFFFFF, 9])]
    s.entriesFault [(3, 0x283, ent 0 0)] = none ∧ lane9 (.vrsum (ent 0 0)) s 31 = 0x4B800000 ∧ lane9 (.vscan (ent 0 0)) s 2 = 0x4B800000
      ∧ lane9 (.vrmax (ent 0 0)) s 7 = 0x4B800000 ∧ lane9 (.vrmin (ent 0 0)) s 7 = 0 ∧ lane9 (.vrsum (ent 3 0)) u 0 = 13 ∧ lane9 (.vscan (ent 3 0)) u 1 = 4
      ∧ lane9 (.vrmax (ent 3 0)) u 0 = 9 ∧ lane9 (.vrmax (ent 4 0)) u 0 = 0xFFFFFFFF ∧ lane9 (.vrmin (ent 3 0)) u 0 = 0xFFFFFFFF
      ∧ lane9 (.vrmin { ent 3 0 with mask := 1 }) u 0 = 5 := by decide +kernel

/-- Conversions: the example of R244 with SAT48 0; the example of R110, a stochastic rounding by the generator; the example of R246, VMXQ and
VMXD of 3.0; a sample that matches and one that does not. -/
theorem test_conversions :
    let s := vec [(1, [0x3F800000]), (2, [0x3F000000])]
    let t := vec [(1, [0x43E00000]), (2, [0x43FA0000]), (9, [0x00003038])]
    let g := vec [(1, [0x3F808000]), (2, [0])]
    let g : State := { g with iss := { g.iss with src := { g.iss.src with lfsr := [(3, [1])] } } }
    let m := vec [(1, [0x40400000])]
    let d := vec [(1, [0x00008006])]
    s.entriesFault [(3, 0x300, ent 0 8)] = none ∧ lane9 (.vcvt (ent 0 8)) s 0 = 0x3038 ∧ t.entriesFault [(3, 0x300, { ent 0 8 with imm := 0x10 })] = none
      ∧ m.entriesFault [(3, 0x303, ent 0 2)] = none ∧ lane9 (.vmxq (ent 0 2)) m 0 = 0x8006 ∧ d.entriesFault [(3, 0x304, ent 0 2)] = none
      ∧ lane9 (.vmxd (ent 0 2)) d 0 = 0x40400000 ∧ g.entriesFault [(3, 0x300, { ent 0 2 with imm := 1 })] = none
      ∧ m.entriesFault [(3, 0x306, { ent 0 0 with imm := 0 })] = none ∧ lane9 (.vsamp (ent 0 0)) m 0 = 1 ∧ lane9 (.vsamp (ent 0 0)) m 1 = 0
      ∧ (run (.vsamp (ent 0 0)) m).iss.samp = [(3, 1)] ∧ ((run (.vsamp (ent 0 0)) m).core 0).csrs.sampcnt = 1
      ∧ (run (.vsamp { ent 0 0 with sa := 3 }) m).iss.samp = [] := by decide +kernel

/-- VectorMemory: the loads and stores of group 3 in its bank of the C space, and a store of lane 0 alone; the address of the example of R237. -/
theorem test_vector_memory :
    let s := withC (vec [(1, [0x11, 0x22])]) 0xC0140 [1, 0, 0, 0, 2]
    let s : State := s.enter 0 0
    let s : State := { s with iss := { s.iss with group := 3, bs := 0x3000 } }
    let ld : Entry := { ent 3 0 with cls := 3, bank := 3, offset := 0x40, sa := 0 }
    let st : Entry := { ld with cls := 7, sa := 1, mask := 1 }
    s.entriesFault [(3, 0x200, ld)] = none ∧ s.placeOf 0x200 ld 3 1 = .chip .c (cKey 0 0xC0144) 0xC0144 ∧ lane9 (.vld ld) s 0 = 1 ∧ lane9 (.vld ld) s 1 = 2
      ∧ s.loadHurt 0 (s.placeKeys .read (.chip .c (cKey 0 0xC0140) 0xC0140)) = none
      ∧ s.entriesFault [(3, 0x201, st)] = none ∧ (run (.vst st) s).num (cKey 0 0xC0140) 8 = 0x200000011 ∧ s.lanesOn st = [0]
      ∧ (run (.vstg { st with offset := 0, sa := 77, sb := 1 }) s).mem = s.mem
      ∧ ((run (.vstg { st with offset := 0, sa := 77, sb := 1 }) s).core 0).gate.map (fun g => (g.va, g.bytes)) = [(0x3000, [0x11, 0, 0, 0])]
      ∧ s.entriesFault [(3, 0x205, { st with offset := 0, sa := 77, sb := 1 })] = none := by decide +kernel

/-- VectorMemory: what the loads, the stores and VSTT of the test above ask of a state; the lanes of VSTT stand in the row. VRIMEC: a tile of zeros
against an entry of zeros. -/
theorem test_vector_free :
    let s := vec [(1, [0x11, 0x22])]
    let ld : Entry := { ent 3 0 with cls := 3, bank := 3, offset := 0x40, sa := 0 }
    let st : Entry := { ld with cls := 7, sa := 1 }
    let tt : Entry := { ent 0 0 with cls := 7, bank := 3, offset := 0x40, imm := 0x80 }
    let rc : Entry := { ent 0 0 with sa := 3, bank := 3, offset := 0x40, imm := 0x80 }
    let ks := (s.lanesOn ld).flatMap fun l => s.placeKeys .read (s.placeOf 0x200 ld 3 l)
    let kt := (List.range 128).map fun i => cKey 0 ((s.tileOff tt 3).toNat + i)
    s.farNeeds (coreFar 0) ks = [] ∧ s.behindParked ks = false ∧ s.anyLocked 0 ks = false ∧ s.loadHurt 0 ks = none ∧ (∀ k ∈ ks, s.unformed (k / 256) = none)
      ∧ s.copyOutReads 0 ks = false ∧ s.entriesFault [(3, 0x201, st)] = none ∧ s.entriesFault [(3, 0x202, ld)] = none ∧ s.entriesFault [(3, 0x203, st)] = none
      ∧ s.entriesFault [(3, 0x208, tt)] = none ∧ s.copyOutReads 0 kt = false ∧ s.anyLocked 0 kt = false ∧ s.anyLocked 0 [cKey 0 0] = false
      ∧ (run (.vstt tt) s).num (cKey 0 (s.tileOff tt 3).toNat) 8 = 0x2200000011
      ∧ s.entriesFault [(3, 0x305, rc)] = none ∧ s.poison = [] ∧ lane9 (.vrimec rc) s 0 = 0 := by decide +kernel

/-- VectorRequests: a VAMO of one lane leaves one pending result and one request; it lands when its lane is there. -/
theorem test_vector_requests :
    let s := (vec [(1, [0]), (2, [5])]).put (hbm 0x3000) [7]
    let e : Entry := { ent 3 0 with cls := 6, mask := 1 }
    let t := run (.vamo e) s
    let u := run (.atomicAtHomeSlice 0) t
    s.entriesFault [(3, 0x206, e)] = none ∧ s.entriesFault [(3, 0x204, e)] = none ∧ (t.core 0).vpend.length = 1 ∧ t.reqs.map (·.b) = [5]
      ∧ (run (.tableAccessComplete 0) t).reqs = t.reqs ∧ laneOf (((run (.tableAccessComplete 0) t).regs 0).getV 3 9) 0 = 0
      ∧ u.num (hbm 0x3000) 4 = 12 ∧ laneOf (((run (.tableAccessComplete 0) u).regs 0).getV 3 9) 0 = 7 ∧ ((run (.tableAccessComplete 0) u).core 0).vpend = []
      ∧ laneOf (((run (.tableAccessComplete 0) (run (.vldg e) s)).regs 0).getV 3 9) 0 = 7 := by decide +kernel

/-- IndexedEntries: index 0x40 holds VIADD in group 3 and, in group 5, an entry that reads an empty latch, which is the bundle's fault. -/
theorem test_indexed_entries :
    let w : Quad := (encodeTable (.viadd { ent 3 0 with sb := 72 })).getD 0
    let bank (l : Tbl Quad) : State := ((vec [(1, [4])]).modCore 0 fun k => { k with banks := [⟨l, [], 0⟩, Bank.clear] }).enter 0 0
    let s := bank [(3 * 1024 + 0x40, w)]
    let f := bank [(3 * 1024 + 0x40, w), (5 * 1024 + 0x40, (encodeTable (.viadd { ent 3 0 with sa := 65 })).getD 0)]
    let u (s : State) : State := s.broadcast 0x40 9 0 0 0
    let bad (s : State) : Option FaultInfo := (u s).entriesFault ((u s).entries.filterMap fun p => (tableOp p.2).map fun x => (p.1, x.1, x.2))
    s.guard 0 = true ∧ (u s).entries.map (·.1) = [0, 1, 2, 3, 4, 5, 6, 7, 8, 9, 10, 11, 12, 13, 14, 15] ∧ bad s = none ∧ (bad f).isSome = true
      ∧ lane9 (.vix 0 0x40 9 0 0 0) s 0 = 0x3004 ∧ (run (.vix 0 0x40 9 0 0 0) f).iss.st = .faulted := by decide +kernel

/-! Witnesses: matrix and copy commands. -/

/-- A shape record of a tile of 32-bit words in the C space: the base, the extents of columns and rows, a row pitch of 128 bytes. -/
def tileRec (base cols rows : Nat) : List Byte :=
  leBytes 8 base ++ [8, 2, 0, 1] ++ leBytes 4 0 ++ leBytes 4 cols ++ leBytes 4 rows ++ List.replicate 16 0 ++ leBytes 8 4 ++ leBytes 8 128
    ++ List.replicate 24 0 ++ [32, 0, 32, 0, 1, 0, 0, 0] ++ List.replicate 104 0

/-- Instructions after one another, each issued in the state that the one before leaves. -/
def go (s : State) (l : List Instr) : State := l.foldl (fun s i => (run i s).enter 0 0) s

/-- A core with the format entry of BF16 pairs (GANG 3) and of FP32 drains, no checks at entry or drain, and the array's lease. -/
def arr (l : Tbl Word) : State :=
  let s := (at0 l).modCore 0 fun k =>
    { k with fmts := [(0, BitVec.ofNat 128 (2 + 2 * 2 ^ 8 + 3 * 2 ^ 24))], csrs := { k.csrs with rimectl := 3 } }
  (s.modCluster 0 fun k => { k with
    lease := ⟨some 0, 2, 8192, 3⟩,
    slots := (List.range 16).map fun n => (n, { OSlot.clear with fmt := 2, krows := decide (8 ≤ n), owner := .core 0, data := (if n = 0 then [0x3F80, 0x4000] else if n = 8 then [0x4000] else []) }) }).enter 0 0

/-- Leases: the holder's count, a request, a release; the grant goes to the asking core of highest priority, the expired lease ends. -/
theorem test_leases :
    let s := arr []
    let free := (at0 []).modCore 2 fun k => { k with leaseReq := 3 }
    let due := (arr []).modCluster 0 fun k => { k with lease := ⟨some 0, 1, 0, 3⟩ }
    let wait : MCmd := ⟨.msamp ⟨0, 0, 1, 0, 0, 0, 0⟩, [], 0, [], 0, 0, [], 65536, false, true, 0, s.iss.org⟩
    (s.cluster 0).lease.holder = some (memberOf 0) ∧ ((run (.mlease 0 3) s).cluster 0).lease.count = 4 ∧ ((run (.mlease 0 3) (at0 [])).core 0).leaseReq = 4
      ∧ ((run (.mrels 0) s).cluster 0).lease = ⟨none, 0, 0, 0⟩ ∧ ((run (.mrels 0) (at0 [])).core 0).leaseReq = 0
      ∧ ((run (.leaseGrant 0) free).cluster 0).lease = ⟨some 2, 3, 8192, 3⟩ ∧ ((run (.leaseGrant 0) free).core 2).grants = 1
      ∧ (run (.leaseGrant 0) s).clusters = s.clusters ∧ ((run (.leaseExpiry 0) due).cluster 0).lease.holder = some 0
      ∧ ((run (.leaseExpiry 0) (due.modCore 2 fun k => { k with leaseReq := 1 })).cluster 0).lease = ⟨none, 0, 0, 0⟩
      ∧ ((run (.msampWaitExpiry 0) (s.modCore 0 fun k => { k with arrayq := [wait] })).core 0).arrayq.map (·.fetched) = [1]
      ∧ ((run (.msampWaitExpiry 0) (s.modCore 0 fun k => { k with arrayq := [{ wait with waited := 65535 }] })).core 0).arrayq.map (·.fetched) = [0] := by decide +kernel

/-- MatrixCommands: each is queued. -/
theorem test_matrix_commands :
    let s := arr [(1, 0x1000), (2, 0x10000)]
    let slot (i : Instr) : Bool := ((run i s).core 0).slotq.map (·.instr) == [i]
    let array (i : Instr) : Bool := ((run i s).core 0).arrayq.map (·.instr) == [i]
    let mlds : MLdsF := ⟨0, 0, 1, 2, 0, 2, 2, 0, 0, 0⟩
    let mma : MmaF := ⟨0, 2, 0, 8, 0, 0, 0, 0, 0⟩
    32 * cBytes 2 ≤ 64 ∧ s.slotMine 0 15 = true ∧ s.fmtSuits 0 (s.iss.src.fmts.get 0 0) true = true ∧ slot (.mclaim 0 5 511) = true ∧ slot (.mfree 0) = true
      ∧ slot (.mtran 0 15 0) = true ∧ slot (.mlds mlds) = true ∧ slot (.msts 0 15 1 2 0 2) = true ∧ array (.mzero 0 7) = true
      ∧ array (.msamp ⟨0, 1, 1, 31, 5, 0, 0⟩) = true ∧ array (.mdrain ⟨0, 2, 1, 2, 0, ⟨7, 7, 0, 0⟩, 4, 0, 0⟩) = true
      ∧ array (.maccld ⟨0, 2, 1, 2, ⟨7, 7, 0, 0⟩, 4⟩) = true ∧ array (.mma mma) = true ∧ ((run (.mma mma) s).cluster 0).lease.count = 1 := by decide +kernel

/-- The array's core with records in its C space of blocks of one element each: for MMAH at 0x1000 and 0x1100, for MDRAINH at 0x1200, in G. -/
def memArr : State :=
  let c := 0x8000000000000000
  let a := (((tileRec 0x2000 1 1).set 8 2).set 0x50 0).set 0x51 1
  let b := (((tileRec 0x3000 1 1).set 8 2).set 0x52 0).set 0x53 1
  let h := ((tileRec 0x4000 1 1).set 8 0).set 11 0
  (withC (withC (withC (withC (arr [(20, c + 0x1000), (21, c + 0x1200), (22, c + 0x1100)]) 0x1000 a) 0x1100 b) 0x1200 h) 0x2000 [0x80, 0x3F]).enter 0 0

/-- MatrixCommands: MMAH is queued. -/
theorem test_mmah :
    let s := memArr
    let f : MmahF := ⟨0, 2, 20, 0, 22, 0, 0, 0, 0, 0, 0⟩
    let e := s.iss.src.fmts.get 0 0
    let r := s.goodRec 3 9 (s.rd 20)
    let a := Shape.parse ((r.toOption.map (·.1)).getD [])
    s.fmtSuits 0 e true = true ∧ (fmtA e, fmtB e) = (2, 2) ∧ (a.trows, a.tcols, a.fmt, a.idxfmt, a.clip) = (256, 32, 2, 0, 0)
      ∧ s.carriedOk 0 a = true ∧ (s.core 0).early = none ∧ ((run (.mmah f) s).core 0).arrayq.map (·.instr) = [.mmah f] := by decide +kernel

/-- ArrayChunks: MMAH at the head of its queue fetches its first chunk; the keys that it reads are of the C space. -/
def fetchCmd : MCmd :=
  let r (off : Nat) : List Byte := (List.range 192).map fun n => Memory.read memArr.mem (cKey 0 (off + n))
  ⟨.mmah ⟨0, 2, 20, 0, 22, 0, 0, 0, 0, 0, 0⟩, [0, 0, 0, 0], memArr.iss.src.fmts.get 0 0, [r 0x1000, r 0x1100, []], 0, 0, [], 0, false, true, 0, memArr.iss.org⟩

/-- The keys of the chunk. -/
theorem test_fetch :
    let s := memArr.modCore 0 fun k => { k with arrayq := [fetchCmd] }
    let keys := s.blockKeys (fetchCmd.blockA 0).asRead .read ++ s.blockKeys (fetchCmd.blockB 0).asRead .read
    (s.core 0).fetching = some fetchCmd ∧ s.matAhead 0 fetchCmd.seq keys = false ∧ (s.core 0).noEntry = true ∧ s.poison = []
      ∧ keys.all (fun k => keySpace k == 3) = true := by decide +kernel

/-- PlaneCommands: MDRAINH is queued, and its writes are performed. -/
theorem test_mdrainh :
    let s := memArr
    let d : MDrainhF := ⟨0, 2, 21, 0, 0, ⟨0, 0, 0, 0⟩, 0, 0⟩
    let p := run (.mdrainh d) s
    let w := run (.planeCommandComplete 0) p
    let x := (w.core 0).drains
    (p.core 0).arrayq.map (·.instr) = [.mdrainh d] ∧ x.map (·.sent) = [false]
      ∧ x.map (fun y => (w.readsAhead 0 y.cmd.seq (w.blockKeys y.cmd.blockH .write) || w.behindParked (w.blockKeys y.cmd.blockH .write), w.hostCut y.cmd.blockH, w.farOut y.cmd.farName 4)) = [(false, false, false)]
      ∧ x.all (fun y => (w.blockKeys y.cmd.blockH .write).all fun k => keySpace k != 8) = true
      ∧ ((run (.mdrainhWritesPerformed 0) w).core 0).drains = [] := by decide +kernel

/-- SlotCommands: MCLAIM takes the lowest free run, or answers all ones where the core holds a claim; MFREE frees it; MTRAN transposes a slot;
MLDS and MSTS are ready to be performed. -/
theorem test_slot_commands :
    let s := arr [(1, 0), (2, 0x10000), (3, 0x2000), (4, 0x11000)]
    let all := go s [.mclaim 0 5 3, .slotCommandComplete 0]
    let tr := go s [.mtran 0 2 0, .slotCommandComplete 0]
    let ready (i : Instr) : Bool := let t := run i s
      ((t.core 0).slotq.map fun m => (m.instr == i) && t.slotReady 0 m && !m.inj) == [true]
    (all.core 0).claim = some (16, 4) ∧ sreg all 5 = 16 ∧ (all.slot 0 19).owner = .core 0 ∧ (all.slot 0 20).owner = .free
      ∧ sreg (go all [.mclaim 0 5 3, .slotCommandComplete 0]) 5 = 0xFFFFFFFFFFFFFFFF
      ∧ ((go all [.mfree 0, .slotCommandComplete 0]).core 0).claim = none ∧ ((go all [.mfree 0, .slotCommandComplete 0]).slot 0 19).owner = .free
      ∧ (tr.slot 0 2).elem 1 0 = 0x4000 ∧ (tr.slot 0 2).elem 0 1 = 0 ∧ (tr.slot 0 2).krows = true ∧ (tr.core 0).slotq = []
      ∧ ready (.mlds ⟨0, 1, 1, 2, 0, 2, 2, 0, 0, 0⟩) = true ∧ ready (.msts 0 1 3 4 0 2) = true ∧ s.poison = [] ∧ (s.core 0).noEntry = true
      ∧ (s.slot 0 1).poison = [] ∧ isMx (s.slot 0 1).fmt = false := by decide +kernel

/-- ArrayChunks: a chunk is due; slots of another format refuse the command; a chunk waits without the lease; the example of R115, four
products 0.5 added to 2^24 with one rounding; a command whose chunks are done leaves the queue. -/
theorem test_array_chunks :
    let s := go (arr []) [.mma ⟨0, 2, 0, 8, 0, 0, 0, 0, 0⟩]
    let m := (s.core 0).arrayq.headD ⟨.mnop 0, [], 0, [], 0, 0, [], 0, false, false, 0, s.iss.org⟩
    let other := s.modCluster 0 fun k => { k with slots := k.slots.set 3 { OSlot.clear with fmt := 1, owner := .core 0 } }
    let done := s.modCore 0 fun k => { k with arrayq := [{ m with chunk := 1 }] }
    m.run = some (2, 1, 0, false) ∧ s.chunkReady 0 m = true ∧ s.chunkMay 0 m = true ∧ s.layoutOk 0 m = true ∧ m.inj = false ∧ other.layoutOk 0 m = false
      ∧ ((run (.kChunk 0) other).core 0).task = none ∧ (s.modCluster 0 fun k => { k with lease := ⟨some 1, 1, 8192, 3⟩ }).chunkMay 0 m = false
      ∧ (cellChunk 0 4 false false 0x4B800000 (List.replicate 4 (decodeF 3 0x38)) (List.replicate 4 (decodeF 3 0x30))).1 = 0x4B800001
      ∧ ((run (.planeCommandComplete 0) done).core 0).arrayq = [] ∧ ((run (.planeCommandComplete 0) s).core 0).arrayq = [m] := by decide +kernel

/-- PlaneCommands: MZERO clears its plane and leaves the queue; MACCLD and MDRAIN are at the head with nothing before them; a sample
whose chunk is due stays. -/
theorem test_plane_commands :
    let s := (arr [(1, 0), (2, 0x10000), (3, 0x2000), (4, 0x11000), (9, 77)]).modCore 0 fun k => { k with planes := [(2, { Plane.zero with ksteps := 9, unver := true })] }
    let s := s.enter 0 0
    let z := go s [.mzero 0 2, .planeCommandComplete 0]
    let head (i : Instr) : Bool := let t := run i s
      ((t.core 0).arrayq.map fun m => (m.instr == i) && !t.copyAhead 0 m.seq (cRangeKeys 0 m.cWrites)) == [true]
    let sample := go s [.msamp ⟨0, 1, 9, 0, 5, 0, 0⟩]
    s.poison = [] ∧ (s.core 0).noEntry = true ∧ (s.core 0).noDrain = true ∧ (s.plane 0 2).poison = [] ∧ z.plane 0 2 = Plane.zero ∧ (z.core 0).arrayq = []
      ∧ head (.mdrain ⟨0, 2, 3, 4, 0, ⟨0, 0, 0, 0⟩, 4, 0, 0⟩) = true ∧ head (.maccld ⟨0, 2, 1, 2, ⟨0, 0, 0, 0⟩, 4⟩) = true
      ∧ (sample.core 0).arrayq.map (·.chunk) = [0] ∧ ((run (.planeCommandComplete 0) sample).core 0).arrayq.length = 1 := by decide +kernel

/-- Core 0 with two records at offsets 0x1000 and 0x1100 of its C space, of tiles of 3 columns and 2 rows at 0x2000 and 0x4000, and two
words in the second. -/
def copying : State :=
  let c := 0x8000000000000000
  (withC (withC (withC (at0 [(20, c + 0x1000), (22, c + 0x1100), (12, 0x0010000000001000), (30, 0xABCD)]) 0x1000 (tileRec 0x2000 3 2)) 0x1100
    (tileRec 0x4000 3 2)) 0x4000 [7, 0, 0, 0, 9]).enter 0 0

/-- CopyCommands and CopyEvents: XCOPY moves the elements in extent, sends its continuation with VALID 6 and STATUS 1, for the block is not
whole; XFILL fills them; both leave the queue. -/
theorem test_copy :
    let s := copying
    let cp : XF := ⟨0, 20, 0, 22, 0, 12, 0, 0, 0⟩
    let q := run (.xcopy cp) s
    let t := run (.xCommandComplete 0 0) q
    let f := run (.xCommandComplete 0 0) (run (.xfill { cp with sr := 30, sc := 0 }) s)
    let x := (q.core 0).xq.headD (s.xcmd (.xcopy cp))
    contBad (s.rd 12) = none ∧ ((s.goodRec 4 1 (s.rd 20)).toOption.map (·.1)) = some (tileRec 0x2000 3 2)
      ∧ movable (Shape.parse (tileRec 0x2000 3 2)) (Shape.parse (tileRec 0x4000 3 2)) = true ∧ (q.core 0).xq.map (·.instr) = [.xcopy cp] ∧ q.mem = s.mem
      ∧ x.started = true ∧ x.stage = 0 ∧ x.refetch = false ∧ q.pathAhead 0 1 x.ord (q.xReads x ++ q.xWrites x) = false ∧ q.hostCut x.dst = false
      ∧ (x.dst.cells.filter fun p => (x.dst.at p.1 p.2).1).length = 6
      ∧ t.num (cKey 0 0x2000) 8 = 0x900000007 ∧ (t.core 0).xq = [] ∧ t.conts.map (·.send) = [.tdec 0x0010000000001000 0x0000000100000006]
      ∧ f.num (cKey 0 0x2088) 4 = 0xABCD ∧ f.num (cKey 0 0x208C) 4 = 0 := by decide +kernel

/-! Witnesses: the routing engine. -/

/-- The worked example of R300: experts picked by score, targets by the replica table, duplicates merged, the histogram, list 3, launches. -/
theorem test_route_example :
    let f (n : Nat) : FVal := decodeF 0 n
    let scores : List (List Nat) := [[0, 0x40000000, 0xBF800000, 0x3F800000], [0x3F800000, 0x40400000, 0, 0x40000000],
      [0x40A00000, 0, 0x40800000, 0xC0000000], [0, 0x3F800000, 0xC0400000, 0x3F000000]]
    let d : RouteDesc := ⟨0, 0x40, 0x100, 0, 0x1000, 0x800, 0x8000, 4, 1, 0xFF, 0, 0⟩
    let p : RouteIn := ⟨d, { Shape.parse [] with ext := [4, 4, 1, 1, 1] }, fun _ => FVal.zero, fun e => if e = 1 then [1, 3] else [e],
      fun t e => f ((scores.getD t []).getD e 0)⟩
    let a := p.run 2 0
    ((List.range 4).map fun e => a.sel.get e 0) = [1, 3, 1, 3] ∧ a.rows.flatMap (fun r => r.map RouteEnt.index) = [1, 3, 0x10003, 0xFFFF, 0, 2, 1, 3]
      ∧ histWords (fun _ => 0) false 4 a.cnt = [1, 2, 1, 3, 7, 0] ∧ (a.app.filter fun q => q.1 == 3) = [(3, 0, 1), (3, 1, 0), (3, 3, 1)]
      ∧ p.launches a = [(0x8000, 1), (0x8080, 0x100000002), (0x8100, 0x200000001), (0x8180, 0x300000003)] := by decide +kernel

/-- The engine of die 0 with a command of core 0 at its head, a record of two scores 0.5 and 1.0 at 0x2000, a descriptor of two targets at
0x1000 with its histogram at 0x3000, and expert 5 of the context in slot 1 with two references. -/
def engine (i : Instr) (f : XCmd → XCmd) : State :=
  let s := ((at0 []).put (hbm 0x2000) [0, 0, 0, 0x3F, 0, 0, 0x80, 0x3F]).put (hbm 0x1028) ([0, 0x30] ++ List.replicate 14 0 ++ [2, 0, 1, 0, 0xFF])
  let x := f { s.xcmd i with ord := 7, srec := ((tileRec 0x2000 2 1).set 8 0).set 11 0, dr := 0x1000 }
  (s.modCore 0 fun k => { k with xq := [x] }).modDie 0 fun d => { d with rq := [(0, 7)], hand := 62, experts := [(1, ⟨0, 5, 2, true, .resident⟩), (62, ⟨0, 6, 1, true, .resident⟩), (63, ⟨0, 7, 0, true, .resident⟩)] }

/-- The operands of the engine's commands. -/
def xf0 : XF := ⟨0, 0, 0, 0, 0, 0, 0, 0, 0⟩

/-- RoutingEngine: an acquisition of a resident expert and of one that is absent, whose slot the hand finds past two that are in use; a
release; a load in flight; a pass. -/
theorem test_routing_engine :
    let a (id : Nat) : State := engine (.xexpa xf0 0) fun x => { x with e1 := BitVec.ofNat 64 id }
    let r (id : Nat) : State := engine (.xexpr xf0 0) fun x => { x with e1 := BitVec.ofNat 64 id }
    let p := engine (.xroute xf0 0 0) id
    let x (s : State) : XCmd := (s.core 0).xq.headD (s.xcmd (.xnop 0))
    let t := run (.routePass 0) (a 9)
    let u := run (.routePass 0) p
    (a 5).rqNext 0 = some (0, 7) ∧ (r 5).rqNext 0 = some (0, 7) ∧ p.rqNext 0 = some (0, 7) ∧ slotNeed (x (a 5)).src.r ≤ (a 5).hub.slotsz ∧ (a 5).rqHead (0, 7) = some (x (a 5)) ∧ ((a 5).die 0).expertOf 0 5 = some (1, ⟨0, 5, 2, true, .resident⟩)
      ∧ (((run (.routePass 0) (a 5)).die 0).experts.get 1 Expert.empty).refs = 3 ∧ ((a 9).die 0).expertOf 0 9 = none
      ∧ (t.die 0).experts.get 0 Expert.empty = ⟨0, 9, 0, false, .loading⟩ ∧ (t.die 0).hand = 1 ∧ (x t).stage = 2
      ∧ ((t.die 0).experts.get 62 Expert.empty).use = false
      ∧ (x (run (.routePass 0) (r 5))).valid = 1 ∧ (x (run (.routePass 0) (r 9))).valid = 0xFFFFFFFF
      ∧ (x (engine (.xexpa xf0 0) fun x => { x with stage := 2 })).src.r.rime ≠ 2
      ∧ (p.startPass (x p) 1).toOption.isSome = true ∧ (x u).valid = 1 ∧ (u.die 0).counters.get 1 0 = 1 ∧ (u.die 0).passes = 1
      ∧ u.num (hbm 0x3004) 4 = 1 ∧ u.num (hbm 0x3008) 4 = 1 := by decide +kernel

/-- RoutingEngine: the 0x880 bytes that a snapshot writes are distinct and, word by word, where the map has them. -/
theorem test_snapshot :
    let s := engine (.xrsnap xf0 1) fun x => { x with dr := 0x4000 }
    let ks := List.range' (hbm 0x4000) 0x880
    (s.spanKeys 0 0 .g 0x4000 0x880 .write).toOption = some ks ∧ ks.Nodup ∧ ks.any s.cut = false ∧ s.rqHead (0, 7) = (s.core 0).xq.head? ∧ s.poison = []
      ∧ (List.range 0x220).all (fun n => match s.translate 0 (BitVec.ofNat 64 (0x4000 + 4 * n)) .write with
          | .ok a => !a.rc && a.key == hbm 0x4000 + 4 * n
          | .error _ => false) = true :=
  ⟨by decide +kernel, List.nodup_range', by decide +kernel, by decide +kernel, rfl, by decide +kernel⟩

/-! BAR 0 (R326, R327, R331). -/

/-- HUBID holds MODULE and GRADE, an access that is not 8 bytes wide reads zero, and an unmasked vector's message reaches the host once. -/
theorem test_bar0 :
    let s := State.reset.modHub fun h => { h with module := 5, msix := 2, msixTable := [(2, 0x2000), (3, 0x77)] }
    let s := { s with grade := 3 }
    let read (off : Nat) : List Byte := match s.bar0 off false (List.replicate 8 0) with | .next t => t.hub.pcieRead | _ => []
    let t := s.sendMsix 1
    read 8 = [3, 0, 0, 0, 0, 0, 5, 0] ∧ s.pendingBits = 0 ∧ t.num (hostKey 0x2000) 4 = 0x77 ∧ t.hub.msix = 0 ∧ (s.sendMsix 0).hub.msix = 2
      ∧ (match s.bar0 8 false [0, 0, 0, 0] with | .next t => t.hub.pcieRead | _ => []) = [0, 0, 0, 0] := by decide +kernel

/-! Witnesses: events between bundles. -/

/-- CoreEvents: two stores of a committed phase, performed in their order, a held TDEC and a copy-out; a save that waits. -/
theorem test_gate_release :
    let s := at0 []
    let st (b : Byte) : GateEnt := ⟨0x1008, ⟨0, 0, 0x1008, fetchRegion⟩, [b, 3], false, s.iss.org⟩
    let x : XCmd := { s.xcmd (.xcopy { xf0 with cout := 1 }) with cur := false }
    let r := s.modCore 0 fun k => { k with releasing := [st 1, st 2], sending := [.tdec 0x0110000000100000 9, .tdec 0 9], committing := true, xq := [x] }
    let t := run (.gateReleaseComplete 0) r
    r.canRelease 0 = true ∧ s.canSave 0 = true ∧ r.canSave 0 = false ∧ (r.core 0).releasing.all (fun e => decide (e.tgt.cls < 3) && !e.tgt.rc) = true
      ∧ t.num (hbm 0x1008) 2 = 0x302 ∧ t.conts.map (·.send) = [.tdec 0x0110000000100000 9] ∧ (t.core 0).xq.map (·.started) = [true]
      ∧ (t.core 0).committing = false ∧ s.recKey 0 0x100000 = some (hbm 0x100000) ∧ (s.core 0).task.map (·.gang) = some false := by decide +kernel

/-- CoreEvents: the arrivals of a group of two, with an abort before the second, and the tick of a swap. -/
theorem test_switch :
    let m (c : Nat) (a : Bool) : SwMsg := ⟨c, 0, 5, 2, a, false⟩
    let s := (at0 []).modHub fun h => { h with swmsgs := [m 0 false, m 3 false] }
    let t := run (.switchArrival 0) s
    let u := run (.switchArrival 0) t
    let a := (at0 []).modHub fun h => { h with swmsgs := [m 0 true] }
    let w := (at0 []).modCore 0 fun k => { k with hold := .swap 5, swapTick := some 0 }
    let v := run (.swapTick 0) w
    (t.hub.switch.get 5 ⟨0, 0, false, []⟩) = ⟨1, 2, false, [0]⟩ ∧ t.hub.swmsgs = [m 3 false] ∧ u.hub.switch.find 5 = none
      ∧ (u.core 0).swapTick = some 2 ∧ (u.core 3).swapTick = some 2 ∧ (u.core 1).swapTick = none
      ∧ ((run (.switchAbort 0) a).hub.switch.get 5 ⟨0, 0, false, []⟩) = ⟨1, 2, true, []⟩
      ∧ (v.core 0).active = 1 ∧ (v.core 0).swaps = 1 ∧ (v.core 0).hold = .swapped
      ∧ (run (.swapTick 0) (w.modCore 0 fun k => { k with swapTick := some 1 })).cores = (w.modCore 0 fun k => { k with swapTick := some 1 }).cores := by decide +kernel

/-- RegisterEvents: NANCNT set by ones and returned, the seeds and masks of R70, an error bank written by the core of member 0, the ring
registers of context 3 and the answer of the hub. -/
theorem test_register_events :
    let s := ((at0 []).modCore 0 fun k => { k with csrs := { k.csrs with nancnt := 5 } }).enter 0 0
    let t := run (.nancntAccess 2 9 0x1F00000010) s
    let test := s.modCtx 0 fun x => { x with test := true }
    let ring := s.modRing 3 fun r => { r with size := 8, head := 6, tail := 1, ovf := true }
    let bank := (run (.errorBankWrite 2 0x8000000500000007) s).hub.banks.get (((2 * 16 + 0) * 256 + 0) * 256 + 0xFF) ErrBank.empty
    let hub (op : Nat) (csr : Nat) (v : Word) : State := ring.modHub fun h => { h with hubcsr := [⟨0, csr, op, v, 9, 3⟩] }
    (s.core 0).vpend = [] ∧ (s.core 0).slotq = [] ∧ (s.core 0).arrayq = [] ∧ sreg t 9 = 5 ∧ (t.core 0).csrs.nancnt = 0x15
      ∧ laneOf (((run (.lfsrseedWrite 0) s).core 0).lfsr.get 0 []) 0 = BitVec.ofNat 32 (lfsrSeed 0 0 0)
      ∧ (s.ctx 0).test = false ∧ (run (.rimeinjWrite 1) s).iss.st = .faulted
      ∧ ((run (.rimeinjWrite 0xBFFFFFFFFFFFFFFF) test).core 0).csrs.rimeinj = 0x3FFFFFFFFFE00000
      ∧ ((run (.rimeinjWrite 0x9000000000200000) test).core 0).csrs.rimeinj = 0x9000000000200000
      ∧ ((run (.swgroupWrite 0xFFFFFFFF) s).core 0).csrs.swgroup = 0x03FF003F
      ∧ bank.valid = false ∧ bank.ueovf = 5 ∧ bank.cecnt = 7
      ∧ ((run (.errbaseWrite 3 0x1040) ring).ctx 3).ring = ⟨0x41, 8, 0, 0, 0, false, false, 0⟩ ∧ ((run (.errsizeWrite 3 4) ring).ctx 3).ring.size = 4
      ∧ ((run (.errsizeWrite 3 5) ring).ctx 3).ring.size = 8 ∧ ((run (.errsizeWrite 3 2) ring).ctx 3).ring.size = 8
      ∧ ((run (.errtailWrite 3 6) ring).ctx 3).ring.tail = 6 ∧ ((run (.errtailWrite 3 7) ring).ctx 3).ring.tail = 1
      ∧ ((run (.errflagsWrite 3 0x200000001) ring).ctx 3).ring.ovf = false ∧ ((run (.errflagsWrite 3 0x200000001) ring).ctx 3).ring.lost = 2
      ∧ sreg (run (.hubCsrAnswer 0) (hub 0 0x073 0)) 9 = 1 ∧ (run (.hubCsrAnswer 0) (hub 0 0x073 0)).hub.hubcsr = []
      ∧ ((run (.hubCsrAnswer 0) (hub 1 0x073 6)).ctx 3).ring.tail = 6 ∧ ((run (.hubCsrAnswer 0) (hub 1 0x8AF 0xFFF)).ctx 15).traprec = 0xFB1 := by decide +kernel

/-! Witnesses: memory and schedulers. -/

/-- A task record of context 0 at 0x100000 with a count, a state and flags. -/
def record (count state flags : Nat) : State :=
  (at0 []).put (hbm 0x100000) (leBytes 8 0x40 ++ leBytes 4 count ++ leBytes 1 state ++ [2] ++ List.replicate 13 0 ++ leBytes 1 flags ++ List.replicate 4 0
    ++ leBytes 8 0x11 ++ leBytes 8 0x22)

/-- MemoryEvents: a continuation writes its argument, lowers the count, makes a record ready; below zero it cancels its sender; TSPAWN, TARM
and a cancelled task's continuation. -/
theorem test_continuations :
    let w (kind n : Nat) : Word := BitVec.ofNat 64 (n * 2 ^ 56 + kind * 2 ^ 52 + 2 ^ 48 + 0x100000)
    let send (x : Send) (s : State) : State := run (.applyContinuation 0) { s with conts := [⟨x, 0, s.iss.org, none, (8, 0)⟩] }
    let b (s : State) (n : Nat) : Nat := s.num (hbm (0x100000 + n)) 1
    let s := record 3 0 0
    let two := send (.tdec (w 2 2) 7) s
    let ready := send (.tdec (w 2 3) 7) s
    let below := send (.tdec (w 1 4) 7) s
    let gone := run (.applyCancel 0) { s with cancels := [⟨.tdec (w 1 1) 7, 0, s.iss.org, none, (8, 0)⟩] }
    s.recKey 0 0x100000 = some (hbm 0x100000) ∧ contRecord (w 2 2) = 0x100000 ∧ contAmount (w 2 2) = 2 ∧ contArgix (w 2 2) = 1
      ∧ two.num (hbm 0x100028) 8 = 7 ∧ two.num (hbm 0x100008) 4 = 1 ∧ two.notices = [] ∧ b two 0x0C = 0
      ∧ ready.num (hbm 0x100008) 4 = 0 ∧ b ready 0x0C = 1 ∧ ready.notices.map (·.record) = [0x100000]
      ∧ b (send (.tdec (w 3 0) 7) s) 0x28 = 7 ∧ b below 0x1B = 1 ∧ (below.core 0).task = none ∧ below.num (hbm 0x100008) 4 = 3
      ∧ b (send (.tspawn 0x100000) (record 0 0 0)) 0x0C = 1 ∧ (send (.tspawn 0x100000) (record 0 1 0)).notices = []
      ∧ (send (.tarm 0x100000 9) (record 0 4 1)).num (hbm 0x100008) 4 = 9 ∧ b (send (.tarm 0x100000 9) (record 0 4 1)) 0x1B = 0
      ∧ gone.num (hbm 0x100008) 4 = 2 ∧ b gone 0x1B = 1 ∧ gone.cancels = [] := by decide +kernel

/-- MemoryEvents: a continuation of a damaged record is consumption at its slice; one behind a parked request at the record's line waits. -/
theorem test_record_hurt :
    let w : Word := BitVec.ofNat 64 (2 ^ 56 + 2 ^ 52 + 0x100000)
    let x (s : State) : Cont := ⟨.tdec w 7, 0, s.iss.org, none, (8, 0)⟩
    let s := record 3 0 0
    let h := { s with conts := [x s], cancels := [x s], poison := [hbm 0x100000 / 32] }
    let q : Req := ⟨.amo 0, 0x100040, ⟨0, 0, 0x100040, fetchRegion⟩, 8, 5, 0, 0, .none, s.iss.org, false⟩
    let p := { s with conts := [x s], cancels := [x s], parked := [⟨q, 0, 0⟩] }
    h.damaged (hbm 0x100008) 20 = true ∧ h.recordParked (x h) = false ∧ h.wordBefore (h.cancels.take 0) (x h) = false
      ∧ (run (.applyContinuation 0) h).num (hbm 0x100008) 4 = 3 ∧ (run (.applyContinuation 0) h).conts = []
      ∧ (((run (.applyContinuation 0) h).core 0).phase.strikes = 1 ∨ ((run (.applyContinuation 0) h).core 0).task = none)
      ∧ (run (.applyCancel 0) h).num (hbm 0x10001B) 1 = 0 ∧ (run (.applyCancel 0) h).cancels = []
      ∧ p.recordParked (x p) = true ∧ run (.applyContinuation 0) p = p ∧ run (.applyCancel 0) p = p := by decide +kernel

/-- MemoryEvents: a load behind a parked request takes an entry of the fault queue, and is discarded with it. -/
theorem test_waiting_load :
    let s := at0 [(20, 0x4008)]
    let q : Req := ⟨.amo 0, 0x4000, ⟨0, 0, 0x4000, fetchRegion⟩, 8, 5, 0, 0, .sreg 0 9, ⟨0, some 3, none, none, 9, 0⟩, false⟩
    let p := { s with parked := [⟨q, 0, 0⟩] }
    let w := run (.ld 0 5 20 6 0 0) p
    let due := run (.atomwaitExpiry 0) { w with frame := 100000 }
    let fixed := run (.lineRepair (hbm 0x4000) (List.replicate 128 1)) w
    w.iss.st = .held ∧ w.behind.map (fun x => (x.core, x.key, x.va, x.opcode, x.entry, x.store)) = [(0, hbm 0x4008, 0x4008, 0x60, 1, false)]
      ∧ (run (.ld 0 5 20 6 0 0) w).behind.length = 1 ∧ due.behind = [] ∧ due.parked = [] ∧ (due.core 0).task = none
      ∧ fixed.behind = [] ∧ (run (.ld 0 5 20 6 0 0) fixed).rets.length = 2 := by decide +kernel

/-- MemoryEvents: a parked request replayed by the repair of its line, or discarded once its wait is over; the floor; a partial write of a
carried tensor whose sums take the difference. -/
theorem test_memory_events :
    let s := at0 []
    let q : Req := ⟨.amo 0, 0x4000, ⟨0, 0, 0x4000, fetchRegion⟩, 8, 5, 0, 0, .sreg 0 9, s.iss.org, false⟩
    let p := { s with parked := [⟨q, 0, 0⟩], poison := [hbm 0x4000 / 32] }
    let r := run (.lineRepair (hbm 0x4000) (List.replicate 128 1)) p
    let due := { p with frame := 100000 }
    let low := (s.modCore 3 fun k => { k with ltime := 7 })
    let c : Quad := fetchRegion + 2 ^ 65
    let d : RDesc := ⟨0x8000, 0xC000, 128, 32, 32, 8⟩
    let t := (s.modCtx 0 fun x => { x with map := { x.map with regions := x.map.regions.set 0 c, rdescs := [(0, d)] } }).put (hbm 0x8088) [3]
    let t : State := { t with tags := [(hbm 0xC000 / 256, 0)] }
    let u : Upd := ⟨0x8088, ⟨0, 0, 0x8088, c⟩, [5], 0, some 0, 1, false⟩
    let v := run (.incrementalUpdate 0) { t with upds := [u] }
    (keySpace (hbm 0x4000) = 0) ∧ r.poison = [] ∧ r.parked = [] ∧ r.num (hbm 0x4000) 1 = 6 ∧ r.num (hbm 0x407F) 1 = 1 ∧ r.rets.length = 1
      ∧ (run (.atomwaitExpiry 0) p).parked.length = 1 ∧ (run (.atomwaitExpiry 0) due).parked = [] ∧ ((run (.atomwaitExpiry 0) due).core 0).task = none
      ∧ (run .floorBroadcast low).lfloor = 0 ∧ (run (.lineTimeSweep 1) { s with lineTimes := [(hbm 0x4000 / 128, (3, 9))], lfloor := 5 }).lineTimes.map (·.2) = [(5, 9)]
      ∧ (t.changesOf [u]).groups.map (fun (g : Nat × Word × List Change) => (g.1, g.2.1, g.2.2.map fun (c : Change) => [c.i, c.j, c.old, c.new])) = [(hbm 0xC000, 0xC000, [[1, 2, 3, 5]])] ∧ (t.changesOf [u]).poisoned = false ∧ t.damaged (hbm 0xC000) 256 = false ∧ t.tag (hbm 0xC000) = 0
      ∧ v.num (hbm 0xC004) 4 = 2 ∧ v.num (hbm 0xC088) 4 = 2 ∧ v.num (hbm 0xC000) 4 = 0 ∧ v.tag (hbm 0xC000) = 1 ∧ v.num (hbm 0x8088) 1 = 5 := by decide +kernel

/-- Scheduler: a notice queues its task, which the lowest free core takes with the registers of R33; occupancy, ageing, a request to yield,
a forced yield, the watchdog, a vacating that ends. -/
theorem test_scheduler :
    let s := record 0 1 0
    let n := run (.readyNotice 0) { s with notices := [⟨0x100000, 0, some 0, 0⟩] }
    let q : QEnt := ⟨0x100000, 0, 0, 2, 0, 0, false, 0, false, 0, 0, none, false, false, 0, none⟩
    let t := run (.dispatch 0) n
    let low (c : Nat) : Binding := ⟨0x200000, 0, 1 + c, 0, false, 0, (if c = 0 then 0 else 3), 0, 0, 0x300000, 0, false, 0, false, 0, 0, 0, [], none⟩
    let late : State := { ((List.range 4).foldl (fun (s : State) c => s.modCore c fun k => { k with task := some (low c) }) s).modDie 0
      (fun d => { d with queue := [{ q with since := some 0, clmask := 1 }] }) with frame := 1001 }
    let u := run (.preemptionRequest 0) late
    let y := (s.modCore 0 fun k => { k with yieldReq := some ⟨0, some (0x100000, 0)⟩, pc := 0x60 })
    let v := (at0 []).modCluster 5 fun k => { k with vacate := some (0, 0) }
    let full := (s.modDie 0 fun d => { d with qovf := 0, queue := List.replicate 4096 q })
    (s.ctx 0).kill = .none ∧ s.recKey 0 0x100000 = some (hbm 0x100000) ∧ (n.die 0).queue = [q] ∧ n.notices = [] ∧ (full.die 0).queue.length = 4096
      ∧ n.eligible q 1 = true ∧ (n.core 1).task = none ∧ (n.core 0).task.isSome = true ∧ n.recBad 0 0x100000 = none ∧ (n.core 1).lastCtx = none
      ∧ (t.core 1).task.map (·.record) = some 0x100000 ∧ (t.core 1).pc = 0x40 ∧ ((t.regs 1).getS 1, (t.regs 1).getS 2, (t.regs 1).getS 6) = (0x11, 0x22, 0x100000)
      ∧ (t.die 0).queue = [] ∧ t.num (hbm 0x10000C) 1 = 2 ∧ ((run (.occupancyBroadcast 0) n).die 0).occ = 2
      ∧ ((run (.priorityAgeing 0) { n.modCtx 0 (fun x => { x with frozen := true }) with frame := 65536 }).die 0).queue.map (·.kept) = [3]
      ∧ late.placement 0 { q with since := some 0, clmask := 1 } = none ∧ (late.below 0 { q with since := some 0, clmask := 1 }).map (·.1) = [0]
      ∧ (u.core 0).yieldReq = some ⟨1001, some (0x100000, 0)⟩ ∧ (u.core 1).yieldReq = none ∧ (u.die 0).queue.map (·.asked) = [true]
      ∧ y.canForce 0 = true ∧ ((run (.forcedYield 0) y).core 0).yieldReq = some ⟨0, some (0x100000, 0)⟩ ∧ ((run (.forcedYield 0) { y with frame := 1000 }).core 0).hold = .saving
      ∧ ((run (.hangWatchdog 0) s).core 0).task.isSome = true
      ∧ ((run (.hangWatchdog 0) (s.modCore 0 fun k => { k with phase := { k.phase with cycles := 0x01000001 } })).core 0).task = none
      ∧ ((run (.vacateWaitExpiry 5) { v with frame := 49 }).cluster 5).vacate = some (0, 0) ∧ ((run (.vacateWaitExpiry 5) { v with frame := 50 }).cluster 5).vacate = none
      ∧ v.trippedZone 5 = none := by decide +kernel

/-! Witnesses: the host link, the mailbox, the fabric, power and coolant. -/

/-- A module that is up, with window 0 on region 0 of context 1 and window 1 closed. -/
def hosted : State :=
  ((at0 []).modHub fun h => { h with ready := true, wins := [(0, ⟨true, 0, 1⟩), (2, ⟨true, 0, 2⟩)], routes := [(routeNo 0 5 0, [0])] }).modCtx 1 fun x =>
    { x with resident := true, kill := .none, map := { x.map with regions := [(0, fetchRegion), (1, fetchRegion - 2 ^ 67)] } }

/-- HostLink: power good and its failures; the doorbell window of a context; a write, a read and an AtomicOp of the host. -/
theorem test_host_link :
    let cfg : BootConfig := ⟨0, 0, 7, [], 5600, 100, 3900, 60, 65536, 0, 0x10000, 64, [], [], [], [], []⟩
    let s := hosted
    let w := run (.bar2Access 0x1008 true [1, 2, 3, 4]) s
    let t := run (.atomicopCompletion 0 true) { (at0 []).modHub (fun h => { h with pcieUp := true }) with
      hostOut := [.atomic ⟨.amo 0, 0x4000, ⟨3, 0, 0x4000, 0⟩, 8, 5, 0, 0x0110000000100000, .sreg 0 9, (at0 []).iss.org, false⟩] }
    State.reset.hub.ready = false ∧ State.reset.hub.recovery = false ∧ State.reset.hub.booterr = 0
      ∧ bootSizesOk cfg = true ∧ bootSizesOk { cfg with ringSize := 65 } = false
      ∧ (run (.winnWrite 15 0x8000000000000025) s).hub.wins.get 15 ⟨false, 0, 0⟩ = ⟨true, 2, 5⟩
      ∧ (run (.decrementPortWrite 1 0x100000) s).conts.map (·.send) = [.tdec 0x0110000000100000 0] ∧ (run (.decrementPortWrite 1 0x100001) s).conts = []
      ∧ (run (.decrementPortWrite 3 0x100000) s).conts = [] ∧ s.hub.fenced = false ∧ (s.ctx 1).resident = true ∧ (s.ctx 1).kill = .none ∧ (s.ctx 2).resident = false
      ∧ w.num (hbm 0x1008) 4 = 0x04030201 ∧ (run (.bar2Access 0x1008 false [0, 0]) w).hub.pcieRead = [1, 2]
      ∧ (run (.bar2Access 0x100001008 false [0, 0]) w).hub.pcieRead = [0xFF, 0xFF] ∧ (run (.bar2Access 0x200001008 false [0, 0]) w).hub.pcieRead = [0xFF, 0xFF]
      ∧ (s.spanKeys 0 1 .g 0x200000000 2 .read).toOption = none
      ∧ ((s.translate 1 0x1008 .atomic).toOption.map Target.ms) = some true ∧ (run (.hostAtomicop 0x1008 0 4 5 0) { s with poison := [granule (hbm 0x1008)] }).parked.map (·.entry) = [0]
      ∧ (run (.hostAtomicop 0x1008 0 4 5 0) s).num (hbm 0x1008) 4 = 5
      ∧ t.hostOut = [] ∧ t.rets = [⟨0, [(9, 0)]⟩] ∧ t.conts.length = 1 := by decide +kernel

/-- HostLink: which images verify is no one's to compute (log 15), so of the cases of bring-up exactly one holds in a state; where every image verifies the
configuration above meets the last one, and the module comes up. -/
theorem test_power_good (s : State) :
    let good (n : Nat) : Prop := (s.goodImage n).isSome = true
    (¬good 0 ∨ (good 0 ∧ ∃ n, 1 ≤ n ∧ n < 8 ∧ ¬good n) ∨ ∀ n, n < 8 → good n)
      ∧ ((∀ n, n < 8 → good n) → s.failingStep ⟨0, 0, 7, [], 5600, 100, 3900, 60, 65536, 0, 0x10000, 64, [], [], [], [], []⟩ = 0) := by
  intro good
  constructor
  · by_cases a : good 0
    · by_cases b : ∃ n, 1 ≤ n ∧ n < 8 ∧ ¬good n
      · exact .inr (.inl ⟨a, b⟩)
      · refine .inr (.inr fun n h => ?_)
        rcases Nat.eq_zero_or_pos n with rfl | p
        · exact a
        · exact Classical.byContradiction fun c => b ⟨n, p, h, c⟩
    · exact .inl a
  · intro h
    have a : (s.goodImage 0).isNone = false := by
      have g : (s.goodImage 0).isSome = true := h 0 (by decide)
      revert g; cases s.goodImage 0 <;> simp
    have b : ((List.range 7).any fun n => (s.goodImage (n + 1)).isNone) = false := by
      rw [List.any_eq_false]
      intro n m
      have g : (s.goodImage (n + 1)).isSome = true := h (n + 1) (by have := List.mem_range.mp m; omega)
      revert g; cases s.goodImage (n + 1) <;> simp
    rw [State.failingStep, a, b]
    rfl

/-- HostLink: an AtomicOp outside memory-side memory, done at once; writes dropped while the link is down. -/
theorem test_host_atomic :
    let s := hosted.modHub fun h => { h with wins := [(0, ⟨true, 1, 1⟩)] }
    let k : State := s.put (Target.key ⟨0, 0, 0x1008, fetchRegion - 2 ^ 67⟩) [9]
    let a (op : BitVec 2) : State := run (.hostAtomicop 0x1008 op 4 9 3) k
    let v (t : State) : Nat := t.num (Target.key ⟨0, 0, 0x1008, fetchRegion - 2 ^ 67⟩) 4
    let d := run (.hostWriteDropped 0) { at0 [] with hostOut := [.write 0x4000 0x4000 [1] (at0 []).iss.org] }
    ((k.translate 1 0x100001008 .atomic).toOption.map Target.ms) = some false ∧ (k.spanKeys 0 1 .g 0x100001008 4 .atomic).toOption.isSome = true
      ∧ (v (a 0), v (a 1), v (a 2)) = (18, 9, 3) ∧ (a 0).hub.pcieRead = [9, 0, 0, 0] ∧ d.hostOut = [] ∧ (d.core 0).withheld = true
      ∧ (run .pcieLinkDown (s.modHub fun h => { h with pcieUp := true })).hub.pcieUp = false := by decide +kernel

/-- A mailbox request taken: command, length, and the bytes of its body. -/
def mail (s : State) (cmd len : Nat) (body : List Byte) : State :=
  s.modHub fun h => { h with mbbusy := true, mbreq := leBytes 2 cmd ++ leBytes 2 0 ++ leBytes 4 len ++ leBytes 8 0xAB ++ body ++ List.replicate (4080 - body.length) 0 }

/-- The status of the response. -/
def answerOf (s : State) : Nat × Bool := (leNat ((s.hub.mbresp.drop 2).take 2), s.hub.mbbusy)

/-- Mailbox: every command with its statuses. -/
theorem test_mailbox :
    let s := hosted
    let words (l : List Nat) : List Byte := l.flatMap (leBytes 8)
    let door (l : List Byte) : State := run (.mbdoor (l ++ List.replicate 4094 0)) s
    let k := run .kill (mail s 2 8 (words [1]))
    (door (leBytes 2 8)).hub.mbbusy = true ∧ (door (leBytes 2 9)).hub.mbbusy = false ∧ (door (leBytes 2 0)).hub.mbdone = true
      ∧ (run (.mbdoneClear 4) (door (leBytes 2 0))).hub.mbdone = false ∧ (run (.mbdoneClear 3) (door (leBytes 2 0))).hub.mbdone = true
      ∧ answerOf (run .kill (mail s 2 8 (words [0]))) = (2, false) ∧ (k.ctx 1).kill = .running 1 ∧ (k.ctx 1).frozen = true ∧ k.hub.killWanted = some 1
      ∧ answerOf (run .attest (mail s 3 32 (words [1, 2, 3, 4]))) = (0, false)
      ∧ answerOf (run .debugread (mail s 4 32 (words [9, 0, 0, 8]))) = (2, false) ∧ s.debugIndex 0 0 = true
      ∧ answerOf (run .setperm (mail s 5 16 (words [1, 2]))) = (2, false) ∧ ((run .setperm (mail s 5 16 (words [15, 1]))).ctx 15).test = true
      ∧ answerOf (run .coolset (mail s 6 16 (words [260, 0]))) = (2, false) ∧ answerOf (run .coolset (mail s 6 16 (words [3, 0x212340]))) = (1, false)
      ∧ ((run .coolset (mail s 6 16 (words [3, 0x21F120]))).zone 3).grant = 2
      ∧ answerOf (run .settrap (mail s 7 16 (words [1, 2]))) = (2, false) ∧ ((run .settrap (mail s 7 16 (words [1, 0x2080]))).ctx 1).traprec = 0x2080
      ∧ answerOf (run .tokgive (mail s 8 16 (words [0, 0]))) = (0, false)
      ∧ (run .tokgive (mail s 8 16 (words [0x500000005, 0]))).mgmtOut = [(5, .grant 0 0 5)]
      ∧ (run .tokgive (mail (s.modHub fun h => { h with tokq := [7] }) 8 16 (words [0x500000005, 0]))).hub.tokq = [7, 512]
      ∧ ((run .loadmap (mail s 1 10 (leBytes 1 1 ++ leBytes 1 1 ++ leBytes 6 0 ++ [7, 8]))).hub.partialMap) = some (1, [7, 8])
      ∧ answerOf (run .loadmap (mail s 1 10 (leBytes 1 0))) = (2, false) ∧ answerOf (run .loadmap (mail s 1 10 (leBytes 1 1))) = (3, false) := by decide +kernel

/-- The number that zero bytes hold. -/
theorem leNat_zeros (n : Nat) : leNat (List.replicate n 0#8) = 0 := by
  induction n with
  | zero => rfl
  | succ n ih => rw [List.replicate_succ, leNat, ih]; rfl

/-- A table of zero entries lists nothing. -/
theorem imgTable_zeros (w n m i : Nat) : imgTable w (List.replicate m 0#8) i n = [] := by
  induction n generalizing m i with
  | zero => rfl
  | succ n ih => rw [imgTable, List.take_replicate, leNat_zeros, List.drop_replicate]; exact ih _ _

/-- An image of zero bytes maps nothing. -/
theorem parse_zeros (m : Nat) : CtxMap.parse (List.replicate m 0) = ⟨0, 0, [], [], (List.range 16).map fun n => (n, ⟨0, 0, 0, 0, 0, 0⟩)⟩ := by
  simp [CtxMap.parse, imgTable_zeros, imgNum, List.take_replicate, List.drop_replicate, leNat_zeros]

/-- Mailbox: the last piece of a map image of zeros, which maps nothing, for context 3. -/
theorem test_loadmap :
    let b : List Byte := List.replicate 193112 0
    let s := mail (hosted.modHub fun h => { h with partialMap := some (3, b) }) 1 4080 (leBytes 1 3 ++ leBytes 1 2 ++ leBytes 2 0 ++ leBytes 4 193112)
    let data := (s.hub.mbreq.drop 24).take 4072
    b ++ data = List.replicate 197184 0 ∧ s.quiet 3 = true ∧ s.mapBad 3 (CtxMap.parse (b ++ data)) = false := by
  intro b s data
  have h : data = List.replicate 4072 0 := by decide +kernel
  have e : b ++ data = List.replicate 197184 0 := by rw [h]; exact List.replicate_append_replicate
  refine ⟨e, by decide +kernel, ?_⟩
  rw [e, parse_zeros]
  decide +kernel

/-- A flit of a KIND from module 5 to module 0 in context 1, SEQ 9: fields of the second word, and the payload. -/
def flit (kind len addr hi : Nat) (bs : List Byte) : Flit :=
  ⟨BitVec.ofNat 128 (5 * 2 ^ 11 + kind * 2 ^ 25 + 1 * 2 ^ 28 + 9 * 2 ^ 32 + len * 2 ^ 52 + addr * 2 ^ 64 + hi), bs, none⟩

/-- Fabric: loads and stores served, a put into the C space of core 0 and its continuation, malformed flits, the answers to a load, a store
and a put. -/
theorem test_flits :
    let s := hosted.put (hbm 0x1008) [7, 8]
    let ks := (List.range 2).map fun n => hbm (0x1008 + n)
    let last := 2 ^ 60
    let c := 2 ^ 112
    let noted (f : Flit) (cont : Bool) : Flit := { f with note := some ⟨tileRec 0x40 1 1, 0, cont, []⟩ }
    let put := noted (flit 2 4 0x40 (c + last) [3, 4, 0, 0]) false
    let part := noted (flit 2 4 0x40 c [3, 4, 0, 0]) true
    let cont := flit 2 16 0 (c + last) (leBytes 8 0x0110000000100000 ++ leBytes 8 6)
    let bad := { put with note := some ⟨tileRec 0x400000 1 1, 0, false, []⟩ }
    let t := run (.put part) s
    let ask (r : Remote) : State := { s with remotes := [r] }
    let r (kind bytes : Nat) : Remote := ⟨9, 5, 1, [3], 4, bytes, none, kind, 0x2000, s.iss.org, [], none⟩
    let answer (len : Nat) (bs : List Byte) : Flit := flit 4 len 9 0 bs
    let put0 (s : State) : State := s.modCore 0 fun k => { k with xq := [{ s.xcmd (.xput xf0 0) with stage := 2, seq := 4 }] }
    s.takes put = true ∧ (s.spanKeys 0 1 .g 0x1008 2 .read).toOption = some ks ∧ ks.all (fun k => keySpace k != 8) = true ∧ s.behindParked ks = false
      ∧ ((run (.remoteLoad (flit 0 2 0x1008 0 [2, 0])) s).flitsOut.map (·.payload.take 2)) = [[7, 8]]
      ∧ (run (.remoteStore (flit 1 2 0x1008 0 [5, 6])) s).num (hbm 0x1008) 2 = 0x605
      ∧ ((run (.remoteStore (flit 1 2 0x1008 0 [5, 6])) s).flitsOut.map fun f => (flitFld f 25 3, flitFld f 52 8, flitFld f 64 16)) = [(4, 1, 9)]
      ∧ s.putRefused (s.arrived put) = false ∧ (s.arrived put).op = 0 ∧ (run (.put put) s).num (cKey 0 0x40) 4 = 0x403 ∧ t.landing = [part] ∧ t.mem = s.mem
      ∧ (run (.put cont) t).landing = [] ∧ (run (.put cont) t).num (cKey 0 0x40) 4 = 0x403 ∧ (run (.put cont) t).conts.map (·.send) = [.tdec 0x0110000000100000 6]
      ∧ (run (.collectiveStep (noted (flit 3 4 0x40 (c + last + 2 ^ 61) [3, 4, 0, 0]) false)) (run (.put put) s)).num (cKey 0 0x40) 4 = 0x806
      ∧ s.putRefused (s.arrived bad) = true ∧ ((run (.put bad) s).flitsOut.map fun f => flitFld f 52 8) = [2]
      ∧ (run (.put put) (s.modCtx 1 fun x => { x with resident := false })).mem = s.mem ∧ (run (.put (flit 2 0 0 0 [])) s).num (cKey 0 0x40) 2 = 0
      ∧ (r 0 4).answeredBy (answer 4 []) = true ∧ (r 0 4).answeredBy (flit 4 4 8 0 []) = false
      ∧ (run (.response (answer 4 [0xFF, 0xFF, 0xFF, 0xFF])) (ask (r 0 4))).rets = [⟨0, [(3, 0xFFFFFFFFFFFFFFFF)]⟩]
      ∧ ((run (.response (answer 1 [0])) (ask (r 0 4))).core 0).task = none
      ∧ (run (.response (answer 1 [0])) (ask (r 1 1))).cores = s.cores ∧ ((run (.response (answer 2 [0, 0])) (ask (r 1 1))).core 0).task = none
      ∧ (run (.response (answer 4 [1, 2, 3, 4])) (ask (r 3 4))).num (spaceKey 8 (5 * 2 ^ 48 + 2 ^ 44 + 0x2000)) 4 = 0x04030201
      ∧ (run (.response (answer 4 [1, 2, 3, 4])) (ask { r 5 4 with size := 0, org := hostOrg 1 })).hub.pcieRead = [1, 2, 3, 4]
      ∧ ((run (.response (answer 1 [0])) (put0 (ask { r 2 1 with size := ((put0 s).core 0).xq.headD (s.xcmd (.xnop 0)) |>.name }))).core 0).xq = [] := by decide +kernel

/-- Fabric: grants, heartbeats and losses. -/
theorem test_peers :
    let s := hosted
    let far := s.modCtx 1 fun x => { x with map := { x.map with regions := x.map.regions.set 2 (BitVec.ofNat 128 (5 * 2 ^ 117 + 2048 * 2 ^ 84 + 4 * 2 ^ 73 + 2 ^ 71)) } }
    let heard := far.modHub fun h => { h with heard := [(5, 10)], recStep := 0 }
    let t := run (.peerLost 5) { heard with frame := 3010 }
    let d := run (.linkDown 31) s
    (run (.tokenGrant 5 1 10) s).hub.balance = 5610 ∧ ((run (.management (.heartbeat 5 [⟨0, 0, 3, 9⟩, ⟨2, 0, 3, 9⟩])) { s with frame := 44 }).hub.heard.find 5) = some 44
      ∧ (run .heartbeat { s with frame := 1000 }).mgmtOut = [(2048, .heartbeat 0 [])] ∧ (run (.management (.heartbeat 5 [⟨2, 0, 3, 9⟩])) s).hub.members = [(5, 2)]
      ∧ ((run (.management (.heartbeat 5 [⟨2, 0, 3, 9⟩])) (s.modDie 1 fun d => { d with cgroup := 2 })).die 1).pending = [(3, 1)] ∧ (run .heartbeat { s with frame := 999 }).mgmtOut = []
      ∧ far.namesModule 1 5 = true ∧ s.hub.notices = [] ∧ t.hub.lostMods = [5] ∧ (t.ctx 1).kill = .running 1 ∧ (t.ctx 0).kill = .none
      ∧ t.mgmtOut = [(2048, .fault 0 0 (.module 5)), (2048, .loadComplete 0)] ∧ (run (.peerLost 5) { heard with frame := 3009 }).hub.lostMods = []
      ∧ (run (.faultNotice 6 2 (.link 0 false)) s).hub.notices = [(6, 2)] ∧ (run (.loadCompleteNotice 5) s).hub.loads = [5]
      ∧ d.hub.downPorts = [31] ∧ (run (.linkDown 32) s).hub.downPorts = [] ∧ (run (.laneLoss 31 3) s).hub.lostLanes = [(31, 3)]
      ∧ (run (.laneLoss 31 4) s).hub.lostLanes = [] := by decide +kernel

/-- PowerAndCoolant: grants of tokens, their time-out and query; the governor's window; steps; energy. -/
theorem test_power :
    let s := at0 []
    let tr (d : Option (Nat × SReg)) : Transfer := ⟨5, 0, 7, 0, d⟩
    let out := { s.modHub (fun h => { h with transfers := [tr (some (0, 9))] }) with frame := 1000 }
    let query := { s.modHub (fun h => { h with transfers := [tr none] }) with frame := 1000 }
    let g := run (.tokenGrant 5 1 800) s
    let late := { s with frame := 1000 }
    let high := run (.governorWindow 5601 [1, 9, 3] []) late
    let e := run (.energyCounterUpdate [⟨0, 1, 2⟩, ⟨5, 0, 0⟩, ⟨6, 0, 0⟩] [3] 2 20) { s with frame := 1 }
    let grp := s.modDie 2 fun d => { d with cgroup := 4 }
    let e2 := run (.energyCounterUpdate [⟨0, 1, 2⟩, ⟨5, 0, 0⟩, ⟨6, 0, 0⟩] [3] 2 20) { s.modCore 0 (fun k => { k with eacct := 7 }) with frame := 1 }
    g.hub.balance = 6400 ∧ g.mgmtOut = [(5, .grantAnswer 0 1 true)] ∧ (run (.tokenGrant 5 2 1) g).hub.balance = 6400
      ∧ (run (.tokenGrant 5 2 1) g).mgmtOut.getLast? = some (5, .grantAnswer 0 2 false)
      ∧ (run (.tokxAckTimeout 5) out).rets = [⟨0, [(9, 3)]⟩] ∧ (run (.tokxAckTimeout 5) { out with frame := 999 }).rets = []
      ∧ (run (.tokenOutcomeQuery 5) query).mgmtOut = [(5, .outcomeQuery 0 0)] ∧ (run (.tokenOutcomeQuery 5) { query with frame := 999 }).mgmtOut = []
      ∧ (run (.governorWindow 5600 [] []) late).hub.lowwin = 0 ∧ (run (.governorWindow 5039 [] []) late).hub.lowwin = 1
      ∧ (high.die 1).pending = [(1, 1001)] ∧ (high.die 0).pending = [] ∧ (run (.governorWindow 5601 [] []) s).hub.windowN = 0
      ∧ ((run (.stepChange 1) { high with frame := 1001 }).die 1).step = 1 ∧ ((run (.stepChange 1) high).die 1).step = 0
      ∧ ((run (.stepAnnouncement 2 15 9) grp).die 2).pending = [(15, 9)] ∧ ((run (.stepAnnouncement 2 16 9) grp).die 2).pending = []
      ∧ ((run (.stepAnnouncement 2 4 9) (run (.stepAnnouncement 2 3 9) grp)).die 2).pending = [(4, 9)]
      ∧ e.hub.energy.total = 20 ∧ e.hub.energy.accounts.get 0 0 = 20 ∧ e2.hub.energy.accounts.get 7 0 = 3 ∧ e2.hub.energy.accounts.get 0 0 = 17 ∧ e.hub.energy.dies.get 0 0 = 3 := by decide +kernel

/-- PowerAndCoolant: the valve, a raised grant, a sample, and a purge: its start, its pulses and gaps, its end. -/
theorem test_coolant :
    let s := at0 []
    let z (f : Zone → Zone) (t : Nat) : State := { s.modZone 3 f with frame := t }
    let evac := z (fun x => { x with evac := some 0 }) 51
    let pulse (runs n : Nat) : State := z (fun x => { x with evac := some 0, purge := .pulse 200051, pulses := n, runs := [(6, runs)] }) 200051
    let v (t : State) : Zone := t.zone 3
    let p := v (run (.purgeStart 3) evac)
    ((v (run (.grantCounts 3) (z (fun x => { x with grant := 5, counts := 2, raised := some 0 }) 5000))).counts = 5)
      ∧ (v (run (.grantCounts 3) (z (fun x => { x with grant := 5, counts := 2, raised := some 0 }) 4999))).counts = 2
      ∧ (v (run (.sensorSample (List.replicate 4 ⟨[20, 21, -1, 23], true, 5, 6⟩)) { s with frame := 100 })).zsens1 = 0x100050006
      ∧ (v (run (.sensorSample (List.replicate 4 ⟨[20, 21, -1, 23], true, 5, 6⟩)) { s with frame := 100 })).zsens0 = 0x0017FFFF00150014
      ∧ p.purge = .pulse 200051 ∧ p.valve = 15 ∧ p.pulses = 1 ∧ (v (run (.purgeStart 3) { evac with frame := 50 })).purge = .idle
      ∧ zoneCluster 3 = some 1 ∧ (v (run (.purgePulse 3) (pulse 10 1))).purge = .idle ∧ (v (run (.purgePulse 3) (pulse 9 1))).purge = .gap 205051
      ∧ (v (run (.purgePulse 3) (pulse 9 5))).fenced = true ∧ ((run (.purgePulse 3) (pulse 9 5)).die 0).off.getLsbD 1 = true
      ∧ (v (run (.purgePulse 3) { pulse 9 1 with frame := 200050 })).purge = .pulse 200051
      ∧ (v (run (.purgeGap 3) (z (fun x => { x with evac := some 0, purge := .gap 9, pulses := 1 }) 9))).pulses = 2 := by decide +kernel

/-- PowerAndCoolant: the valve of a zone with little to do moves to its grant, and then to its minimum. -/
theorem test_valve :
    let s := { (State.reset.modZone 3 fun x => { x with min := 2, grant := 5, counts := 4, valve := 9 }) with frame := 1000 }
    let t := { (State.reset.modZone 3 fun x => { x with min := 2, grant := 5, counts := 5, valve := 9 }) with frame := 1000 }
    ((run .valveSetting s).zone 3).valve = 5 ∧ ((run .valveSetting t).zone 3).valve = 2 ∧ (run .valveSetting s).hub.valveN = 1 := by decide +kernel

/-! Witnesses: the remaining commands of the copy engine, and a save. -/

/-- CopyEvents: a table fill of an image of two entries for group 3, of which the second has another class than its index; an image whose
magic is wrong. -/
theorem test_table_fill :
    let good : Quad := 0x01110F302083A0000000000000000000
    let bad : Quad := 0x01010F302083A0000000000000000000
    let image : List Byte := leBytes 4 0x4B544249 ++ leBytes 2 1 ++ leBytes 2 1 ++ leBytes 2 0x10 ++ leBytes 2 2 ++ leBytes 4 0
      ++ [0xFF, 0xFF, 0xFF, 0] ++ List.replicate 12 0xFF ++ List.replicate 32 0 ++ [2, 2] ++ List.replicate 14 0 ++ leBytes 16 good.toNat ++ leBytes 16 bad.toNat
    let s := (at0 []).put (hbm 0x1000) image
    let q (stage : Nat) (a : Word) : State := s.modCore 0 fun k => { k with xq := [{ s.xcmd (.xtbl xf0) with sr := a, stage := stage }] }
    let t := run (.fillComplete 0 0) (q 1 0x1000)
    let new (n : Nat) : Quad := ((t.core 0).banks.getD 1 Bank.clear).entries.get n 0
    let fail := run (.xtblHeaderCheck 0 0) (q 0 0x1040)
    ((run (.xtblHeaderCheck 0 0) (q 0 0x1000)).core 0).xq.map (·.stage) = [1] ∧ (fail.core 0).xq.map (·.stage) = [3] ∧ (fail.core 0).shadowSt = .failed
      ∧ ((q 1 0x1000).core 0).banks.length = 2 ∧ ((q 1 0x1000).core 0).active = 0 ∧ (t.core 0).xq.map (fun x => (x.stage, x.valid)) = [(3, 2)]
      ∧ (t.core 0).shadowSt = .complete ∧ new (3 * 1024 + 0x10) = good ∧ new (3 * 1024 + 0x11) = vnopAt 2 ∧ new 0x10 = vnopAt 2 ∧ new (3 * 1024 + 0x12) = 0
      ∧ (t.core 0).reject = 1 ∧ ((t.core 0).banks.getD 1 Bank.clear).img = 0x1000 ∧ ((t.core 0).banks.getD 1 Bank.clear).cls.get 0x11 0 = 2 := by decide +kernel

/-- CopyEvents: a gather reads its list of two rows; a collective step waits for its tick and then moves its block; a command that is done. -/
theorem test_gather_collective :
    let list := (((tileRec 0x4000 3 2).set 0x71 0x30).set 0x78 1).set 0x7C 2
    let s := withC copying 0x3000 [1, 0, 0, 0]
    let g := s.modCore 0 fun k => { k with xq := [{ s.xcmd (.xgath xf0) with srec := list }] }
    let c : State := s.modCore 0 fun k => { k with xq := [{ s.xcmd (.xcoll xf0 0 0 0) with srec := tileRec 0x4000 3 1, drec := tileRec 0x2000 3 1, e2 := 5 }] }
    let x (t : State) : XCmd := (t.core 0).xq.headD (s.xcmd (.xnop 0))
    let done := s.modCore 0 fun k => { k with xq := [{ s.xcmd (.xfill xf0) with stage := 3, status := 1, valid := 6, k := 0x0010000000001000 }] }
    (s.listKeys 0 0 (x g).src.r (x g).src.y0).toOption.isSome = true ∧ ((run (.xgathRowStep 0 0) g).core 0).xq.map (fun x => (x.list, x.stage)) = [([1, 0], 1)]
      ∧ (x (run (.xcollRelease 0 0) c)).stage = 0 ∧ s.pathAhead 0 3 (x c).ord (s.xReads (x c) ++ s.xWrites (x c)) = false
      ∧ coreidModule (x c).e1 = s.hub.module ∧ (x (run (.xcollRelease 0 0) { c with frame := 5 })).stage = 3
      ∧ ((run (.xCommandComplete 0 0) done).core 0).xq = [] ∧ (run (.xCommandComplete 0 0) done).conts.map (·.send) = [.tdec 0x0010000000001000 0x100000006] := by decide +kernel

/-- A region of 4 GiB of class 2, whose keys follow one another. -/
def flat2 : Quad := fetchRegion + 2 ^ 74

/-- Core 0 in a save, with region 1 in class 2. -/
def saving : State :=
  ((at0 []).modCtx 0 fun x => { x with map := { x.map with regions := x.map.regions.set 1 flat2 } }).modCore 0 fun k => { k with hold := .saving }

/-- Where an address of that region lies. -/
theorem saving_key {a : Nat} (l : 2 ^ 32 ≤ a) (h : a < 2 ^ 33) :
    saving.spaceKeyAt 0 0 .g (BitVec.ofNat 64 a) .write = .ok (spaceKey 1 (a - 2 ^ 32)) := by
  have v : (BitVec.ofNat 64 a).toNat = a := by rw [BitVec.toNat_ofNat]; omega
  have r : saving.region 0 (BitVec.ofNat 64 a) = flat2 := by
    rw [State.region, v, show a / 2 ^ 32 % 4096 = 1 by omega]
    decide +kernel
  have t : saving.translate 0 (BitVec.ofNat 64 a) .write = .ok ⟨2, 0, a - 2 ^ 32, flat2⟩ := by
    have c : classCapacity saving.grade 2 = 6 * 2 ^ 40 := by decide +kernel
    have f : entFld flat2 73 4 = 2 ∧ entFld flat2 77 3 = 0 ∧ entFld flat2 71 2 = 1 ∧ entFld flat2 84 12 = 2048 ∧ entFld flat2 0 64 = 0
        ∧ permits flat2 .write = true := by decide +kernel
    rw [State.translate, State.targetOf]
    simp only [r, v, f.1, f.2.1, f.2.2.1, f.2.2.2.1, f.2.2.2.2.1, f.2.2.2.2.2, c]
    rw [if_neg (by omega), if_neg (by decide), if_neg (by decide), if_pos trivial, if_neg (by omega), if_pos (by omega),
      show (0 + a % 2 ^ 32) % 2 ^ 64 = a - 2 ^ 32 by omega]
  rw [State.spaceKeyAt]
  simp [t, Except.map, Target.key]

/-- The keys of a span of it follow one another. -/
theorem saving_span (n : Nat) {a : Nat} (l : 2 ^ 32 ≤ a) (h : a + n ≤ 2 ^ 33) :
    saving.spanKeys 0 0 .g (BitVec.ofNat 64 a) n .write = .ok (List.range' (spaceKey 1 (a - 2 ^ 32)) n) := by
  induction n generalizing a with
  | zero => rfl
  | succ n ih =>
    rw [State.spanKeys, saving_key l (by omega), show BitVec.ofNat 64 a + 1 = BitVec.ofNat 64 (a + 1) from (BitVec.ofNat_add ..).symm,
      ih (by omega) (by omega), show spaceKey 1 (a + 1 - 2 ^ 32) = spaceKey 1 (a - 2 ^ 32) + 1 by simp only [spaceKey]; omega, List.range'_succ]

/-- The ranges of some lengths at offsets from a base follow one another, from lo on. -/
def chain (base lo : Nat) : List (Nat × Nat) → Bool
  | [] => decide (lo ≤ 2 ^ 33)
  | (off, n) :: l => decide (lo ≤ base + off) && decide (base + off + n ≤ 2 ^ 33) && chain base (base + off + n) l

/-- Pieces of an area that follow one another lie in the map, each byte once. -/
theorem saving_area (base lo : Nat) (low : 2 ^ 32 ≤ lo) (l : List (Nat × List Byte)) (h : chain base lo (l.map fun p => (p.1, p.2.length)) = true) :
    ∃ kb, saving.areaKeys 0 base .write l = .ok kb ∧ (kb.map (·.1)).Pairwise (· < ·) ∧ ∀ k ∈ kb.map (·.1), spaceKey 1 (lo - 2 ^ 32) ≤ k := by
  induction l generalizing lo with
  | nil => exact ⟨[], rfl, .nil, fun _ h => nomatch h⟩
  | cons p l ih =>
    obtain ⟨off, bs⟩ := p
    simp only [List.map_cons, chain, Bool.and_eq_true, decide_eq_true_eq] at h
    obtain ⟨kb, e, q, b⟩ := ih _ (by omega) h.2
    refine ⟨(List.range' (spaceKey 1 (base + off - 2 ^ 32)) bs.length).zip bs ++ kb, ?_, ?_, ?_⟩
    · rw [State.areaKeys, saving_span _ (by omega) (by omega), e]
    · have m : ((List.range' (spaceKey 1 (base + off - 2 ^ 32)) bs.length).zip bs).map (·.1) = List.range' (spaceKey 1 (base + off - 2 ^ 32)) bs.length := by
        rw [List.map_fst_zip]; simp
      rw [List.map_append, m, List.pairwise_append]
      refine ⟨List.pairwise_lt_range', q, fun x hx y hy => ?_⟩
      have := b y hy
      simp only [List.mem_range'_1, spaceKey] at hx this
      omega
    · intro k hk
      rw [List.map_append, List.mem_append] at hk
      rcases hk with hk | hk
      · rw [List.map_fst_zip (by simp)] at hk
        simp only [List.mem_range'_1, spaceKey] at hk ⊢
        omega
      · exact Nat.le_trans (Nat.add_le_add_left (by omega) _) (b k hk)

/-- How many bytes a group takes in a save area (R45). -/
theorem length_groupBytes (r : Regs) (g : Nat) : (r.groupBytes g).length = 0x2080 := by
  simp [Regs.groupBytes, zeroBytes, List.length_flatMap, List.map_const']

/-- CoreEvents: a save whose area lies in the map, each byte once; the record is there. -/
theorem test_save :
    (∃ kb, saving.areaKeys 0 0x100200000 .write (saving.saveArea 0 0) = .ok kb ∧ (kb.map (·.1)).Nodup) ∧ saving.canSave 0 = true
      ∧ (saving.core 0).hold = .saving ∧ (saving.core 0).task.isSome = true ∧ saving.recKey 0 0x100000 = some (hbm 0x100000) := by
  refine ⟨?_, by decide +kernel, by decide +kernel, by decide +kernel, by decide +kernel⟩
  have h : chain 0x100200000 (2 ^ 32) ((saving.saveArea 0 0).map fun p => (p.1, p.2.length)) = true := by
    have p : (saving.core 0).shadow.planes = 0 := by decide +kernel
    have f : (saving.core 0).shadow.refetch = [] := by decide +kernel
    simp [State.saveArea, p, f, length_groupBytes, zeroBytes, List.length_flatMap, Function.comp_def, State.get, Memory.readN]
    decide +kernel
  obtain ⟨kb, e, q, -⟩ := saving_area 0x100200000 (2 ^ 32) (Nat.le_refl _) _ h
  exact ⟨kb, e, q.imp Nat.ne_of_lt⟩

end Sys2Proof.Machine.Tests
end

section
/-! SUPPORT. What writes of single registers do: the bits that a register keeps, the registers of a core, the banks, and those held at the hub
(R66, R70, R101, R138, R358, R362, R418). -/
namespace Sys2Proof.Machine

/-! Fields of words. -/

/-- The low 32 bits of a word as a number. -/
theorem toNat_and_low32 (v : Word) : (v &&& 0xFFFFFFFF).toNat = v.toNat % 2 ^ 32 := by
  rw [BitVec.toNat_and]; exact Nat.and_two_pow_sub_one_eq_mod _ 32

/-- A field that a mask keeps whole reads from the masked word as from the word. -/
theorem toNat_and_field (v m : Word) (lo n : Nat) (h : m.extractLsb' lo n = BitVec.allOnes n) :
    (v &&& m).toNat / 2 ^ lo % 2 ^ n = (v.extractLsb' lo n).toNat := by
  have e : (v &&& m).extractLsb' lo n = v.extractLsb' lo n := by rw [BitVec.extractLsb'_and, h, BitVec.and_allOnes]
  rw [← e, BitVec.extractLsb'_toNat, Nat.shiftRight_eq_div_pow]

/-- RIMEINJ's TARGET and CHUNK read as bits 62:60 and 26:21 of the word written (R138). -/
theorem rimeinjValue_eq (v : Word) : rimeinjValue v =
    let w := v &&& 0xFFFFFFFFFFE00000
    if (v.extractLsb' 60 3).toNat > 3 ∨ (v.extractLsb' 21 6).toNat > 32 then w &&& 0x7FFFFFFFFFFFFFFF else w := by
  rw [← toNat_and_field v 0xFFFFFFFFFFE00000 60 3 (by decide), ← toNat_and_field v 0xFFFFFFFFFFE00000 21 6 (by decide)]; rfl

/-- The sizes of an error ring: the powers of two from 4 to 1,048,576 (R358). -/
theorem ringSize_iff (n : Nat) : (4 ≤ n ∧ n ≤ 1048576 ∧ 2 ^ n.log2 = n) ↔ ∃ k, 2 ≤ k ∧ k ≤ 20 ∧ n = 2 ^ k := by
  constructor
  · rintro ⟨lo, hi, e⟩
    have low : 2 ≤ n.log2 := (Nat.le_log2 (by omega)).2 lo
    have high : n.log2 < 21 := (Nat.log2_lt (by omega)).2 (by omega)
    exact ⟨n.log2, low, by omega, e.symm⟩
  · rintro ⟨k, lo, hi, rfl⟩
    exact ⟨(Nat.pow_le_pow_right Nat.two_pos lo : 2 ^ 2 ≤ 2 ^ k), (Nat.pow_le_pow_right Nat.two_pos hi : 2 ^ k ≤ 2 ^ 20),
      congrArg (2 ^ ·) Nat.log2_two_pow⟩

/-! Registers of a core. -/

/-- Control registers of a core changed. -/
theorem onlyRegsCsrs_modCore (s : State) (c : Nat) (f : Csrs → Csrs) : OnlyRegsCsrs c s (s.modCore c fun k => { k with csrs := f k.csrs }) :=
  ⟨rfl, fun _ h => State.core_modCore_other s _ h, by rw [State.core_modCore_same], fun _ => rfl⟩

theorem OnlyRegsCsrs.refl (c : Nat) (s : State) : OnlyRegsCsrs c s s := ⟨rfl, fun _ _ => rfl, rfl, fun _ => rfl⟩

/-- A scalar result written where only control registers have changed. -/
theorem OnlyRegsCsrs.wr {s t : State} (h : OnlyRegsCsrs s.iss.core s t) (r : t.regs s.iss.core = s.regs s.iss.core) (d : SReg) (w : Word) :
    OnlyRegsCsrs s.iss.core s (t.wr d w) ∧ OtherScalarsKept s.iss.core [d.toNat] s (t.wr d w)
      ∧ ((t.wr d w).regs s.iss.core).getS d.toNat = (if d = 0 then 0 else w)
      ∧ ((t.wr d w).core s.iss.core).csrs = (t.core s.iss.core).csrs := by
  obtain ⟨rest, others, own, mem⟩ := h
  have i : t.iss = s.iss := (congrArg State.iss rest :)
  obtain ⟨⟨⟨-, o, k, m⟩, kept⟩, value⟩ := State.wr_does t d w
  rw [i] at o k kept value
  have csrs : ((t.wr d w).core s.iss.core).csrs = (t.core s.iss.core).csrs := (congrArg Core.csrs k :)
  refine ⟨⟨rest, fun j n => (o j n).trans (others j n), ?_, fun a => (m a).trans (mem a)⟩, ?_, value, csrs⟩
  · rw [← own, ← k]
  · unfold OtherScalarsKept; rw [← r]; exact kept

/-- The four values of a two-bit code. -/
theorem bitVec2_cases : ∀ op : BitVec 2, op = 0 ∨ op = 1 ∨ op = 2 ∨ op = 3 := by decide

/-- An access writes unless it is CSRR, or CSRS or CSRC of no bits. -/
theorem csrOp_writes_iff (op : BitVec 2) (v : Word) : (op.toNat = 1 ∨ (op.toNat ≠ 0 ∧ v ≠ 0)) ↔ ¬ (op = 0 ∨ (op ≠ 1 ∧ v = 0)) := by
  rcases bitVec2_cases op with rfl | rfl | rfl | rfl <;> simp

/-- The value that CSRW, CSRS and CSRC write (R219). -/
theorem csrNew_of_ne_zero {op : BitVec 2} (h : op ≠ 0) (old a : Word) :
    csrNew op.toNat old a = if op = 1 then a else if op = 2 then old ||| a else old &&& ~~~a := by
  rcases bitVec2_cases op with rfl | rfl | rfl | rfl
  · exact absurd rfl h
  all_goals rfl

/-- An access of NANCNT that every count before it has preceded: its old value lands, after its write if it writes (R101). -/
theorem csrAccess_nancnt (s : State) (op : BitVec 2) (d : SReg) (v : Word) (h : (s.core s.iss.core).counted = true) :
    s.csrAccess op.toNat d v 0x030 =
      (if op = 0 ∨ (op ≠ 1 ∧ v = 0) then s else s.csrSet s.iss.core 0x030 op.toNat v).wr d (s.core s.iss.core).csrs.nancnt := by
  have permitted : ∀ x t, csrBad x 0x030 op.toNat v t = none := fun x t => by simp [csrBad, listed, writable]
  have ready : ∀ q, csrWaits (s.core s.iss.core) 0x030 q = false := fun q => by simp [csrWaits, h]
  have own : hubHeld 0x030 = false := rfl
  have writes := csrOp_writes_iff op v
  by_cases idle : op = 0 ∨ (op ≠ 1 ∧ v = 0)
  · rw [if_pos idle]
    simp only [State.csrAccess, permitted, ready, own, Nat.reduceEqDiff, or_false, writes, idle, not_true, if_false, Bool.false_eq_true]
    rfl
  · rw [if_neg idle]
    simp only [State.csrAccess, permitted, ready, own, Nat.reduceEqDiff, or_false, writes, idle, not_false_eq_true, if_true, if_false, Bool.false_eq_true]
    rfl

/-- NANCNT_ACCESS where every count before it has been made (R101). -/
theorem nancntAccess_does (s : State) (op : BitVec 2) (d : SReg) (v : Word) (h : (s.core s.iss.core).counted = true) :
    let c := s.iss.core
    let old := (s.core c).csrs.nancnt
    ∃ t, exec (.nancntAccess op d v) s = .next t ∧ OnlyRegsCsrs c s t ∧ OtherScalarsKept c [d.toNat] s t
      ∧ (t.regs c).getS d.toNat = (if d = 0 then 0 else old)
      ∧ (t.core c).csrs = { (s.core c).csrs with nancnt :=
          if op = 0 ∨ (op ≠ 1 ∧ v = 0) then old
          else (if op = 1 then v else if op = 2 then old ||| v else old &&& ~~~v) &&& 0xFFFFFFFF } := by
  intro c old
  refine ⟨_, congrArg Host.Outcome.next (csrAccess_nancnt s op d v h), ?_⟩
  by_cases idle : op = 0 ∨ (op ≠ 1 ∧ v = 0)
  · simp only [if_pos idle]
    exact (OnlyRegsCsrs.refl c s).wr rfl d old
  · simp only [if_neg idle, ← csrNew_of_ne_zero fun e => idle (.inl e)]
    have regs : (s.csrSet c 0x030 op.toNat v).regs c = s.regs c :=
      (congrArg Core.regs (State.core_modCore_same s c (·.setCsr 0x030 (csrNew op.toNat old v))) :)
    obtain ⟨only, kept, result, csrs⟩ := (onlyRegsCsrs_modCore s c fun u => { u with nancnt := csrNew op.toNat old v &&& 0xFFFFFFFF }).wr regs d old
    rw [State.core_modCore_same] at csrs
    exact ⟨only, kept, result, csrs⟩

/-- The seeds of a core's generators (R108). -/
theorem laneOf_seeds (v : Word) {g l : Nat} (hg : g < 16) (hl : l < 32) :
    laneOf ((seeds v).get g []) l = BitVec.ofNat 32 (lfsrSeed (v.toNat % 2 ^ 32) g l) := by
  rw [seeds, Tbl.get_map_range _ _ hg]
  simp [laneOf, lanes, hl]

/-- LFSRSEED_WRITE where no V entry before it is pending (R108, R110). -/
theorem lfsrseedWrite_does (s : State) (v : Word) (h : (s.core s.iss.core).vpend = []) :
    let c := s.iss.core
    let k := s.core c
    ∃ t, exec (.lfsrseedWrite v) s = .next t ∧ OnlyCore c { s with iss := { s.iss with seeded := true } } t
      ∧ { t.core c with lfsr := k.lfsr } = { k with csrs := { k.csrs with lfsrseed := v &&& 0xFFFFFFFF } }
      ∧ ∀ g l, g < 16 → l < 32 → laneOf ((t.core c).lfsr.get g []) l = BitVec.ofNat 32 (lfsrSeed (v.toNat % 2 ^ 32) g l) := by
  intro c k
  have e : exec (.lfsrseedWrite v) s = .next ((s.modCore c fun k => k.setCsr 0x060 v).noteSeed 0x060) := by
    show Host.Outcome.next (if (s.core s.iss.core).vpend.isEmpty then _ else _) = _
    rw [h]; rfl
  have own : (((s.modCore c fun k => k.setCsr 0x060 v).noteSeed 0x060).core c)
      = { k with csrs := { k.csrs with lfsrseed := v &&& 0xFFFFFFFF }, lfsr := seeds v } := State.core_modCore_same s c (·.setCsr 0x060 v)
  refine ⟨_, e, ⟨rfl, fun j n => State.core_modCore_other s (·.setCsr 0x060 v) n, fun _ => rfl⟩, ?_, ?_⟩
  · rw [own]
  · intro g l hg hl
    rw [own]; exact laneOf_seeds v hg hl

/-! Error banks. -/

/-- Word 0 of an error bank written whole (R362). -/
theorem writeBank_csrw (s : State) (n : Nat) (v : Word) : s.writeBank n 1 v =
    let b := s.hub.banks.get n ErrBank.empty
    let w : ErrBank := { b with ueovf := v.toNat / 2 ^ 32 % 2 ^ 16, cecnt := v.toNat % 2 ^ 32 }
    s.modHub fun h => { h with banks := h.banks.set n (if v.getLsbD 63 then { w with valid := false, ue := false, ovf := false } else w) } := by
  simp [State.writeBank, ErrBank.write, clears, csrNew, State.modHub]

/-- The bank of a unit of a core: those of units 2 and 3 are their cluster's (R356, R362). -/
theorem coreBank_eq {u : Nat} (c : Nat) (h : u < 8) :
    coreBank u c = ((u * 16 + dieOf c) * 256 + clusterOf c % 16) * 256 + (if u = 2 ∨ u = 3 then 0xFF else memberOf c) := by
  have shared : (u = 2 ∨ u = 3 ∨ u = 14 ∨ u = 17 ∨ u = 18) ↔ (u = 2 ∨ u = 3) := by omega
  show ((u * 16 + dieOf c) * 256 + (if u = 18 then 0xFF else clusterOf c % 16)) * 256
    + (if u = 2 ∨ u = 3 ∨ u = 14 ∨ u = 17 ∨ u = 18 then 0xFF else memberOf c) = _
  rw [if_neg (by omega : ¬ u = 18)]
  simp only [shared]

/-- A write of word 0 of the bank of a unit of a core (R362, R413). -/
theorem csrSet_bank (s : State) (c op : Nat) (a : Word) {u : Nat} (h : u < 8) :
    s.csrSet c (0x900 + 16 * u) op a = s.writeBank (coreBank u c) op a := by
  unfold State.csrSet
  split
  case h_6 =>
    rw [if_pos (by omega : 0x900 ≤ 0x900 + 16 * u ∧ 0x900 + 16 * u < 0x980), if_pos (by omega : (0x900 + 16 * u) % 16 = 0),
      show (0x900 + 16 * u) / 16 % 16 = u by omega]
  all_goals omega

/-- ERROR_BANK_WRITE to a unit of the issuing core (R362). -/
theorem errorBankWrite_own (s : State) (v : Word) {u : Nat} (h : u < 8) :
    exec (.errorBankWrite u v) s = .next (s.writeBank (coreBank u s.iss.core) 1 v) := by
  show Host.Outcome.next (if u < 8 then s.csrSet s.iss.core (0x900 + 16 * u) 1 v else _) = _
  rw [if_pos h, csrSet_bank s _ _ _ h]

/-- ERROR_BANK_WRITE to a unit outside the cores, by the number of its bank (R362). -/
theorem errorBankWrite_outer (s : State) (v : Word) {n : Nat} (h : 8 ≤ n) :
    exec (.errorBankWrite n v) s = .next (if 8 ≤ n / 2 ^ 20 ∧ n / 2 ^ 20 ≤ 20 then s.writeBank n 1 v else s) := by
  show Host.Outcome.next (if n < 8 then _ else if outerBank n = true then _ else _) = _
  rw [if_neg (by omega)]; simp only [outerBank, decide_eq_true_eq]

/-! Registers held at the hub. -/

/-- A write of a trap register at the hub (R418). -/
theorem hubSet_trap (s : State) (ctx x op : Nat) (a : Word) : s.hubSet ctx (0x8A0 + x) op a =
    s.modCtx x fun y => { y with traprec := csrNew op (s.hubGet ctx (0x8A0 + x)) a &&& traprecMask } := by
  unfold State.hubSet
  split
  case h_6 => rw [Nat.add_sub_cancel_left]
  all_goals omega

/-- A core reaches the trap registers at the hub. -/
theorem csrSet_trap (s : State) (c op : Nat) (a : Word) {x : Nat} (h : x < 16) :
    s.csrSet c (0x8A0 + x) op a = s.hubSet (s.core c).ctxid (0x8A0 + x) op a := by
  unfold State.csrSet
  split
  case h_6 =>
    rw [if_neg (by omega : ¬ (0x900 ≤ 0x8A0 + x ∧ 0x8A0 + x < 0x980)), if_pos (by omega : 0x8A0 ≤ 0x8A0 + x ∧ 0x8A0 + x ≤ 0x8AF)]
  all_goals omega

/-- A write of a trap register by firmware (R418). -/
theorem registerWrite_traprec (s : State) (v : Word) {x : Nat} (h : x < 16) :
    exec (.registerWrite (0x8A0 + BitVec.ofNat 12 x) v) s = .next (s.modCtx x fun y => { y with traprec := v &&& 0x0000FFFFFFFFFFB1 }) := by
  have number : (0x8A0 + BitVec.ofNat 12 x : BitVec 12).toNat = 0x8A0 + x := by
    rw [BitVec.toNat_add, BitVec.toNat_ofNat, show (0x8A0 : BitVec 12).toNat = 0x8A0 from rfl]; omega
  show Host.Outcome.next (s.csrSet s.iss.core (0x8A0 + BitVec.ofNat 12 x : BitVec 12).toNat 1 v) = _
  rw [number, csrSet_trap s _ _ _ h, hubSet_trap]
  rfl

/-- A size that ERRSIZE takes clears the ring (R358). -/
theorem setErrsize_taken (s : State) (x : Nat) (v : Word) (h : v.toNat % 2 ^ 21 = 0 ∨ ∃ n, 2 ≤ n ∧ n ≤ 20 ∧ v.toNat % 2 ^ 21 = 2 ^ n) :
    s.setErrsize x v = s.modRing x fun r => { r.cleared with size := v.toNat % 2 ^ 21 } := by
  rw [← ringSize_iff] at h; exact if_pos h

/-- Another size is ignored. -/
theorem setErrsize_ignored (s : State) (x : Nat) (v : Word) (h : ¬ (v.toNat % 2 ^ 21 = 0 ∨ ∃ n, 2 ≤ n ∧ n ≤ 20 ∧ v.toNat % 2 ^ 21 = 2 ^ n)) :
    s.setErrsize x v = s := by
  rw [← ringSize_iff] at h; exact if_neg h

/-- A write of a register held at the hub touches the contexts alone. -/
theorem hubSet_frame (s : State) (ctx n op : Nat) (a : Word) : { s.hubSet ctx n op a with hub := s.hub } = s
    ∧ (s.hubSet ctx n op a).hub.hubcsr = s.hub.hubcsr := by
  unfold State.hubSet
  split
  · exact ⟨rfl, rfl⟩
  · simp only [State.setErrsize]; split <;> exact ⟨rfl, rfl⟩
  all_goals exact ⟨rfl, rfl⟩

/-- HUB_CSR_ANSWER to the only access that waits: it is performed, and the register's old value lands (R358). -/
theorem hubCsrAnswer_only (s : State) (a : HubAccess) (h : s.hub.hubcsr = [a]) :
    let u := s.modHub fun h => { h with hubcsr := [] }
    exec (.hubCsrAnswer a.core) s = .next ((if a.op = 0 then u else u.hubSet a.ctx a.csr a.op a.v).modCore a.core fun k =>
      { k with regs := k.regs.setS a.d.toNat (s.hubGet a.ctx a.csr) }) := by
  show execHubCsrAnswer a.core s = _
  simp [execHubCsrAnswer, State.modHub, h]

/-- The scalar register that a hub's answer writes. -/
theorem getS_setS_same (r : Regs) (d : SReg) (w : Word) : (r.setS d.toNat w).getS d.toNat = if d = 0 then 0 else w := by
  rw [Regs.getS_setS]
  by_cases h : d = 0
  · subst h; rfl
  · have n : d.toNat ≠ 0 := fun e => h (BitVec.eq_of_toNat_eq e)
    rw [if_pos ⟨rfl, n⟩, if_neg h]

/-- What a hub's answer leaves: the queue empty, the old value in its register, and the register written (R358, R418). -/
theorem hubCsrAnswer_does (s : State) (a : HubAccess) (h : s.hub.hubcsr = [a]) :
    ∃ t, exec (.hubCsrAnswer a.core) s = .next t ∧ t.hub.hubcsr = [] ∧ OtherScalarsKept a.core [a.d.toNat] s t
      ∧ (t.regs a.core).getS a.d.toNat = (if a.d = 0 then 0 else s.hubGet a.ctx a.csr)
      ∧ (a.op = 0 → t.hub = { s.hub with hubcsr := [] })
      ∧ (a.op = 1 → a.csr = 0x073 → (t.ctx a.ctx).ring.tail =
          let r := (s.ctx a.ctx).ring
          if (r.head + 2 ^ 32 - a.v.toNat % 2 ^ 32) % 2 ^ 32 ≤ r.size then a.v.toNat % 2 ^ 32 else r.tail)
      ∧ (a.op = 1 → 0x8A0 ≤ a.csr → a.csr < 0x8B0 → (t.ctx (a.csr - 0x8A0)).traprec = a.v &&& 0x0000FFFFFFFFFFB1) := by
  refine ⟨_, hubCsrAnswer_only s a h, ?_⟩
  generalize eu : (s.modHub fun h => { h with hubcsr := [] }) = u
  have hub : u.hub = { s.hub with hubcsr := [] } := by rw [← eu]; rfl
  have core : ∀ j, u.core j = s.core j := by rw [← eu]; exact fun _ => rfl
  have ctx : ∀ x, u.ctx x = s.ctx x := by rw [← eu]; exact fun _ => rfl
  generalize ew : (if a.op = 0 then u else u.hubSet a.ctx a.csr a.op a.v) = w
  obtain ⟨wcore, wcsr⟩ : w.core a.core = s.core a.core ∧ w.hub.hubcsr = [] := by
    rw [← ew]; split
    · exact ⟨core _, by rw [hub]⟩
    · obtain ⟨frame, csr⟩ := hubSet_frame u a.ctx a.csr a.op a.v
      exact ⟨(congrArg (fun t => t.core a.core) frame : _).trans (core _), by rw [csr, hub]⟩
  have regs : (w.modCore a.core fun k => { k with regs := k.regs.setS a.d.toNat (s.hubGet a.ctx a.csr) }).regs a.core
      = (s.regs a.core).setS a.d.toNat (s.hubGet a.ctx a.csr) := by
    rw [State.regs, State.core_modCore_same, wcore]
  refine ⟨wcsr, ⟨fun n hn => ?_, ?_⟩, ?_, fun e => ?_, fun e c => ?_, fun e lo hi => ?_⟩
  · rw [List.mem_singleton] at hn
    rw [regs, Regs.getS_setS, if_neg fun x => hn x.1]
  · simp [regs]
  · rw [regs, getS_setS_same]
  · rw [if_pos e] at ew; rw [State.modCore_hub, ← ew, hub]
  · rw [if_neg (by omega), e, c] at ew
    rw [State.ctx_modCore, ← ew]
    show ((u.setErrtail a.ctx a.v).ctx a.ctx).ring.tail = _
    simp only [State.setErrtail, State.modRing, State.ctx_modCtx_same, ctx]
    split <;> rfl
  · rw [if_neg (by omega), e] at ew
    rw [State.ctx_modCore, ← ew]
    obtain ⟨x, e⟩ : ∃ x, a.csr = 0x8A0 + x := ⟨a.csr - 0x8A0, by omega⟩
    rw [e, Nat.add_sub_cancel_left, hubSet_trap, State.ctx_modCtx_same]
    rfl

/-- A context's ring changed, by what it was. -/
theorem modRing_eq (s : State) (x : Nat) (f : Ring → Ring) : s.modRing x f = s.modRing x fun _ => f (s.ctx x).ring := rfl

/-- The ring registers of a context written (R358). -/
theorem ringWrites (s : State) (x : Nat) (v : Word) :
    let r := (s.ctx x).ring
    let ring (g : Ring) : State := s.modRing x fun _ => g
    let size := v.toNat % 2 ^ 21
    exec (.errbaseWrite x v) s = .next (ring { r.cleared with base := v.toNat / 64 % 2 ^ 42 })
    ∧ ((size = 0 ∨ ∃ n, 2 ≤ n ∧ n ≤ 20 ∧ size = 2 ^ n) → exec (.errsizeWrite x v) s = .next (ring { r.cleared with size := size }))
    ∧ (size ≠ 0 → (∀ n, 2 ≤ n → n ≤ 20 → size ≠ 2 ^ n) → exec (.errsizeWrite x v) s = .next s)
    ∧ exec (.errtailWrite x v) s = .next (ring (if (r.head + 2 ^ 32 - v.toNat % 2 ^ 32) % 2 ^ 32 ≤ r.size then { r with tail := v.toNat % 2 ^ 32 } else r))
    ∧ exec (.errflagsWrite x v) s = .next (ring { r with lost := v.toNat / 2 ^ 32 % 2 ^ 16, ovf := r.ovf && !v.getLsbD 0 }) := by
  intro r ring size
  refine ⟨congrArg Host.Outcome.next (modRing_eq s x _), fun taken => congrArg Host.Outcome.next ((setErrsize_taken s x v taken).trans (modRing_eq s x _)),
    fun zero other => congrArg Host.Outcome.next (setErrsize_ignored s x v ?_), ?tail, congrArg Host.Outcome.next (modRing_eq s x _)⟩
  · rintro (e | ⟨n, lo, hi, e⟩)
    · exact zero e
    · exact other n lo hi e
  case tail =>
    show Host.Outcome.next (s.setErrtail x v) = _
    rw [State.setErrtail, modRing_eq]

/-- Settles O54: each write is the register's own update under its mask, and an answer of the hub lands the old value of a register and
performs its write. -/
theorem registerEvents : Obligations.RegisterEvents := by
  unfold Obligations.RegisterEvents
  intro s v c k csrs low
  refine ⟨?nancnt, ?lfsrHeld, lfsrseedWrite_does s v, ?injRefused, ?inj,
    rfl, rfl, rfl, rfl, ?prewait, ?phasemax, ?forcewait, ?atomwait, rfl, fun x => registerWrite_traprec s v, ⟨fun u h => ?bank, fun n h => ?outer⟩,
    fun x => ringWrites s x v, fun j none => ?idle, hubCsrAnswer_does s⟩
  case nancnt =>
    intro op d pend slot array
    exact nancntAccess_does s op d v (by rw [Core.counted, pend, slot, array]; rfl)
  case lfsrHeld =>
    intro pend
    show Host.Outcome.next (if k.vpend.isEmpty = true then _ else _) = _
    rw [if_neg (by simpa using pend)]
  case injRefused =>
    intro test
    show Host.Outcome.next (if (s.ctx k.ctxid).test = true then _ else _) = _
    rw [test]; rfl
  case inj =>
    intro test
    show Host.Outcome.next (if (s.ctx k.ctxid).test = true then _ else _) = _
    rw [test, ← rimeinjValue_eq]; rfl
  case prewait => rw [toNat_and_low32]; rfl
  case phasemax => rw [toNat_and_low32]; rfl
  case forcewait => rw [toNat_and_low32]; rfl
  case atomwait => rw [toNat_and_low32]; rfl
  case bank => rw [errorBankWrite_own s v h, coreBank_eq _ h, writeBank_csrw]
  case outer => rw [errorBankWrite_outer s v h, writeBank_csrw]
  case idle =>
    have absent : (s.hub.hubcsr.find? fun a => a.core == j) = .none := by
      rw [List.find?_eq_none]; intro a h; simpa using none a h
    show execHubCsrAnswer j s = _
    rw [execHubCsrAnswer, absent]

end Sys2Proof.Machine
end

section
/-! SUPPORT. What reports and cancelled tasks leave alone, and which bytes a write of memory leaves (R355 to R363, R371). -/
namespace Sys2Proof.Machine

/-- What no step of a fold changes, the fold does not change. -/
theorem foldl_keeps {α β γ : Type} (p : β → γ) (f : β → α → β) (h : ∀ b a, p (f b a) = p b) (l : List α) (b : β) : p (l.foldl f b) = p b := by
  induction l generalizing b with
  | nil => rfl
  | cons a l ih => exact (ih (f b a)).trans (h b a)

/-! Reports. -/

/-- Nothing but memory, its poison, its shadows and the hub is changed. -/
def OnlyReport (s t : State) : Prop := { t with mem := s.mem, poison := s.poison, shadows := s.shadows, hub := s.hub } = s

theorem OnlyReport.refl (s : State) : OnlyReport s s := rfl

theorem OnlyReport.trans {s t u : State} (a : OnlyReport s t) (b : OnlyReport t u) : OnlyReport s u := by
  unfold OnlyReport at a b ⊢
  rw [← b] at a
  exact a

theorem OnlyReport.modHub {s t : State} (h : OnlyReport s t) (f : Hub → Hub) : OnlyReport s (t.modHub f) := h

theorem OnlyReport.signal {s t : State} (h : OnlyReport s t) (v : Nat) : OnlyReport s (t.signal v) := h

theorem OnlyReport.modRing {s t : State} (h : OnlyReport s t) (c : Nat) (f : Ring → Ring) : OnlyReport s (t.modRing c f) := h

theorem OnlyReport.put {s t : State} (h : OnlyReport s t) (key : Nat) (bs : List Byte) : OnlyReport s (t.put key bs) := h

theorem OnlyReport.putE {s t : State} (h : OnlyReport s t) (key : Nat) (bs : List Byte) : OnlyReport s (t.putE key bs) := h

/-- A record in the machine ring (R360). -/
theorem ringPut_onlyReport (s : State) (r : ErrRec) : OnlyReport s (s.ringPut r) := by
  unfold State.ringPut
  extract_lets
  split
  · exact (((OnlyReport.refl s).modHub _).put _ _).signal 0
  · exact ((((OnlyReport.refl s).put _ _).modHub _).put _ _).signal 0

theorem postMachine_onlyReport (s : State) (r : ErrRec) : OnlyReport s (s.postMachine r) := by
  unfold State.postMachine
  extract_lets
  split
  · exact ((OnlyReport.refl s).modHub _).trans (ringPut_onlyReport _ _)
  split
  · exact (OnlyReport.refl s).modHub _
  · exact ((OnlyReport.refl s).modHub _).signal 0

theorem bankPost_onlyReport {s t : State} {r : ErrRec} {o : Option ErrRec} (h : s.bankPost r = (o, t)) : OnlyReport s t := by
  unfold State.bankPost at h
  split at h
  extract_lets at h
  split at h
  split at h <;> cases h <;> exact ((OnlyReport.refl s).modHub _).modHub _

theorem badRing_onlyReport (s : State) (c : Nat) (r : ErrRec) : OnlyReport s (s.badRing c r) := by
  have stopped := (OnlyReport.refl s).modRing c fun g => { g with bad := true }
  unfold State.badRing
  extract_lets
  split <;> rename_i h
  · exact ((stopped.trans (bankPost_onlyReport h)).trans (postMachine_onlyReport _ _)).trans (postMachine_onlyReport _ _)
  · exact (stopped.trans (bankPost_onlyReport h)).trans (postMachine_onlyReport _ _)

/-- A record to a context's ring (R359). -/
theorem postContext_onlyReport (s : State) (c : Nat) (r : ErrRec) : OnlyReport s (s.postContext c r) := by
  unfold State.postContext
  extract_lets g r u
  have numbered : OnlyReport s u := (OnlyReport.refl s).modRing c _
  split
  · exact numbered.trans (postMachine_onlyReport _ _)
  split
  · exact (numbered.modRing c _).signal _
  split
  · split
    · exact ((numbered.putE _ _).modRing c _).signal _
    · exact numbered.trans (badRing_onlyReport _ _ _)
  · exact numbered.trans (badRing_onlyReport _ _ _)

theorem postRings_onlyReport (s : State) (r : ErrRec) : OnlyReport s (s.postRings r) := by
  unfold State.postRings
  split
  · exact postMachine_onlyReport s r
  · split
    · exact postMachine_onlyReport s r
    · split
      · exact (postContext_onlyReport s _ r).trans (postMachine_onlyReport _ r)
      · exact postContext_onlyReport s _ r

/-- A report of an event changes nothing but memory, its poison, its shadows and the hub (R361 to R363). -/
theorem post_onlyReport (s : State) (r : ErrRec) : OnlyReport s (s.post r) := by
  unfold State.post
  split <;> rename_i h
  · exact (bankPost_onlyReport h).trans (postRings_onlyReport _ _)
  · exact bankPost_onlyReport h

@[simp] theorem post_hostOut (s : State) (r : ErrRec) : (s.post r).hostOut = s.hostOut := (congrArg State.hostOut (post_onlyReport s r) :)

@[simp] theorem post_parked (s : State) (r : ErrRec) : (s.post r).parked = s.parked := (congrArg State.parked (post_onlyReport s r) :)

/-! What is on its way to the host stays when a task is cancelled (R371). -/

@[simp] theorem recPut_hostOut (s : State) (ctx : Nat) (va : Word) (off : Nat) (bs : List Byte) : (s.recPut ctx va off bs).hostOut = s.hostOut := by
  unfold State.recPut; split <;> rfl

@[simp] theorem sendSucc_hostOut (s : State) (cancel : Bool) (o : Org) (w v : Word) : (s.sendSucc cancel o w v).hostOut = s.hostOut := by
  unfold State.sendSucc
  split
  · rfl
  split
  · exact post_hostOut s _
  split <;> rfl

@[simp] theorem sendWords_hostOut (s : State) (cancel : Bool) (o : Org) (ws : List Word) (v : Word) : (s.sendWords cancel o ws v).hostOut = s.hostOut :=
  foldl_keeps State.hostOut _ (fun s w => sendSucc_hostOut s cancel o w v) ws s

@[simp] theorem reserveFor_hostOut (s : State) (c : Nat) (w : Option (Word × Nat)) : (s.reserveFor c w).hostOut = s.hostOut := by
  unfold State.reserveFor; split <;> rfl

@[simp] theorem startKill_hostOut (s : State) (ctx : Nat) (l : Loc) (o : Option Org) : (s.startKill ctx l o).hostOut = s.hostOut := by
  unfold State.startKill
  split
  · exact post_hostOut _ _
  · rfl

@[simp] theorem leaveSwitch_hostOut (s : State) (c : Nat) : (s.leaveSwitch c).hostOut = s.hostOut := by
  unfold State.leaveSwitch; split <;> rfl

@[simp] theorem unask_hostOut (s : State) (c : Nat) : (s.unask c).hostOut = s.hostOut := by
  unfold State.unask
  split
  · split <;> rfl
  · rfl

@[simp] theorem dropSaves_hostOut (s : State) (c : Nat) : (s.dropSaves c).hostOut = s.hostOut := by
  unfold State.dropSaves; split <;> rfl

@[simp] theorem freeSlots_hostOut (s : State) (k : Nat) (o : Owner) : (s.freeSlots k o).hostOut = s.hostOut := rfl

@[simp] theorem dropLease_hostOut (s : State) (c : Nat) : (s.dropLease c).hostOut = s.hostOut := rfl

@[simp] theorem dropResults_hostOut (s : State) (c : Nat) : (s.dropResults c).hostOut = s.hostOut := rfl

@[simp] theorem endMember_hostOut (s : State) (c : Nat) : (s.endMember c).hostOut = s.hostOut := by
  simp [State.endMember]

/-- What is on its way to the host stays when a task is cancelled. -/
@[simp] theorem cancelTask_hostOut (s : State) (o : Org) : (s.cancelTask o).hostOut = s.hostOut := by
  unfold State.cancelTask
  split
  · rfl
  next c cs _ =>
    extract_lets b ctx asked u v w
    have ended : w.hostOut = s.hostOut := by
      have members : u.hostOut = s.hostOut := foldl_keeps State.hostOut State.endMember endMember_hostOut (c :: cs) s
      have reserved : v.hostOut = u.hostOut := foldl_keeps State.hostOut _ (fun s p => reserveFor_hostOut s p.1 p.2) asked u
      exact reserved.trans members
    clear_value b w
    cases b with
    | none => exact ended
    | some b =>
      dsimp only
      split
      · rw [startKill_hostOut, ended]
      · rw [sendWords_hostOut, recPut_hostOut, State.recFlag, recPut_hostOut, ended]

end Sys2Proof.Machine
end

section
/-! SUPPORT. Bytes written and read back, and what an atomic does to them (R160, R208). -/
namespace Sys2Proof.Machine

/-! Bytes at a key. -/

/-- A byte inside a write is the byte written. -/
theorem Memory.read_writeL_inside (m : Memory) (a : Nat) (bs : List Byte) {n : Nat} (h : n < bs.length) :
    (m.writeL a bs).read (a + n) = bs.getD n 0 := by
  induction bs generalizing m a n with
  | nil => exact absurd h (Nat.not_lt_zero n)
  | cons b bs ih =>
    rw [Memory.writeL]
    cases n with
    | zero => rw [Memory.read_writeL_outside _ _ _ (by omega)]; exact Memory.read_write_same m a b
    | succ n => rw [show a + (n + 1) = a + 1 + n by omega, ih _ _ (by simpa using h)]; simp

/-- A byte among those read at an address. -/
theorem Memory.readN_getD (m : Memory) (a k : Nat) {n : Nat} (h : n < k) : (m.readN a k).getD n 0 = m.read (a + n) := by
  induction k generalizing a n with
  | zero => exact absurd h (Nat.not_lt_zero n)
  | succ k ih =>
    rw [Memory.readN]
    cases n with
    | zero => rfl
    | succ n => rw [List.getD_cons_succ, ih (a + 1) (by omega)]; congr 1; omega

@[simp] theorem Memory.length_readN (m : Memory) (a k : Nat) : (m.readN a k).length = k := by
  induction k generalizing a with
  | zero => rfl
  | succ k ih => rw [Memory.readN, List.length_cons, ih]

/-- Bytes are those of the number that they stand for. -/
theorem leBytes_leNat (bs : List Byte) : leBytes bs.length (leNat bs) = bs := by
  induction bs with
  | nil => rfl
  | cons b bs ih =>
    have byte : BitVec.ofNat 8 (leNat (b :: bs)) = b := by
      apply BitVec.eq_of_toNat_eq
      have := b.isLt
      rw [BitVec.toNat_ofNat, leNat]; omega
    have rest : leNat (b :: bs) / 256 = leNat bs := by
      have := b.isLt
      rw [leNat]; omega
    rw [List.length_cons, leBytes, byte, rest, ih]

theorem getD_map_range_add (key n i : Nat) (h : i < n) : ((List.range n).map (key + ·)).getD i 0 = key + i := by
  simp [List.getD_eq_getElem?_getD, h]

theorem mem_map_range_add (key n a : Nat) : a ∈ (List.range n).map (key + ·) ↔ key ≤ a ∧ a < key + n := by
  simp only [List.mem_map, List.mem_range]
  exact ⟨fun ⟨i, h, e⟩ => by omega, fun h => ⟨a - key, by omega, by omega⟩⟩

/-- Bytes put at a key are there, and no others have changed. -/
theorem put_stored (s : State) (key : Nat) (bs : List Byte) : Stored s (s.put key bs) ((List.range bs.length).map (key + ·)) bs := by
  refine ⟨fun n h => ?_, fun a h => ?_⟩
  · rw [getD_map_range_add _ _ _ h]; exact Memory.read_writeL_inside s.mem key bs h
  · exact State.read_put_outside s key bs (by rw [mem_map_range_add] at h; omega)

/-- A number that memory holds stands there in its bytes. -/
theorem num_stored (s : State) (key n : Nat) : Stored s s ((List.range n).map (key + ·)) (leBytes n (s.num key n)) := by
  have bytes : leBytes n (s.num key n) = Memory.readN s.mem key n := by
    have := leBytes_leNat (Memory.readN s.mem key n)
    rwa [Memory.length_readN] at this
  refine ⟨fun i h => ?_, fun _ _ => rfl⟩
  rw [leBytes_length] at h
  rw [getD_map_range_add _ _ _ h, bytes, Memory.readN_getD _ _ _ h]

/-! What atomics write. -/

theorem signedOf_eq_toInt {w : Nat} (h : 0 < w) (n : Nat) : signedOf w n = (BitVec.ofNat w n).toInt := by
  have two : 2 ^ w = 2 * 2 ^ (w - 1) := by rw [← Nat.pow_succ', Nat.succ_eq_add_one, Nat.sub_add_cancel h]
  rw [signedOf, BitVec.toInt_eq_toNat_cond, BitVec.toNat_ofNat]
  congr 1
  exact propext ⟨fun a => by omega, fun a => by omega⟩

/-- The lesser or the greater of two, by either order of the comparison. -/
theorem ite_lt_eq_ite_le (x y : Int) (a b : Nat) : (if y < x then b else a) = if x ≤ y then a else b := by
  split <;> split <;> omega

/-- AmoOp writes what R208 says. -/
theorem amoValue_writes (op : Nat) {w : Nat} (h : 0 < w) (old b c : Nat) : some (amoValue op w old b) = atomicWrites (.amo op) w old b c := by
  have bits : 0 < 8 * w := by omega
  match op with
  | 0 | 1 | 2 | 3 => rfl
  | 4 =>
    show some (if signedOf (8 * w) b < signedOf (8 * w) old then b else old) = _
    rw [ite_lt_eq_ite_le, signedOf_eq_toInt bits, signedOf_eq_toInt bits]; rfl
  | 5 =>
    show some (if signedOf (8 * w) old < signedOf (8 * w) b then b else old) = _
    rw [ite_lt_eq_ite_le, signedOf_eq_toInt bits, signedOf_eq_toInt bits]; rfl
  | 6 =>
    have least : (if b < old then b else old) = min old b := by rw [Nat.min_def]; split <;> split <;> omega
    exact congrArg some least
  | 7 =>
    have most : (if old < b then b else old) = max old b := by rw [Nat.max_def]; split <;> split <;> omega
    exact congrArg some most
  | _ + 8 => rfl

/-- An atomic of the model writes what R208 says. -/
theorem effect_writes (o : AOp) {w : Nat} (h : 0 < w) (old b c : Nat) : (o.effect w old b c).1 = atomicWrites o w old b c := by
  cases o with
  | amo op => exact amoValue_writes op h old b c
  | cas => rfl
  | casc => rfl
  | amoct op cc => exact amoValue_writes op h old b c
  | fred op fmt => rfl

/-- An atomic but AMOCT has its continuation applied where R208 says. -/
theorem effect_fires (o : AOp) (w old b c : Nat) (h : ∀ op cc, o ≠ .amoct op cc) : (o.effect w old b c).2 = atomicFires o w old b c := by
  cases o with
  | amoct op cc => exact absurd rfl (h op cc)
  | _ => rfl

/-- The state with what an atomic writes at its place written. -/
def State.wrote (s : State) (r : Req) : State :=
  match (r.op.effect r.w (s.num r.tgt.key r.w) r.b r.c).1 with
  | some v => s.put r.tgt.key (leBytes r.w v)
  | none => s

theorem wrote_onlyMem (s : State) (r : Req) : { s.wrote r with mem := s.mem, shadows := s.shadows } = s := by
  unfold State.wrote; split <;> rfl

@[simp] theorem wrote_hostOut (s : State) (r : Req) : (s.wrote r).hostOut = s.hostOut := (congrArg State.hostOut (wrote_onlyMem s r) :)

@[simp] theorem wrote_rets (s : State) (r : Req) : (s.wrote r).rets = s.rets := (congrArg State.rets (wrote_onlyMem s r) :)

@[simp] theorem wrote_conts (s : State) (r : Req) : (s.wrote r).conts = s.conts := (congrArg State.conts (wrote_onlyMem s r) :)

@[simp] theorem wrote_cores (s : State) (r : Req) : (s.wrote r).cores = s.cores := (congrArg State.cores (wrote_onlyMem s r) :)

@[simp] theorem wrote_hub (s : State) (r : Req) : (s.wrote r).hub = s.hub := (congrArg State.hub (wrote_onlyMem s r) :)

/-- An atomic leaves the value that it writes in its place, or the old one. -/
theorem wrote_stored (s : State) (r : Req) : let old := s.num r.tgt.key r.w
    Stored s (s.wrote r) ((List.range r.w).map (r.tgt.key + ·)) (leBytes r.w ((r.op.effect r.w old r.b r.c).1.getD old)) := by
  intro old
  unfold State.wrote
  cases (r.op.effect r.w old r.b r.c).1 with
  | none => exact num_stored s r.tgt.key r.w
  | some v =>
    have put := put_stored s r.tgt.key (leBytes r.w v)
    rwa [leBytes_length] at put

/-- Outside regions of carried rime bytes are written as they are. -/
theorem putTarget_plain (s : State) (ctx : Nat) (va : Word) {t : Target} (bs : List Byte) (h : t.rc = false) :
    s.putTarget ctx va t bs = s.put t.key bs := by
  rw [State.putTarget, h]; rfl

/-- Bytes outside HBM and deep memory are none of an entry's. -/
theorem reform_high (s : State) (ks : List Nat) (h : ∀ k ∈ ks, 1 < keySpace k) : s.reform ks = s := by
  have none : ks.filter (keySpace · ≤ 1) = [] := by
    rw [List.filter_eq_nil_iff]
    intro k hk
    have := h k hk
    simp only [decide_eq_true_eq]; omega
  rw [State.reform, none]; rfl

/-- The keys of host memory lie above those of HBM and deep memory. -/
theorem keySpace_host {t : Target} (h : t.cls = 3) (k : Nat) : 1 < keySpace (t.key + k) := by
  have key : t.key = 2 * 2 ^ 80 + t.addr := by unfold Target.key; rw [h]; rfl
  rw [keySpace, key, Nat.lt_div_iff_mul_lt (by decide)]
  omega

/-- An atomic where no entry is to be formed and no rime is carried: the place written, the continuation, the old value given back (R208). -/
theorem performAtomic_plain (s : State) (r : Req) (formed : s.reform ((List.range r.w).map (r.tgt.key + ·)) = s) (rc : r.tgt.rc = false)
    (time : ∀ c, r.org.core = some c → s.storeTime c r.tgt.key = s) :
    let old := s.num r.tgt.key r.w
    s.performAtomic r = (((if (r.op.effect r.w old r.b r.c).2 = true then (s.wrote r).sendAtomicCont r.tgt r.k (BitVec.ofNat 64 old) r.org
      else s.wrote r).sealPhase r.org).giveBack r old) := by
  simp only [State.performAtomic, formed, State.wrote, putTarget_plain _ _ _ _ rc]
  cases e : r.org.core with
  | none => rfl
  | some c => simp only [time c e] <;> rfl

/-- An atomic of the host performed at its slice: the place written, and the old value read (R160). -/
theorem performAtomic_host (s : State) (r : Req) (formed : s.reform ((List.range r.w).map (r.tgt.key + ·)) = s) (rc : r.tgt.rc = false)
    (core : r.org.core = none) (dest : r.dest = .none) (k : r.k = 0) :
    s.performAtomic r = (s.wrote r).hostRead (leBytes r.w (s.num r.tgt.key r.w)) := by
  rw [performAtomic_plain s r formed rc fun c e => absurd (core.symm.trans e) nofun]
  simp only [State.sendAtomicCont, State.sealPhase, State.giveBack, core, dest, k, contKind]
  simp [State.hostRead]

/-- A read of the host where nothing is poisoned is not reported (R386). -/
theorem hostHurt_clean (s : State) (ks : List Nat) (h : s.poison = []) : s.hostHurt ks = s := by
  have none : (ks.find? fun k => s.poison.contains (granule k)) = none := by rw [List.find?_eq_none, h]; simp
  rw [State.hostHurt, none]

/-- An atomic of the host performed by the hub (R160). -/
theorem hubAtomic_plain (s : State) (r : Req) (ks : List Nat) (clean : s.poison = []) (formed : s.reform ks = s) (rc : r.tgt.rc = false) :
    s.hubAtomic r ks = (s.wrote r).hostRead (leBytes r.w (s.num r.tgt.key r.w)) := by
  simp only [State.hubAtomic, hostHurt_clean s ks clean, formed, State.wrote, putTarget_plain _ _ _ _ rc]
  cases (r.op.effect r.w (s.num r.tgt.key r.w) r.b r.c).1 <;> rfl

/-- The value that FetchAdd, Swap and CAS leave (R160). -/
theorem hostAOp_leaves {op : BitVec 2} (h : op ≠ 3) (w old x y : Nat) : (((hostAOp op.toNat).effect w old x y).1.getD old) =
    if op = 0 then (old + x) % 2 ^ (8 * w) else if op = 1 then x else if old = x then y else old := by
  rcases bitVec2_cases op with rfl | rfl | rfl | e
  · rfl
  · rfl
  · show (if old = x then some y else none).getD old = if old = x then y else old
    split <;> rfl
  · exact absurd e h

/-! Device AtomicOps (R160, R389). -/

/-- An operation sealed into its phase changes cores alone, and no register. -/
theorem sealPhase_onlyCores (s : State) (o : Org) : { s.sealPhase o with cores := s.cores } = s ∧ ∀ j, (s.sealPhase o).regs j = s.regs j := by
  unfold State.sealPhase
  split
  · split
    · refine ⟨rfl, fun j => ?_⟩
      rw [State.irrevocable, State.modPhase, State.regs, State.core_modCore]
      split
      · subst j; rfl
      · rfl
    · exact ⟨rfl, fun _ => rfl⟩
  · exact ⟨rfl, fun _ => rfl⟩

@[simp] theorem sealPhase_hostOut (s : State) (o : Org) : (s.sealPhase o).hostOut = s.hostOut := (congrArg State.hostOut (sealPhase_onlyCores s o).1 :)

@[simp] theorem sealPhase_rets (s : State) (o : Org) : (s.sealPhase o).rets = s.rets := (congrArg State.rets (sealPhase_onlyCores s o).1 :)

@[simp] theorem sealPhase_conts (s : State) (o : Org) : (s.sealPhase o).conts = s.conts := (congrArg State.conts (sealPhase_onlyCores s o).1 :)

@[simp] theorem sealPhase_mem (s : State) (o : Org) : (s.sealPhase o).mem = s.mem := (congrArg State.mem (sealPhase_onlyCores s o).1 :)

/-- The continuation of an AtomicOp is applied by the hub (R160). -/
theorem sendAtomicCont_host (s : State) {t : Target} (w v : Word) (o : Org) (fires : Bool) (h : t.cls = 3) :
    (if fires = true then s.sendAtomicCont t w v o else s) =
      { s with conts := if fires ∧ contKind w ≠ 0 then s.conts ++ [⟨.tdec w v, 0, o, none, (16, 0)⟩] else s.conts } := by
  cases fires with
  | false => rfl
  | true =>
    by_cases k : contKind w = 0
    · simp [State.sendAtomicCont, k]
    · simp [State.sendAtomicCont, k, h]

/-- A completed AtomicOp: its place in host memory, its continuation, and its old value on the way to its register (R160). -/
theorem performAtomic_device (s : State) (r : Req) {core : Nat} {d : SReg} (cls : r.tgt.cls = 3) (rc : r.tgt.rc = false) (dest : r.dest = .sreg core d) :
    let old := s.num r.tgt.key r.w
    let t := s.performAtomic r
    t.hostOut = s.hostOut ∧ t.rets = s.rets ++ [⟨core, [(d, BitVec.ofNat 64 old)]⟩] ∧ (∀ j, t.regs j = s.regs j)
      ∧ t.conts = (if (r.op.effect r.w old r.b r.c).2 ∧ contKind r.k ≠ 0
          then s.conts ++ [⟨.tdec r.k (BitVec.ofNat 64 old), 0, r.org, none, (16, 0)⟩] else s.conts)
      ∧ t.mem = (s.wrote r).mem := by
  have formed : s.reform ((List.range r.w).map (r.tgt.key + ·)) = s := by
    refine reform_high s _ fun k h => ?_
    obtain ⟨i, -, rfl⟩ := List.mem_map.1 h
    exact keySpace_host cls i
  have time (c : Nat) (_ : r.org.core = some c) : s.storeTime c r.tgt.key = s := if_pos (keySpace_host cls 0)
  intro old t
  have e : t = _ := performAtomic_plain s r formed rc time
  rw [sendAtomicCont_host _ _ _ _ _ cls, State.giveBack, dest] at e
  rw [e]
  refine ⟨?_, ?_, fun j => ?_, ?_, ?_⟩
  · simp
  · simp [old]
  · exact ((sealPhase_onlyCores _ r.org).2 j).trans (congrArg (fun l : Tbl Core => (l.get j Core.reset).regs) (wrote_cores s r))
  · simp [old]
  · simp

end Sys2Proof.Machine
end

section
/-! SUPPORT. What the steps of bring-up change (R335). -/
namespace Sys2Proof.Machine

/-! Settings. -/

/-- The cores and the dies are as before, and of the hub nothing is changed but contexts, the machine ring, zones and signals. -/
structure SettingsKept (s t : State) : Prop where
  cores : t.cores = s.cores
  dies : t.dies = s.dies
  hub : { t.hub with ctxs := s.hub.ctxs, mring := s.hub.mring, zones := s.hub.zones, msix := s.hub.msix } = s.hub

theorem SettingsKept.refl (s : State) : SettingsKept s s := ⟨rfl, rfl, rfl⟩

theorem SettingsKept.trans {s t u : State} (a : SettingsKept s t) (b : SettingsKept t u) : SettingsKept s u := by
  refine ⟨b.cores.trans a.cores, b.dies.trans a.dies, ?_⟩
  have first := a.hub
  rw [← b.hub] at first
  exact first

/-- Steps that each keep the settings keep them. -/
theorem SettingsKept.foldl {α : Type} {f : State → α → State} (h : ∀ s a, SettingsKept s (f s a)) (l : List α) (s : State) :
    SettingsKept s (l.foldl f s) := by
  induction l generalizing s with
  | nil => exact .refl s
  | cons a l ih => exact (h s a).trans (ih (f s a))

theorem SettingsKept.put {s t : State} (h : SettingsKept s t) (key : Nat) (bs : List Byte) : SettingsKept s (t.put key bs) := ⟨h.cores, h.dies, h.hub⟩

theorem SettingsKept.signal {s t : State} (h : SettingsKept s t) (v : Nat) : SettingsKept s (t.signal v) := ⟨h.cores, h.dies, h.hub⟩

theorem SettingsKept.ring {s t : State} (h : SettingsKept s t) (f : Hub → MRing) : SettingsKept s (t.modHub fun h => { h with mring := f h }) :=
  ⟨h.cores, h.dies, h.hub⟩

theorem ringPut_settingsKept (s : State) (r : ErrRec) : SettingsKept s (s.ringPut r) := by
  unfold State.ringPut
  extract_lets
  split
  · exact (((SettingsKept.refl s).ring _).put _ _).signal 0
  · exact ((((SettingsKept.refl s).put _ _).ring _).put _ _).signal 0

theorem openRing_settingsKept (s : State) (addr size : Nat) : SettingsKept s (s.openRing addr size) := by
  unfold State.openRing
  extract_lets kept u m
  have opened : SettingsKept s u := (SettingsKept.refl s).ring _
  refine SettingsKept.trans ?_ (.foldl ringPut_settingsKept kept _)
  split
  · exact opened.put _ _
  · exact opened

theorem installMap_settingsKept (s : State) (ctx : Nat) (m : CtxMap) : SettingsKept s (s.installMap ctx m) := ⟨rfl, rfl, rfl⟩

theorem writeZone_settingsKept {s t : State} {z e : Nat} (h : s.writeZone z e = some t) : SettingsKept s t := by
  unfold State.writeZone at h
  extract_lets at h
  split at h
  · cases h; exact ⟨rfl, rfl, rfl⟩
  · cases h

/-- The coolant table written as the configuration gives it (R317). -/
theorem writeZones_settingsKept (l : List (Nat × Nat)) (s : State) :
    SettingsKept s (l.foldl (fun (s : State) p => if p.1 < 260 then (s.writeZone p.1 p.2).getD s else s) s) := by
  refine .foldl (fun s p => ?_) l s
  split
  · cases e : s.writeZone p.1 p.2 with
    | none => exact .refl s
    | some t => exact writeZone_settingsKept e
  · exact .refl s

/-! Dies. -/

/-- Each of the first n dies changed by a function of its own. -/
theorem foldl_modDie (f : Nat → Die → Die) (n : Nat) (s : State) :
    let t := (List.range n).foldl (fun (s : State) d => s.modDie d (f d)) s
    t.hub = s.hub ∧ t.cores = s.cores ∧ ∀ d, t.die d = if d < n then f d (s.die d) else s.die d := by
  induction n with
  | zero => exact ⟨rfl, rfl, fun d => (if_neg (Nat.not_lt_zero d)).symm⟩
  | succ n ih =>
    obtain ⟨hub, cores, dies⟩ := ih
    simp only [List.range_succ, List.foldl_append, List.foldl_cons, List.foldl_nil]
    refine ⟨hub, cores, fun d => ?_⟩
    by_cases e : d = n
    · subst e
      rw [State.die_modDie_same, dies, if_neg (Nat.lt_irrefl d), if_pos (Nat.lt_succ_self d)]
    · rw [State.die_modDie_other _ _ e, dies]
      simp only [show d < n + 1 ↔ d < n by omega]

/-! The steps. -/

/-- Step 4 sets the cluster capabilities of the eight dies (R323). -/
theorem bringClusters_does (s : State) (cfg : BootConfig) :
    let t := s.bringClusters cfg
    t.hub = s.hub ∧ t.cores = s.cores ∧ ∀ d, d < 8 → t.die d = { s.die d with
      wide := cfg.wide.getD d 0xFFFF, thr := cfg.thr.getD d 0, off := cfg.off.getD d 0 } := by
  obtain ⟨hub, cores, dies⟩ := foldl_modDie (fun d x => { x with wide := cfg.wide.getD d 0xFFFF, thr := cfg.thr.getD d 0, off := cfg.off.getD d 0 }) 8 s
  exact ⟨hub, cores, fun d h => (dies d).trans (if_pos h)⟩

/-- The hub after step 5, but for contexts, the machine ring, zones and signals. -/
def Hub.configured (h : Hub) (cfg : BootConfig) : Hub :=
  { h with
    balance := min 6400 cfg.balance
    govern := min 6400 cfg.balance
    floor := min cfg.floor (min 6400 cfg.balance)
    flowcap := cfg.flowcap
    ttarget := cfg.ttarget
    slotsz := cfg.slotsz }

/-- Step 5 sets what the configuration gives (R308, R317, R330, R360). -/
theorem bringTables_does (s : State) (cfg : BootConfig) :
    let t := s.bringTables cfg
    { t.hub with ctxs := s.hub.ctxs, mring := s.hub.mring, zones := s.hub.zones, msix := s.hub.msix } = s.hub.configured cfg
      ∧ t.cores = s.cores ∧ ∀ d, d < 8 → t.die d = { s.die d with qovf := cfg.qovf } := by
  intro t
  have e : s.bringTables cfg = t := rfl
  unfold State.bringTables at e
  extract_lets u v x y m at e
  have hubU : u.hub = s.hub.configured cfg := rfl
  obtain ⟨hubV, coresV, diesV⟩ := foldl_modDie (fun _ x => { x with qovf := cfg.qovf }) 8 u
  have kept : SettingsKept v y := (writeZones_settingsKept cfg.cool v).trans (openRing_settingsKept x cfg.ringAddr cfg.ringSize)
  have all : SettingsKept v t := by
    rw [← e]
    split
    · exact kept
    · exact kept.trans (installMap_settingsKept y 0 m)
  refine ⟨?_, all.cores.trans coresV, fun d h => ?_⟩
  · have hub := all.hub
    rw [hubV, hubU] at hub
    exact hub
  · have die : t.die d = v.die d := congrArg (fun l : Tbl Die => l.get d Die.reset) all.dies
    rw [die, diesV d, if_pos h]; rfl

theorem loadRoutes_hub (s : State) : s.loadRoutes.hub = { s.hub with routes := routesOf s.hub.module s.hub.links } := rfl

/-- Step 6 sets the module's number, its channels, its routes and the modules that these lose (R335, R431). -/
theorem bringPorts_hub (s : State) (cfg : BootConfig) : ∃ lost, (s.bringPorts cfg).hub = { s.hub with
    module := cfg.module % 2048
    links := wholeFabric (cfg.module % 2048) cfg.links
    routes := routesOf (cfg.module % 2048) (wholeFabric (cfg.module % 2048) cfg.links)
    lostMods := lost } := by
  rw [State.bringPorts]
  generalize State.cutOff _ = l
  rw [State.hub_modHub, loadRoutes_hub, State.hub_modHub]
  exact ⟨_, rfl⟩

theorem bringPorts_cores (s : State) (cfg : BootConfig) : (s.bringPorts cfg).cores = s.cores := by
  rw [State.bringPorts, State.modHub_cores, State.loadRoutes, State.modHub_cores, State.modHub_cores]

theorem bringPorts_dies (s : State) (cfg : BootConfig) : (s.bringPorts cfg).dies = s.dies := by
  rw [State.bringPorts, State.modHub_dies, State.loadRoutes, State.modHub_dies, State.modHub_dies]

/-! The whole sequence. -/

/-- Steps 4 to 6 as far as they are reached before a step that fails, 0 where none does. -/
def State.brought (s : State) (cfg : BootConfig) (fail : Nat) : State :=
  let reached (n : Nat) : Bool := decide (fail = 0 ∨ n < fail)
  let s := if reached 4 then s.bringClusters cfg else s
  let s := if reached 5 then s.bringTables cfg else s
  if reached 6 then s.bringPorts cfg else s

/-- POWER_GOOD in a module that is not yet up. -/
theorem powerGood_eq (s : State) (cfg : BootConfig) (ready : s.hub.ready = false) (recovery : s.hub.recovery = false) (booterr : s.hub.booterr = 0) :
    exec (.powerGood cfg) s = .next (
      let t := s.brought cfg (s.failingStep cfg)
      if s.failingStep cfg = 0 then t.modHub fun h => { h with ready := true }
      else t.modHub fun h => { h with booterr := s.failingStep cfg + 256 * (cfg.failCause % 256), recovery := decide (s.failingStep cfg ≤ 2) }) := by
  show execPowerGood cfg s = _
  rw [execPowerGood, if_neg (by simp [ready, recovery, booterr])]
  rfl

/-- Steps 4 to 6 report nothing: neither READY nor BOOTERR nor RECOVERY is set before the end. -/
theorem brought_status (s : State) (cfg : BootConfig) (fail : Nat) :
    (s.brought cfg fail).hub.ready = s.hub.ready ∧ (s.brought cfg fail).hub.booterr = s.hub.booterr := by
  have clusters : (s.bringClusters cfg).hub = s.hub := (bringClusters_does s cfg).1
  have tables (u : State) : (u.bringTables cfg).hub.ready = u.hub.ready ∧ (u.bringTables cfg).hub.booterr = u.hub.booterr := by
    have hub := (bringTables_does u cfg).1
    exact ⟨(congrArg Hub.ready hub :), (congrArg Hub.booterr hub :)⟩
  have ports (u : State) : (u.bringPorts cfg).hub.ready = u.hub.ready ∧ (u.bringPorts cfg).hub.booterr = u.hub.booterr := by
    obtain ⟨lost, hub⟩ := bringPorts_hub u cfg
    exact ⟨(congrArg Hub.ready hub :), (congrArg Hub.booterr hub :)⟩
  unfold State.brought
  extract_lets reached u v
  have hu : u.hub = s.hub := by
    show (if reached 4 then s.bringClusters cfg else s).hub = _
    split
    · exact clusters
    · rfl
  have hv : v.hub.ready = s.hub.ready ∧ v.hub.booterr = s.hub.booterr := by
    rw [← hu]
    show (if reached 5 then u.bringTables cfg else u).hub.ready = _ ∧ (if reached 5 then u.bringTables cfg else u).hub.booterr = _
    split
    · exact tables u
    · exact ⟨rfl, rfl⟩
  split
  · exact ⟨(ports v).1.trans hv.1, (ports v).2.trans hv.2⟩
  · exact hv

/-! The step that fails. -/

theorem failingStep_first {s : State} (cfg : BootConfig) (h : ¬ (s.goodImage 0).isSome = true) : s.failingStep cfg = 1 := by
  rw [State.failingStep, if_pos (by simpa using h)]

theorem failingStep_second {s : State} (cfg : BootConfig) (first : (s.goodImage 0).isSome = true)
    (h : ∃ n, 1 ≤ n ∧ n < 8 ∧ ¬ (s.goodImage n).isSome = true) : s.failingStep cfg = 2 := by
  obtain ⟨n, lo, hi, bad⟩ := h
  rw [State.failingStep, if_neg (by simpa [Option.isSome_iff_ne_none] using first), if_pos]
  rw [List.any_eq_true]
  refine ⟨n - 1, List.mem_range.2 (by omega), ?_⟩
  rw [Nat.sub_add_cancel lo]; simpa using bad

/-- Where every image verifies, the configuration's sizes and the tests say which step fails. -/
theorem failingStep_images {s : State} (cfg : BootConfig) (h : ∀ n, n < 8 → (s.goodImage n).isSome = true) :
    s.failingStep cfg =
      let given := if 3 ≤ cfg.failStep ∧ cfg.failStep ≤ 7 then cfg.failStep else 0
      if bootSizesOk cfg ∨ given = 3 ∨ given = 4 then given else 5 := by
  have good (n : Nat) (l : n < 8) : (s.goodImage n).isNone = false := by
    have := h n l
    simpa [Option.isSome_iff_ne_none] using this
  have rest : ((List.range 7).any fun n => (s.goodImage (n + 1)).isNone) = false := by
    rw [List.any_eq_false]
    intro n m
    rw [good (n + 1) (by have := List.mem_range.1 m; omega)]; exact Bool.false_ne_true
  rw [State.failingStep, good 0 (by decide), rest]
  rfl

/-- A later step that the tests name fails, step 5 or a later one only where the sizes let step 5 be passed. -/
theorem failingStep_tests {s : State} (cfg : BootConfig) (all : ∀ n, n < 8 → (s.goodImage n).isSome = true) (lo : 3 ≤ cfg.failStep) (hi : cfg.failStep ≤ 7)
    (h : cfg.failStep ≤ 4 ∨ bootSizesOk cfg = true) : s.failingStep cfg = cfg.failStep := by
  simp only [failingStep_images cfg all, if_pos (show 3 ≤ cfg.failStep ∧ cfg.failStep ≤ 7 from ⟨lo, hi⟩)]
  refine if_pos ?_
  rcases h with early | ok
  · exact .inr (by omega)
  · exact .inl ok

/-- Sizes out of range make step 5 fail where neither step 3 nor step 4 does. -/
theorem failingStep_sizes {s : State} (cfg : BootConfig) (all : ∀ n, n < 8 → (s.goodImage n).isSome = true) (three : cfg.failStep ≠ 3) (four : cfg.failStep ≠ 4)
    (h : ¬ bootSizesOk cfg = true) : s.failingStep cfg = 5 := by
  simp only [failingStep_images cfg all]
  refine if_neg ?_
  rintro (ok | e | e)
  · exact h ok
  all_goals
    split at e <;> omega

/-- No step fails where the tests name none and the sizes are in range. -/
theorem failingStep_none {s : State} (cfg : BootConfig) (all : ∀ n, n < 8 → (s.goodImage n).isSome = true) (none : cfg.failStep < 3 ∨ 7 < cfg.failStep)
    (h : bootSizesOk cfg = true) : s.failingStep cfg = 0 := by
  simp only [failingStep_images cfg all, if_neg (show ¬ (3 ≤ cfg.failStep ∧ cfg.failStep ≤ 7) by omega)]
  exact if_pos (.inl h)

/-- The sizes that step 5 takes: rings of 64 to 1,048,576 records, slots of one to eight times 65,536 bytes (R302, R360). -/
theorem bootSizesOk_iff (cfg : BootConfig) : bootSizesOk cfg = true ↔
    (∃ n, 6 ≤ n ∧ n ≤ 20 ∧ cfg.ringSize = 2 ^ n) ∧ ∃ n, 1 ≤ n ∧ n ≤ 8 ∧ cfg.slotsz = 65536 * n := by
  have ring : ((List.range 15).any fun n => cfg.ringSize == 2 ^ (n + 6)) = true ↔ ∃ n, 6 ≤ n ∧ n ≤ 20 ∧ cfg.ringSize = 2 ^ n := by
    rw [List.any_eq_true]
    constructor
    · rintro ⟨n, m, e⟩
      have := List.mem_range.1 m
      exact ⟨n + 6, by omega, by omega, by simpa using e⟩
    · rintro ⟨n, lo, hi, e⟩
      exact ⟨n - 6, List.mem_range.2 (by omega), by rw [Nat.sub_add_cancel lo]; simpa using e⟩
  have slot : (cfg.slotsz % 65536 = 0 ∧ 65536 ≤ cfg.slotsz ∧ cfg.slotsz ≤ 8 * 65536) ↔ ∃ n, 1 ≤ n ∧ n ≤ 8 ∧ cfg.slotsz = 65536 * n := by
    constructor
    · intro ⟨a, b, c⟩
      exact ⟨cfg.slotsz / 65536, by omega, by omega, by omega⟩
    · rintro ⟨n, lo, hi, e⟩
      omega
  rw [bootSizesOk, Bool.and_eq_true, Bool.and_eq_true, ring, and_assoc, beq_iff_eq, decide_eq_true_eq, slot]

/-! The outcomes. -/

/-- A step that fails: BOOTERR names it and its cause, and RECOVERY is set at steps 1 and 2 (R335). -/
theorem powerGood_fails {s : State} {cfg : BootConfig} (ready : s.hub.ready = false) (recovery : s.hub.recovery = false) (booterr : s.hub.booterr = 0)
    {n : Nat} (pos : n ≠ 0) (h : s.failingStep cfg = n) :
    ∃ t, exec (.powerGood cfg) s = .next t ∧ t.hub.ready = false ∧ t.hub.booterr = n + 256 * (cfg.failCause % 256) ∧ t.hub.recovery = decide (n ≤ 2) := by
  refine ⟨_, powerGood_eq s cfg ready recovery booterr, ?_⟩
  simp only [h, if_neg pos]
  exact ⟨(brought_status s cfg n).1.trans ready, rfl, rfl⟩

/-- No step fails: the module is up, with what its configuration gives (R335). -/
theorem powerGood_succeeds {s : State} {cfg : BootConfig} (ready : s.hub.ready = false) (recovery : s.hub.recovery = false) (booterr : s.hub.booterr = 0)
    (h : s.failingStep cfg = 0) : ∃ t, exec (.powerGood cfg) s = .next t ∧ t.hub.ready = true
      ∧ t.hub.booterr = 0 ∧ t.hub.module = cfg.module % 2048 ∧ t.hub.balance = min 6400 cfg.balance ∧ t.hub.govern = min 6400 cfg.balance
      ∧ t.hub.floor ≤ t.hub.balance ∧ t.hub.flowcap = cfg.flowcap ∧ t.hub.slotsz = cfg.slotsz
      ∧ t.hub.links = wholeFabric (cfg.module % 2048) cfg.links ∧ t.hub.routes = routesOf (cfg.module % 2048) t.hub.links
      ∧ (∀ d, d < 8 → t.die d = { s.die d with
          wide := cfg.wide.getD d 0xFFFF, thr := cfg.thr.getD d 0, off := cfg.off.getD d 0, qovf := cfg.qovf })
      ∧ ∀ c, t.core c = s.core c := by
  refine ⟨_, powerGood_eq s cfg ready recovery booterr, ?_⟩
  have status := (brought_status s cfg 0).2
  have whole : s.brought cfg 0 = ((s.bringClusters cfg).bringTables cfg).bringPorts cfg := rfl
  rw [h]
  obtain ⟨hubA, coresA, diesA⟩ := bringClusters_does s cfg
  generalize s.bringClusters cfg = a at whole hubA coresA diesA
  obtain ⟨hubB, coresB, diesB⟩ := bringTables_does a cfg
  generalize a.bringTables cfg = b at whole hubB coresB diesB
  obtain ⟨lost, hubC⟩ := bringPorts_hub b cfg
  have coresC := bringPorts_cores b cfg
  have diesC := bringPorts_dies b cfg
  rw [← whole] at hubC coresC diesC
  generalize s.brought cfg 0 = t at *
  have balance : b.hub.balance = min 6400 cfg.balance := (congrArg Hub.balance hubB :)
  have govern : b.hub.govern = min 6400 cfg.balance := (congrArg Hub.govern hubB :)
  have floor : b.hub.floor = min cfg.floor (min 6400 cfg.balance) := (congrArg Hub.floor hubB :)
  have flowcap : b.hub.flowcap = cfg.flowcap := (congrArg Hub.flowcap hubB :)
  have slotsz : b.hub.slotsz = cfg.slotsz := (congrArg Hub.slotsz hubB :)
  simp only [if_true, State.hub_modHub, State.die_modHub, State.core_modHub]
  refine ⟨trivial, status.trans booterr, ?_, ?_, ?_, ?_, ?_, ?_, ?_, ?_, fun d l => ?_, fun c => ?_⟩
  case refine_9 =>
    have die : t.die d = b.die d := congrArg (fun l : Tbl Die => l.get d Die.reset) diesC
    rw [die, diesB d l, diesA d l]
  case refine_10 => exact congrArg (fun l : Tbl Core => l.get c Core.reset) ((coresC.trans coresB).trans coresA)
  all_goals rw [hubC]
  · exact balance
  · exact govern
  · show b.hub.floor ≤ b.hub.balance
    rw [floor, balance]; exact Nat.min_le_right _ _
  · exact flowcap
  · exact slotsz

end Sys2Proof.Machine
end

section
/-! SUPPORT. The host link: windows, ports, AtomicOps of the host, and what travels to it (R160, R328, R329, R389, R393). -/
namespace Sys2Proof.Machine

/-! Windows and ports. -/

theorem hostOpen_iff (s : State) : s.hostOpen = true ↔ s.hub.ready = true ∧ s.hub.fenced = false := by simp [State.hostOpen]

theorem hosts_iff (s : State) (c : Nat) : s.hosts c = true ↔ (s.ctx c).resident = true ∧ (s.ctx c).kill = .none := by simp [State.hosts]

/-- A port takes no value where its context takes no accesses or is frozen, or where reserved bits are set (R329). -/
theorem portShut_iff (s : State) (c : Nat) (v : Word) :
    s.portShut c v = true ↔ s.hosts c = false ∨ (s.ctx c).frozen = true ∨ v &&& 0xFFFF00000000007F ≠ 0 := by
  simp [State.portShut, or_assoc]

/-- WINN_WRITE outside recovery (R328). -/
theorem winnWrite_does (s : State) (n : Nat) (v : Word) (h : n < 16) (recovery : s.hub.recovery = false) :
    exec (.winnWrite n v) s = .next (s.modHub fun h => { h with
      wins := h.wins.set n ⟨v.getLsbD 63 && v.toNat % 16 != 0, v.toNat / 16 % 4096, v.toNat % 16⟩ }) := by
  show execWinnWrite n v s = _
  rw [execWinnWrite, if_neg (by simp [recovery]; omega)]

/-- DECREMENT_PORT_WRITE behind an AtomicOp of the host waits (R154). -/
theorem decrementPortWrite_waits (s : State) (c : Nat) (v : Word) (h : s.hostParked = true) : exec (.decrementPortWrite c v) s = .next s := by
  show execDecrementPortWrite c v s = _
  rw [execDecrementPortWrite, if_pos (.inr h)]

/-- DECREMENT_PORT_WRITE to one of the 16 ports (R31, R329). -/
theorem decrementPortWrite_eq (s : State) (c : Nat) (v : Word) (h : c < 16) (free : s.hostParked = false) : exec (.decrementPortWrite c v) s =
    .next (if c = 0 ∨ s.hostOpen = false ∨ s.portShut c v = true then s.hostDrop 3 v else s.portDec c v) := by
  show execDecrementPortWrite c v s = _
  rw [execDecrementPortWrite, if_neg (by simp [free]; omega)]
  simp only [Bool.not_eq_true']

/-- A port takes a value as a decrement of the record that it names by one (R31). -/
theorem decrementPortWrite_taken {s : State} {c : Nat} {v : Word} (h : c < 16) (free : s.hostParked = false) (zero : c ≠ 0) (op : s.hostOpen = true)
    (takes : s.hosts c = true) (thawed : (s.ctx c).frozen = false) (clear : v &&& 0xFFFF00000000007F = 0) :
    exec (.decrementPortWrite c v) s = .next (s.portDec c v) := by
  have goes : ¬ (c = 0 ∨ s.hostOpen = false ∨ s.portShut c v = true) := by
    rw [portShut_iff, op, takes, thawed, clear]; simpa using zero
  rw [decrementPortWrite_eq s c v h free, if_neg goes]

/-- Another value is dropped (R329). -/
theorem decrementPortWrite_dropped {s : State} {c : Nat} {v : Word} (h : c < 16) (free : s.hostParked = false)
    (shut : c = 0 ∨ s.hostOpen = false ∨ s.hosts c = false ∨ (s.ctx c).frozen = true ∨ v &&& 0xFFFF00000000007F ≠ 0) :
    exec (.decrementPortWrite c v) s = .next (s.hostDrop 3 v) := by
  rw [← portShut_iff] at shut
  rw [decrementPortWrite_eq s c v h free, if_pos shut]

/-- The window of an access and its virtual address (R328). -/
def State.winOf (s : State) (off : Nat) : Win := s.hub.wins.get (off / 2 ^ 32 % 16) ⟨false, 0, 0⟩

/-- See `State.winOf`. -/
def State.winVa (s : State) (off : Nat) : Word := BitVec.ofNat 64 ((s.winOf off).vreg * 2 ^ 32 + off % 2 ^ 32)

/-- A window that is closed (R328). -/
theorem window_closed (s : State) (off n : Nat) (acc : Acc) (h : s.hostOpen = false ∨ (s.winOf off).en = false) : s.window off n acc = .error 0 := by
  rw [State.winOf] at h
  rw [State.window, if_pos (by simpa using h)]

/-- An open window whose context takes no accesses. -/
theorem window_absent (s : State) (off n : Nat) (acc : Acc) (o : s.hostOpen = true) (en : (s.winOf off).en = true) (h : s.hosts (s.winOf off).ctx = false) :
    s.window off n acc = .error 2 := by
  rw [State.winOf] at en h
  simp only [State.window, o, en, h]; rfl

/-- An open window, and bytes that lie in its context's map. -/
theorem window_mapped (s : State) (off n : Nat) (acc : Acc) {ks : List Nat} (o : s.hostOpen = true) (en : (s.winOf off).en = true)
    (h : s.hosts (s.winOf off).ctx = true) (keys : s.spanKeys 0 (s.winOf off).ctx .g (s.winVa off) n acc = .ok ks) :
    s.window off n acc = .ok ((s.winOf off).ctx, s.winVa off, ks) := by
  rw [State.winVa, State.winOf] at keys
  rw [State.winOf] at en h
  simp only [State.window, o, en, h, keys]; rfl

/-- An open window, and bytes of which one does not lie in its context's map. -/
theorem window_unmapped (s : State) (off n : Nat) (acc : Acc) {e : Nat × Word} (o : s.hostOpen = true) (en : (s.winOf off).en = true)
    (h : s.hosts (s.winOf off).ctx = true) (keys : s.spanKeys 0 (s.winOf off).ctx .g (s.winVa off) n acc = .error e) :
    s.window off n acc = .error 1 := by
  rw [State.winVa, State.winOf] at keys
  rw [State.winOf] at en h
  simp only [State.window, o, en, h, keys]; rfl

/-- The pieces of bytes that lie in one sector. -/
theorem sectorRuns_one (fuel a : Nat) {bs : List Byte} (some : bs ≠ []) (h : a % 32 + bs.length ≤ 32) : sectorRuns (fuel + 1) a bs = [(a, bs)] := by
  have whole : bs.length ≤ 32 - a % 32 := by omega
  have last : sectorRuns fuel (a - a % 32 + 32) [] = [] := by cases fuel <;> rfl
  rw [sectorRuns, if_neg some, List.take_of_length_le whole, List.drop_of_length_le whole, last]

/-- What stands between an access of a window and its effect: its bytes lie within BAR 2, and nothing of the host is parked (R154). -/
structure Bar2Goes (s : State) (off n : Nat) : Prop where
  inside : off + n ≤ 2 ^ 36
  some : n ≠ 0
  free : s.hostParked = false

theorem Bar2Goes.passes {s : State} {off n : Nat} (h : Bar2Goes s off n) : ¬ (2 ^ 36 < off + n ∨ n = 0 ∨ s.hostParked = true) := by
  have := h.inside
  have := h.some
  simp only [h.free, Bool.false_eq_true, or_false]; omega

/-- A dropped access of a window (R328). -/
theorem bar2Access_dropped {s : State} {off kind : Nat} {bytes : List Byte} (write : Bool) (go : Bar2Goes s off bytes.length)
    (h : s.window off bytes.length (if write then .write else .read) = .error kind) :
    exec (.bar2Access off write bytes) s = .next (if write = true then s.hostDrop kind (BitVec.ofNat 64 off)
      else (s.hostDrop kind (BitVec.ofNat 64 off)).hostRead (List.replicate bytes.length 0xFF)) := by
  show execBar2Access off write bytes s = _
  rw [execBar2Access]
  simp only [if_neg go.passes, h]

/-- A read of bytes of this module and of the host (R328). -/
theorem bar2Access_reads {s : State} {off : Nat} {bytes ks} (go : Bar2Goes s off bytes.length) {c : Nat} {va : Word}
    (h : s.window off bytes.length .read = .ok (c, va, ks)) (free : s.behindParked ks = false) (clean : s.poison = [])
    (near : ∀ k ∈ ks, keySpace k ≠ 8 ∧ s.unformed (k / 256) = none) :
    exec (.bar2Access off false bytes) s = .next (s.hostRead (ks.map (Memory.read s.mem))) := by
  have own : ks.map (fun k => if keySpace k = 8 then 0 else Memory.read s.mem k) = ks.map (Memory.read s.mem) :=
    List.map_congr_left fun k m => if_neg (near k m).1
  have far : ks.filter (keySpace · == 8) = [] := by
    rw [List.filter_eq_nil_iff]
    intro k m; simpa using (near k m).1
  have load : s.windowLoad c va ks = s.hostRead (ks.map (Memory.read s.mem)) := by
    rw [State.windowLoad, hostHurt_clean s ks clean, State.reform_formed s ks fun k m => (near k m).2]
    simp only [own, far]; rfl
  show execBar2Access off false bytes s = _
  rw [execBar2Access]
  simp only [if_neg go.passes, Bool.false_eq_true, if_false, h, free, load]

/-- A write of bytes of one sector, to a region without carried rime, of this module or of a host whose link is up (R154, R328). -/
theorem bar2Access_writes {s : State} {off : Nat} {bytes ks} (go : Bar2Goes s off bytes.length) {c : Nat} {va : Word}
    (h : s.window off bytes.length .write = .ok (c, va, ks)) (free : s.behindParked ks = false) {t : Target}
    (tr : s.translate c va .write = .ok t) (near : t.cls < 3 ∨ (t.cls = 3 ∧ s.hub.pcieUp = true)) (rc : t.rc = false)
    (one : va.toNat % 32 + bytes.length ≤ 32) :
    exec (.bar2Access off true bytes) s = .next (s.put t.key bytes) := by
  have piece : sectorRuns (bytes.length + 1) va.toNat bytes = [(va.toNat, bytes)] :=
    sectorRuns_one _ _ (fun e => go.some (by rw [e]; rfl)) one
  have store : s.windowStore c (va.toNat, bytes) = s.put t.key bytes := by
    have here : t.cls ≠ 4 := by omega
    have up : ¬ (t.cls = 3 ∧ (!s.hub.pcieUp) = true) := by
      rcases near with n | ⟨-, n⟩
      · omega
      · simp [n]
    simp only [State.windowStore, BitVec.ofNat_toNat, BitVec.setWidth_eq, tr, if_neg here, if_neg up, putTarget_plain s c va bytes rc]
  show execBar2Access off true bytes s = _
  rw [execBar2Access]
  simp only [if_neg go.passes, if_true, h, free, piece, List.foldl_cons, List.foldl_nil, store, Bool.false_eq_true, if_false]

/-! AtomicOps of the host. -/

/-- The request that an AtomicOp of the host makes (R160). -/
def hostReq (op : BitVec 2) (c : Nat) (va : Word) (t : Target) (n a b : Nat) : Req :=
  ⟨hostAOp op.toNat, va, t, n, a % 2 ^ (8 * n), b % 2 ^ (8 * n), 0, .none, hostOrg c, false⟩

/-- An AtomicOp of a size and at an alignment of R160, through a window that leads to the keys ks in a context, to a target that its region permits. -/
structure HostAtomicGoes (s : State) (off : Nat) (op : BitVec 2) (n c : Nat) (va : Word) (ks : List Nat) (t : Target) : Prop where
  bar2 : Bar2Goes s off n
  size : n = 4 ∨ n = 8 ∨ (n = 16 ∧ op = 2)
  code : op ≠ 3
  aligned : off % n = 0
  window : s.window off n .atomic = .ok (c, va, ks)
  place : s.translate c va .atomic = .ok t

section
variable {s : State} {off n c : Nat} {op : BitVec 2} {va : Word} {ks : List Nat} {t : Target}

/-- Where such an AtomicOp is performed: at its home slice, by the hub, or by messages to another module. -/
theorem hostAtomicop_eq (h : HostAtomicGoes s off op n c va ks t) (a b : Nat) :
    exec (.hostAtomicop off op n a b) s = .next (
      if t.ms then s.arriveReq (hostReq op c va t n a b)
      else if s.behindParked ks then s
      else if t.cls = 4 then
        (if s.remotes.any (fun q => q.rmw.isSome) then s
          else s.hostLoad t va n 0 (hostOrg c) (some (hostAOp op.toNat, a % 2 ^ (8 * n), b % 2 ^ (8 * n))))
      else s.hubAtomic (hostReq op c va t n a b) ks) := by
  have good : ((n == 4 || n == 8 || (n == 16 && op == 2)) && op != 3) = true := by
    have other : (op != 3) = true := by simpa using h.code
    rw [other]
    rcases h.size with rfl | rfl | ⟨rfl, rfl⟩ <;> rfl
  have pass : ¬ ((!((n == 4 || n == 8 || (n == 16 && op == 2)) && op != 3)) = true ∨ 2 ^ 36 < off + n ∨ off % n ≠ 0 ∨ s.hostParked = true) := by
    have := h.bar2.inside
    simp only [good, h.bar2.free, h.aligned, Bool.not_true, Bool.false_eq_true, false_or, or_false, ne_eq, not_true_eq_false]; omega
  show execHostAtomicop off op n a b s = _
  rw [execHostAtomicop]
  simp only [if_neg pass, h.window, h.place]
  rfl

end

theorem hostAOp_cases (op : BitVec 2) : hostAOp op.toNat = .amo 0 ∨ hostAOp op.toNat = .amo 8 ∨ hostAOp op.toNat = .cas := by
  unfold hostAOp; split <;> simp

theorem hostAOp_eq {op : BitVec 2} (h : op ≠ 3) : (if op = 0 then AOp.amo 0 else if op = 1 then .amo 8 else .cas) = hostAOp op.toNat := by
  rcases bitVec2_cases op with rfl | rfl | rfl | e
  · rfl
  · rfl
  · rfl
  · exact absurd e h

/-- A request that meets a damaged line, or one at which others are parked, is parked in a free entry of its slice's fault queue (R387). -/
theorem arriveReq_parks (s : State) (r : Req) (bad : s.lineBad r.tgt.key = true ∨ s.behindParked [r.tgt.key] = true) (room : s.freeEntry r.tgt.key < 16)
    (wait : (s.die (keyDie r.tgt.key)).atomwait ≠ 0) : (s.arriveReq r).parked = s.parked ++ [⟨r, s.frame, s.freeEntry r.tgt.key⟩] := by
  have full : ¬ (s.freeEntry r.tgt.key ≥ 16 ∨ (s.die (keyDie r.tgt.key)).atomwait = 0) := by omega
  simp only [State.arriveReq, Bool.or_eq_true, if_pos bad, if_neg full, post_parked]

/-- Another is performed. -/
theorem arriveReq_performs (s : State) (r : Req) (clean : s.poison = []) (free : s.behindParked [r.tgt.key] = false) : s.arriveReq r = s.performReq r := by
  have good : s.lineBad r.tgt.key = false := by rw [State.lineBad, State.damaged, clean]; rfl
  simp only [State.arriveReq, good, free]; rfl

/-- Requests are parked at the line of a byte, or at that of one of others. -/
theorem behindParked_cons {s : State} {k : Nat} {ks : List Nat} (h : s.behindParked (k :: ks) = false) :
    s.behindParked [k] = false ∧ s.behindParked ks = false := by
  simp only [State.behindParked, List.any_eq_false, List.any_cons, List.any_nil, Bool.or_false, Bool.or_eq_true, not_or, Bool.not_eq_true] at h ⊢
  exact ⟨fun p m => (h p m).1, fun p m => (h p m).2⟩

section
variable {s : State} {off n c : Nat} {op : BitVec 2} {va : Word} {ks : List Nat} {t : Target}

/-- An AtomicOp of the host on memory-side memory that meets damage or a parked request is parked (R387). -/
theorem hostAtomicop_parks (h : HostAtomicGoes s off op n c va ks t) (a b : Nat) (ms : t.ms = true)
    (bad : s.lineBad t.key = true ∨ s.behindParked [t.key] = true) (room : s.freeEntry t.key < 16) (wait : (s.die (keyDie t.key)).atomwait ≠ 0) :
    ∃ u, exec (.hostAtomicop off op n a b) s = .next u ∧ u.parked = s.parked ++ [⟨hostReq op c va t n a b, s.frame, s.freeEntry t.key⟩] := by
  refine ⟨_, hostAtomicop_eq h a b, ?_⟩
  rw [ms, if_pos rfl]
  exact arriveReq_parks s (hostReq op c va t n a b) bad room wait

/-- An AtomicOp of the host on another module's memory asks for its bytes, if no other is under way (R160). -/
theorem hostAtomicop_asks (h : HostAtomicGoes s off op n c va ks t) (a b : Nat) (ms : t.ms = false) (far : t.cls = 4) (free : s.behindParked ks = false)
    (none : ∀ r ∈ s.remotes, r.rmw = .none) :
    exec (.hostAtomicop off op n a b) s =
      .next (s.hostLoad t va n 0 (hostOrg c) (some (hostAOp op.toNat, a % 2 ^ (8 * n), b % 2 ^ (8 * n)))) := by
  have idle : (s.remotes.any fun q => q.rmw.isSome) = false := by
    rw [List.any_eq_false]; intro q m; rw [none q m]; exact Bool.false_ne_true
  rw [hostAtomicop_eq h, ms, if_neg Bool.false_ne_true, free, if_neg Bool.false_ne_true, if_pos far, idle, if_neg Bool.false_ne_true]

/-- An AtomicOp of the host on memory of this module or of the host is done at once: its value stands in its place, and the old one is read (R160). -/
theorem hostAtomicop_performs (h : HostAtomicGoes s off op n c va ks t) (a b : Nat) (near : t.cls < 4) (rc : t.rc = false)
    (free : s.behindParked (t.key :: ks) = false) (clean : s.poison = []) (span : ∀ k ∈ ks, s.unformed (k / 256) = none)
    (place : ∀ k, k < n → s.unformed ((t.key + k) / 256) = none) :
    exec (.hostAtomicop off op n a b) s = .next ((s.wrote (hostReq op c va t n a b)).hostRead (leBytes n (s.num t.key n))) := by
  obtain ⟨freeKey, freeSpan⟩ := behindParked_cons free
  have formed : s.reform ((List.range n).map (t.key + ·)) = s := by
    refine State.reform_formed s _ fun k m => ?_
    obtain ⟨i, hi, rfl⟩ := List.mem_map.1 m
    exact place i (List.mem_range.1 hi)
  rw [hostAtomicop_eq h]
  cases t.ms with
  | true =>
    have performed : s.performReq (hostReq op c va t n a b) = s.performAtomic (hostReq op c va t n a b) := by
      simp only [State.performReq, hostReq]
      rcases hostAOp_cases op with e | e | e <;> rw [e]
    rw [if_pos rfl, arriveReq_performs s _ clean freeKey, performed]
    exact congrArg _ (performAtomic_host s _ formed rc rfl rfl rfl)
  | false =>
    rw [if_neg Bool.false_ne_true, freeSpan, if_neg Bool.false_ne_true, if_neg (by omega : t.cls ≠ 4)]
    exact congrArg _ (hubAtomic_plain s _ ks clean (State.reform_formed s ks span) rc)

/-- What FetchAdd, Swap and CAS leave in their place. -/
theorem hostReq_stored (s : State) (code : op ≠ 3) (a b : Nat) :
    let old := s.num t.key n
    let x := a % 2 ^ (8 * n)
    Stored s (s.wrote (hostReq op c va t n a b)) ((List.range n).map (t.key + ·))
      (leBytes n (if op = 0 then (old + x) % 2 ^ (8 * n) else if op = 1 then x else if old = x then b % 2 ^ (8 * n) else old)) := by
  intro old x
  rw [← hostAOp_leaves code n old x]
  exact wrote_stored s (hostReq op c va t n a b)

end

/-! What travels to the host. -/

/-- The first of what travels to the host waits for nothing (R162). -/
theorem hostBlocked_first (s : State) (o : HostOp) : s.hostBlocked 0 o = false := rfl

/-- ATOMICOP_COMPLETION of an AtomicOp that stands first (R160, R389). -/
theorem atomicopCompletion_first {s : State} {r : Req} {rest : List HostOp} (h : s.hostOut = .atomic r :: rest) (ok : Bool) :
    exec (.atomicopCompletion 0 ok) s = .next (if ok = true then (if s.hub.pcieUp = true then { s with hostOut := rest }.performAtomic r else s)
      else { s with hostOut := rest }.failAtomic r) := by
  show execAtomicopCompletion 0 ok s = _
  simp only [execAtomicopCompletion, h, takeAt, hostBlocked_first]
  cases ok with
  | false => rfl
  | true => cases s.hub.pcieUp <;> rfl

/-- A completed AtomicOp but that of AMOCT, in the words of R208. -/
theorem performAtomic_completes (s : State) {r : Req} {core : Nat} {d : SReg} (cls : r.tgt.cls = 3) (rc : r.tgt.rc = false) (dest : r.dest = .sreg core d)
    (plain : ∀ op cc, r.op ≠ .amoct op cc) (width : 0 < r.w) :
    let old := s.num r.tgt.key r.w
    let t := s.performAtomic r
    t.hostOut = s.hostOut ∧ t.rets = s.rets ++ [⟨core, [(d, BitVec.ofNat 64 old)]⟩] ∧ (∀ j, t.regs j = s.regs j)
      ∧ t.conts = (if atomicFires r.op r.w old r.b r.c ∧ contKind r.k ≠ 0
          then s.conts ++ [⟨.tdec r.k (BitVec.ofNat 64 old), 0, r.org, none, (16, 0)⟩] else s.conts)
      ∧ (∀ v, atomicWrites r.op r.w old r.b r.c = .some v → Stored s t ((List.range r.w).map (r.tgt.key + ·)) (leBytes r.w v))
      ∧ (atomicWrites r.op r.w old r.b r.c = none → SameMem s t) := by
  intro old t
  obtain ⟨hostOut, rets, regs, conts, mem⟩ := performAtomic_device s r cls rc dest
  rw [effect_fires _ _ _ _ _ plain] at conts
  refine ⟨hostOut, rets, regs, conts, fun v e => ?_, fun e a => ?_⟩
  · have stored : Stored s (s.wrote r) _ (leBytes r.w ((r.op.effect r.w old r.b r.c).1.getD old)) := wrote_stored s r
    rw [effect_writes _ width, e] at stored
    unfold Stored; rw [mem]; exact stored
  · have kept : s.wrote r = s := by rw [State.wrote, effect_writes _ width, e]
    rw [mem, kept]

/-- Where no publication travels to the host, none is withheld (R393). -/
theorem withhold_none (s : State) (g : Org) (h : ∀ va a v x m o, HostOp.publish va a v x m o ∉ s.hostOut) : s.withhold g = s := by
  have kept (p : HostOp → Bool) (hp : ∀ o ∈ s.hostOut, p o = false) : s.hostOut.partition p = ([], s.hostOut) := by
    rw [List.partition_eq_filter_filter, List.filter_eq_nil_iff.2 fun o m => by simp [hp o m],
      List.filter_eq_self.2 fun o m => by simp [hp o m]]
  rw [State.withhold, kept]
  · rfl
  · intro o m
    cases o with
    | publish va a v x ms o => exact absurd m (h va a v x ms o)
    | _ => rfl

/-- HOST_WRITE_DROPPED of a posted write that stands first, no publication being behind it (R393). -/
theorem hostWriteDropped_first {s : State} {va : Word} {a : Nat} {bs : List Byte} {g : Org} {rest : List HostOp} (h : s.hostOut = .write va a bs g :: rest)
    (none : ∀ va a v x m o, HostOp.publish va a v x m o ∉ rest) :
    exec (.hostWriteDropped 0) s = .next ({ s with hostOut := rest }.dropHostWrite 4 va g) := by
  have out : ({ s with hostOut := rest }.dropHostWrite 4 va g).hostOut = rest := by
    unfold State.dropHostWrite State.lateFault
    rw [cancelTask_hostOut, post_hostOut]
    split
    · split <;> rfl
    · rfl
  show execHostWriteDropped 0 s = _
  simp only [execHostWriteDropped, h, takeAt, State.loseHostOp]
  rw [withhold_none _ _ (by rw [out]; exact none)]

/-- A dropped write of a core that runs its task, or releases that of a task cancelled (R393). -/
theorem dropHostWrite_eq (s : State) (kind : Nat) (va : Word) {g : Org} {c : Nat} (h : g.core = some c) :
    s.dropHostWrite kind va g =
      ((if s.running g = true ∨ ((s.core c).task = none ∧ g.task = some (s.core c).taskrec) then s.modCore c fun k => { k with withheld := true } else s).post
        (mkRec 0x1A 2 (locDie 16 8) (leBytes 1 kind) (some va) (some g))).cancelTask g := by
  simp only [State.dropHostWrite, h, State.lateFault, Bool.or_eq_true, Bool.and_eq_true, Option.isNone_iff_eq_none, beq_iff_eq]

/-- The host link goes down with nothing on its way (R393). -/
theorem pcieLinkDown_empty {s : State} (up : s.hub.pcieUp = true) (out : s.hostOut = []) :
    exec .pcieLinkDown s = .next (s.modHub fun h => { h with pcieUp := false }) := by
  have same : ({ s.modHub (fun h => { h with pcieUp := false }) with hostOut := [] } : State) = s.modHub fun h => { h with pcieUp := false } := by
    rw [← out]; rfl
  show execPcieLinkDown s = _
  rw [execPcieLinkDown, if_neg (by simpa using up)]
  simp only [out, List.zipIdx_nil, List.foldl_nil, same]

/-- A link that is down stays so. -/
theorem pcieLinkDown_down {s : State} (down : s.hub.pcieUp = false) : exec .pcieLinkDown s = .next s := by
  show execPcieLinkDown s = _
  rw [execPcieLinkDown, if_pos (by simpa using down)]

/-- Settles O57: bring-up by the step that fails, and each access of the host link by its window, its context, and where its bytes lie. -/
theorem hostLink : Obligations.HostLink := by
  unfold Obligations.HostLink
  intro s h opened hosts dropped
  have openIff : opened ↔ s.hostOpen = true := (hostOpen_iff s).symm
  have hostsIff (c : Nat) : hosts c ↔ s.hosts c = true := (hosts_iff s c).symm
  refine ⟨fun cfg ready recovery booterr => ?up, winnWrite_does s, fun c v _ => decrementPortWrite_waits s c v, fun c v hc free => ?port,
    fun off bytes write inside some free => ?window, fun r rest core d out cls rc dest plain width _ _ => ?atomic, fun va a bs g rest c out none core => ?drop,
    pcieLinkDown_down, pcieLinkDown_empty⟩
  case up =>
    intro good sizes fails
    have sizesIff : bootSizesOk cfg = true ↔ sizes := bootSizesOk_iff cfg
    have failing {n : Nat} (pos : n ≠ 0) (e : s.failingStep cfg = n) : fails n := powerGood_fails ready recovery booterr pos e
    refine ⟨fun bad => failing (by decide) (failingStep_first cfg bad), fun first rest => failing (by decide) (failingStep_second cfg first rest),
      fun all lo hi known => failing (by omega) (failingStep_tests cfg all lo hi (by rwa [sizesIff])),
      fun all three four bad => failing (by decide) (failingStep_sizes cfg all three four (by rwa [sizesIff])),
      fun all none ok => powerGood_succeeds ready recovery booterr (failingStep_none cfg all none (sizesIff.2 ok))⟩
  case port =>
    refine ⟨fun zero op ho => decrementPortWrite_taken hc free zero (openIff.1 op) ((hostsIff c).1 ho), fun shut => decrementPortWrite_dropped hc free ?_⟩
    rwa [openIff, hostsIff, Bool.not_eq_true, Bool.not_eq_true] at shut
  case window =>
    intro w va n i ends
    have go : Bar2Goes s off n := ⟨inside, by simpa [n] using some, free⟩
    have ended {kind : Nat} (e : s.window off n (if write then .write else .read) = .error kind) : ends kind := bar2Access_dropped write go e
    refine ⟨fun closed => ended (window_closed s off n _ ?_), fun op en absent => ended (window_absent s off n _ (openIff.1 op) en ?_),
      fun op en ho => ⟨fun e unmapped => ended (window_unmapped s off n _ (openIff.1 op) en ((hostsIff _).1 ho) unmapped), ?reads, ?writes, ?atomics⟩⟩
    · rwa [openIff, Bool.not_eq_true] at closed
    · rwa [hostsIff, Bool.not_eq_true] at absent
    case reads =>
      intro ks r keys unparked clean near
      subst r
      exact bar2Access_reads go (window_mapped s off n .read (openIff.1 op) en ((hostsIff _).1 ho) keys) unparked clean near
    case writes =>
      intro ks t r keys unparked tr near rc one
      subst r
      exact ⟨_, bar2Access_writes go (window_mapped s off n .write (openIff.1 op) en ((hostsIff _).1 ho) keys) unparked tr near rc one,
        put_stored s t.key bytes, rfl, rfl⟩
    case atomics =>
      intro op2 a b t ks size code aligned keys tr x y kind org old new
      have mapped := window_mapped s off n .atomic (openIff.1 op) en ((hostsIff _).1 ho) keys
      have goes : HostAtomicGoes s off op2 n w.ctx va ks t := ⟨go, size, code, aligned, mapped, tr⟩
      have kindEq : kind = hostAOp op2.toNat := hostAOp_eq code
      rw [kindEq]
      refine ⟨hostAtomicop_parks goes a b, hostAtomicop_asks goes a b, fun near rc unparked clean span place => ?_⟩
      refine ⟨_, hostAtomicop_performs goes a b near rc unparked clean span place, ?_, hostReq_stored s code a b, wrote_cores s _⟩
      rw [State.hostRead, State.hub_modHub, wrote_hub]
  case atomic =>
    intro old
    refine ⟨fun down => ?_, fun up => ?_, ?_⟩
    · rw [atomicopCompletion_first out, if_pos rfl, if_neg (by rw [← Bool.not_eq_true] at down; exact down)]
    · rw [atomicopCompletion_first out, if_pos rfl, if_pos up]
      obtain ⟨hostOut, rets, regs, conts, writes, keeps⟩ :=
        performAtomic_completes { s with hostOut := rest } cls rc dest plain (by omega)
      refine ⟨_, rfl, hostOut, rets, regs, conts, ?_⟩
      split
      · next v e => exact writes v e
      · next e => exact keeps e
    · rw [atomicopCompletion_first out]; rfl
  case drop =>
    rw [hostWriteDropped_first out none, dropHostWrite_eq _ _ _ core]
    rfl

end Sys2Proof.Machine
end
